-- ==== Sys2Proof/Word.lean ====
section
/-! DEFINITION. The word types of the die and the numbering of its parts (chapter 00: R3, R14, R16, R20). -/
namespace Sys2Proof

/-- A register or a store word (R16). -/
abbrev Word := BitVec 64
/-- One 32-bit slot of a bundle (R83). -/
abbrev Slot := BitVec 32
/-- One byte of a ledge. -/
abbrev Byte := BitVec 8
/-- An offset register (R73). -/
abbrev OfReg := BitVec 48
/-- The massif a register page, a tag or a job belongs to (R48). -/
abbrev Massif := Fin 4
/-- A physical cluster, 0..41 (R20). -/
abbrev PClus := Fin 42
/-- A physical core of a cluster, 0..67 (R20). -/
abbrev PCore := Fin 68
/-- A col port of the die. -/
abbrev Col := Fin 16

/-- A core by its physical numbers (R20). -/
structure CoreId where
  clus : PClus
  core : PCore
  deriving DecidableEq, Repr

/-- Bits [lo+n-1:lo] of a word (R14). -/
abbrev bitsAt {w : Nat} (v : BitVec w) (lo n : Nat) : BitVec n := v.extractLsb' lo n

/-- The word whose listed bit positions hold the listed values (a value's bit 0 stands at its position). -/
def packAt (l : List (Nat × Nat)) : Word := BitVec.ofNat 64 (l.foldl (fun a p => a + p.2 * 2 ^ p.1) 0)

/-- 1 for true and 0 for false. -/
abbrev bitOf (b : Bool) : Nat := b.toNat

end Sys2Proof
end

