-- ==== Sys2Proof/Syntax/Messages.lean ====
section
/-! DEFINITION. Atius messages as data (chapter 16, R402..R404; chapter 17, R415, R419): the header of cell 0, the body of
each type, and the sideband clock messages. The commands that receive a message carry them, and a col's wire holds them. -/
namespace Sys2Proof

/-- Cell 0 of a message except TYPE (R402). `rsvd` says that some reserved bit of the message is 1. -/
structure MsgHdr where
  vc : BitVec 3
  /-- Cells after cell 0. -/
  len : BitVec 7
  host : Bool
  src : BitVec 4
  dst : BitVec 4
  tag : BitVec 14
  slack : BitVec 20
  status : BitVec 3
  nodue : Bool
  job : BitVec 32
  rsvd : Bool
  /-- Its cell 0 stands in the flit in which the message before it ended (R386). -/
  joins : Bool
  deriving DecidableEq, Repr

/-- What a link message received says besides its fields: some reserved bit of it is 1, and it stands in the flit in which the message before
it ended (R386, R404). -/
structure LinkHdr where
  rsvd : Bool
  joins : Bool
  deriving DecidableEq, Repr

/-- SUMMIT (R337, R403); `release` is KIND. -/
structure SummitArgs where
  ctx : BitVec 4
  release : Bool
  trap : Bool
  held : Bool
  gen : BitVec 32
  lastNode : BitVec 16
  rate : BitVec 12
  rateNode : BitVec 16
  throttle : BitVec 4
  deriving DecidableEq, Repr

/-- CSIG_MSG: the CSIG message (R403). -/
structure CsigMsgArgs where
  lclus : BitVec 6
  lcore : BitVec 7
  k : BitVec 6
  deriving DecidableEq, Repr

/-- TELEM (R461). -/
structure TelemArgs where
  window : BitVec 48
  die : BitVec 4
  kind : BitVec 4
  throttle : BitVec 4
  power : BitVec 64
  payload : List Byte
  deriving DecidableEq, Repr

/-- LREAD (R403): `cnt1` is the byte count less 1. -/
structure LreadArgs where
  lclus : BitVec 6
  lcore : BitVec 7
  off : BitVec 19
  cnt1 : BitVec 10
  shape : BitVec 4
  stride : BitVec 13
  deriving DecidableEq, Repr

/-- LWRITE (R403): data bytes, and the mask when MASKED = 1. -/
structure LwriteArgs where
  lclus : BitVec 6
  lcore : BitVec 7
  off : BitVec 19
  cnt1 : BitVec 10
  sig : Bool
  k : BitVec 6
  data : List Byte
  mask : Option (List Bool)
  deriving DecidableEq, Repr

/-- MWRITE (R403). -/
structure MwriteArgs where
  block : BitVec 32
  data : List Byte
  mask : Option (List Bool)
  deriving DecidableEq, Repr

/-- POSITION (R419); KIND is 0 for a die and 1 for a hub. -/
structure PositionArgs where
  serial : BitVec 56
  kind : BitVec 4
  port : BitVec 4
  hubNum : BitVec 4
  child : Bool
  major : BitVec 8
  minor : BitVec 8
  stepping : BitVec 8
  features : BitVec 32
  crown : BitVec 56
  deriving DecidableEq, Repr

/-- One port of a REPORT (R419). -/
structure ReportPort where
  serial : BitVec 56
  port : BitVec 4
  hub : Bool
  up : Bool
  mgmt : Bool
  valid : Bool
  deriving DecidableEq, Repr

/-- REPORT (R419). -/
structure ReportArgs where
  serial : BitVec 56
  major : BitVec 8
  stepping : BitVec 8
  features : BitVec 32
  clockCol : BitVec 4
  depth : BitVec 3
  ports : Vector ReportPort 16
  deriving DecidableEq, Repr

/-- ASSIGN (R419). -/
structure AssignArgs where
  serial : BitVec 56
  id : BitVec 4
  dies : BitVec 4
  major : BitVec 8
  mask : BitVec 32
  hubs : BitVec 4
  deriving DecidableEq, Repr

/-- A DISC_ROUTE entry (R425). -/
structure RouteEntry where
  cols : BitVec 16
  count : BitVec 3
  spread : BitVec 3
  mcol : BitVec 4
  mvalid : Bool
  deriving DecidableEq, Repr

/-- A POSITION from a hub. -/
def PositionArgs.hub (a : PositionArgs) : Bool := a.kind == 1

/-- DISC operations, a reserved OP among them (R419). -/
inductive DiscOp where
  | position (a : PositionArgs)
  | report (a : ReportArgs)
  | end_ (n : BitVec 8)
  | assign (a : AssignArgs)
  | routes (id : BitVec 4) (e : Vector RouteEntry 12)
  | alignReq (t1 : BitVec 64)
  | alignRsp (t2 t3 : BitVec 64)
  | done
  | fail (code : BitVec 4)
  | reserved (op : BitVec 4)
  deriving DecidableEq, Repr

/-- HELLO (R404). -/
structure HelloArgs where
  major : BitVec 8
  minor : BitVec 8
  port : BitVec 4
  kind : BitVec 4
  x32 : Bool
  upper : Bool
  /-- Usable halves: bit 0 lower, bit 1 upper. -/
  usable : BitVec 2
  rate : BitVec 2
  deriving DecidableEq, Repr

/-- CREDIT (R404): cells returned, channels SIGNAL, RSP, REQ, DATA, MGMT, BG. -/
abbrev CreditArgs := Vector (BitVec 16) 6

/-- Cell 1 and payload of a message, by its TYPE (R403, R404); `other` is a reserved TYPE. -/
inductive MsgBody where
  | idle
  | credit (a : CreditArgs)
  | hello (a : HelloArgs)
  | linkDown (cause : BitVec 4)
  | summit (a : SummitArgs)
  | csig (a : CsigMsgArgs)
  | telem (a : TelemArgs)
  | lread (a : LreadArgs)
  | mread (block : BitVec 32)
  | walkRd (entry : BitVec 37)
  | walkRsp (entry : BitVec 64)
  | lwrite (a : LwriteArgs)
  | mwrite (a : MwriteArgs)
  | rdata (bytes : List Byte)
  | wack
  | regRd (addr : BitVec 23)
  | regWr (addr : BitVec 23) (data : BitVec 64)
  | regRsp (data : BitVec 64)
  | disc (op : DiscOp)
  | other (type : BitVec 5)
  deriving DecidableEq, Repr

/-- A message. -/
structure Msg where
  hdr : MsgHdr
  body : MsgBody
  deriving DecidableEq, Repr

/-- Sideband clock-tree messages (R415). -/
inductive ClockMsg where
  | offer (h : BitVec 4) (serial : BitVec 56)
  | req
  | release
  deriving DecidableEq, Repr

end Sys2Proof
end

