-- ==== Sys2Proof/Syntax/Slots.lean ====
section
/-! DEFINITION. The slot operations of a bundle as data: one structure per operation, its fields those of its layout
(chapter 03, R93..R108). The commands of Syntax.lean carry them, and Decode.lean reads them from slot words. -/
namespace Sys2Proof

/-- LOOP (R93): counter n; SRC; the immediate N-1, or the parameter index in its bits [2:0]; body length D. -/
structure LoopArgs where
  n : BitVec 2
  src : Bool
  cnt : BitVec 12
  d : BitVec 11
  deriving DecidableEq, Repr

/-- BRANCH (R94). -/
structure BranchArgs where
  cond : BitVec 4
  sel : BitVec 3
  imm : BitVec 8
  ofs : BitVec 11
  deriving DecidableEq, Repr

/-- HINT (R95): class, lead L, and the encoded D-1. -/
structure HintArgs where
  cls : BitVec 3
  lead : BitVec 12
  len : BitVec 11
  deriving DecidableEq, Repr

/-- MARK (R77). -/
structure MarkArgs where
  imm : BitVec 16
  deriving DecidableEq, Repr

/-- MCFG and OCFG (R98, R195): configuration set c, base register, displacement in 1 KiB units. -/
structure CfgArgs where
  c : BitVec 2
  base : BitVec 5
  d : BitVec 7
  deriving DecidableEq, Repr

/-- MALAT (R98): N-1 lines into latch position S onward. -/
structure MalatArgs where
  n1 : BitVec 4
  s : BitVec 4
  reset : Bool
  base : BitVec 5
  d : BitVec 7
  deriving DecidableEq, Repr

/-- MWSP (R98): a weight-streaming pass of P steps, p1 = P-1. -/
structure MwspArgs where
  c : BitVec 2
  wcls : BitVec 2
  sc : BitVec 2
  final : Bool
  chain : Bool
  winc : Bool
  p1 : BitVec 8
  base : BitVec 5
  d : BitVec 4
  deriving DecidableEq, Repr

/-- MTLD (R98): one weight tile into the shadow tile. -/
structure MtldArgs where
  wcls : BitVec 2
  base : BitVec 5
  d : BitVec 7
  deriving DecidableEq, Repr

/-- MTP (R98): a tile pass of T K-steps over M rows, m1 = M-1 and t1 = T-1. -/
structure MtpArgs where
  c : BitVec 2
  wcls : BitVec 2
  sc : BitVec 2
  final : Bool
  chain : Bool
  m1 : BitVec 5
  t1 : BitVec 8
  base : BitVec 5
  deriving DecidableEq, Repr

/-- VLD, VST, VLDL and VSTL (R211): register, base, displacement and INC. -/
structure VmemArgs where
  v : BitVec 4
  base : BitVec 5
  d : BitVec 9
  inc : Bool
  deriving DecidableEq, Repr

/-- The arithmetic form of the VXE slot (R215..R223). -/
structure VarithArgs where
  vd : BitVec 4
  va : BitVec 4
  vb : BitVec 4
  vc : BitVec 4
  bf : Bool
  sub : BitVec 3
  deriving DecidableEq, Repr

/-- VCMP (R221). -/
structure VcmpArgs where
  d : BitVec 3
  va : BitVec 4
  vb : BitVec 4
  bf : Bool
  cond : BitVec 3
  mode : BitVec 2
  deriving DecidableEq, Repr

/-- VBCAST (R223). -/
structure VbcastArgs where
  vd : BitVec 4
  va : BitVec 4
  j : BitVec 7
  bf : Bool
  deriving DecidableEq, Repr

/-- VTOOF (R224). -/
structure VtoofArgs where
  d : BitVec 5
  va : BitVec 4
  deriving DecidableEq, Repr

/-- OCVT (R102): R-1 rows from r0, source, base, displacement and INC. -/
structure OcvtArgs where
  c : BitVec 2
  r1 : BitVec 5
  r0 : BitVec 5
  src : Bool
  base : BitVec 5
  d : BitVec 7
  inc : Bool
  deriving DecidableEq, Repr

/-- TXGO (R104): handle, base and displacement of the descriptor list. -/
structure TxgoArgs where
  h : BitVec 2
  base : BitVec 5
  d : BitVec 7
  deriving DecidableEq, Repr

/-- TXCANCEL (R104). -/
structure TxcancelArgs where
  h : BitVec 2
  deriving DecidableEq, Repr

/-- TXPUT (R105). -/
structure TxputArgs where
  src : BitVec 5
  dst : BitVec 5
  die : BitVec 4
  k : BitVec 6
  sig : Bool
  size : BitVec 2
  deriving DecidableEq, Repr

/-- CWAIT (R106). -/
structure CwaitArgs where
  k : BitVec 6
  n : BitVec 16
  keep : Bool
  deriving DecidableEq, Repr

/-- CSIG (R106). -/
structure CsigArgs where
  k : BitVec 6
  n : BitVec 16
  deriving DecidableEq, Repr

/-- CWIN (R106). -/
structure CwinArgs where
  k : BitVec 6
  opn : Bool
  zero : Bool
  deriving DecidableEq, Repr

/-- SARR (R107). -/
structure SarrArgs where
  ctx : BitVec 4
  wait : Bool
  deriving DecidableEq, Repr

/-- SWAIT (R107). -/
structure SwaitArgs where
  ctx : BitVec 4
  deriving DecidableEq, Repr

/-- PSEL (R91): one inversion bit and one 3-bit flag select for each of slots 1..6. -/
structure PselArgs where
  inv : BitVec 6
  sel : BitVec 18
  deriving DecidableEq, Repr

/-- XIMM (R90). -/
structure XimmArgs where
  tgt : BitVec 3
  x : BitVec 23
  deriving DecidableEq, Repr

/-- PXIMM (R90, R91). -/
structure PximmArgs where
  tgt : BitVec 3
  flag : BitVec 3
  inv : Bool
  gmask : BitVec 6
  x : BitVec 13
  deriving DecidableEq, Repr

/-- OFADD (R108). -/
structure OfaddArgs where
  d : BitVec 5
  a : BitVec 5
  imm : BitVec 16
  deriving DecidableEq, Repr

/-- OFIDX (R108). -/
structure OfidxArgs where
  d : BitVec 5
  a : BitVec 5
  src : BitVec 4
  sh : BitVec 4
  m : BitVec 8
  deriving DecidableEq, Repr

/-- OFSET (R108). -/
structure OfsetArgs where
  d : BitVec 5
  sh : BitVec 5
  imm : BitVec 16
  deriving DecidableEq, Repr

/-- PSET (R108). -/
structure PsetArgs where
  d : BitVec 3
  a : BitVec 5
  b : BitVec 5
  cmp : BitVec 3
  deriving DecidableEq, Repr

/-- PSETI (R108). -/
structure PsetiArgs where
  d : BitVec 3
  a : BitVec 5
  cmp : BitVec 3
  imm : BitVec 15
  deriving DecidableEq, Repr

/-- PLOG (R108). -/
structure PlogArgs where
  d : BitVec 3
  a : BitVec 3
  b : BitVec 3
  op : BitVec 2
  deriving DecidableEq, Repr

/-- The operations of slot 0 (R93..R95). -/
inductive SeqOp where
  | nop
  | loop (a : LoopArgs)
  | branch (a : BranchArgs)
  | halt
  | hint (a : HintArgs)
  | mark (a : MarkArgs)
  deriving DecidableEq, Repr

/-- The operations of slot 1 (R98). -/
inductive MxeOp where
  | nop
  | mcfg (a : CfgArgs)
  | malat (a : MalatArgs)
  | mwsp (a : MwspArgs)
  | mtld (a : MtldArgs)
  | mtp (a : MtpArgs)
  | mclr
  deriving DecidableEq, Repr

/-- The operations of slot 2 (R211..R224). -/
inductive VxeOp where
  | nop
  | vld (a : VmemArgs)
  | vst (a : VmemArgs)
  | vldl (a : VmemArgs)
  | vstl (a : VmemArgs)
  | vadd (a : VarithArgs)
  | vsub (a : VarithArgs)
  | vmul (a : VarithArgs)
  | vfma (a : VarithArgs)
  | vmax (a : VarithArgs)
  | vmin (a : VarithArgs)
  | vexp (a : VarithArgs)
  | vrcp (a : VarithArgs)
  | vrsqrt (a : VarithArgs)
  | vred (a : VarithArgs)
  | vrot (a : VarithArgs)
  | vcmp (a : VcmpArgs)
  | vcvt (a : VarithArgs)
  | vbcast (a : VbcastArgs)
  | vtoof (a : VtoofArgs)
  deriving DecidableEq, Repr

/-- The operations of slot 3 (R102). -/
inductive OstOp where
  | nop
  | ocfg (a : CfgArgs)
  | ocvt (a : OcvtArgs)
  deriving DecidableEq, Repr

/-- The operations of slots 4 and 5 (R104, R105). -/
inductive TxOp where
  | nop
  | txgo (a : TxgoArgs)
  | txcancel (a : TxcancelArgs)
  | txput (a : TxputArgs)
  deriving DecidableEq, Repr

/-- The operations of slot 6 (R106, R107). -/
inductive SynOp where
  | nop
  | cwait (a : CwaitArgs)
  | csig (a : CsigArgs)
  | cwin (a : CwinArgs)
  | sarr (a : SarrArgs)
  | swait (a : SwaitArgs)
  | eopen
  | ecommit
  | ediscard
  deriving DecidableEq, Repr

/-- The operations of slot 7 (R90, R91, R108). -/
inductive ExtOp where
  | nop
  | psel (a : PselArgs)
  | ximm (a : XimmArgs)
  | pximm (a : PximmArgs)
  | ofadd (a : OfaddArgs)
  | ofidx (a : OfidxArgs)
  | ofset (a : OfsetArgs)
  | pset (a : PsetArgs)
  | pseti (a : PsetiArgs)
  | plog (a : PlogArgs)
  deriving DecidableEq, Repr

end Sys2Proof
end

