-- ==== Sys2Proof/Syntax/Environment.lean ====
section
/-! DEFINITION. What a command brings from outside the modelled state: measured values, test findings, parity failures and
which of several things happened. The spec leaves these to the silicon, so they are operands (log entry 1). -/
namespace Sys2Proof

/-- The failure of one bank word of a ledge read: requester code, line, word, failing groups (R256, R258). -/
structure ParityHit where
  req : BitVec 4
  line : BitVec 9
  word : BitVec 4
  groups : BitVec 16
  deriving DecidableEq, Repr

/-- A failing group met by a read: the hit, and whether the stored group itself is bad from now on. -/
structure ReadFault where
  hit : ParityHit
  stored : Bool
  deriving DecidableEq, Repr

/-- Where a slot operation starts: its core, its bundle's address, and the failures its reads of this beat meet. -/
structure SlotAt where
  core : CoreId
  addr : BitVec 18
  faults : List ReadFault
  deriving DecidableEq, Repr

/-- Where a SEQ-slot operation is evaluated: its sequencer, and the extension X of its bundle, when it has one (R90). -/
structure SeqAt where
  s : Massif
  x : Option (BitVec 23)
  deriving DecidableEq, Repr

/-- What meets the issue of a bundle: whether the pacing interval has elapsed; units (bit s-1 for slot s) that have not
acknowledged for a reason of their own; bad parity of the FIFO entry (R495); parity failures of its reads. -/
structure IssueEnv where
  paced : Bool
  late : BitVec 7
  fifoBad : Bool
  faults : List ReadFault
  deriving DecidableEq, Repr

/-- A finding of the logic self-test about one core (R468). -/
inductive LbistFinding where
  /-- One failing latch bit: column and bit. -/
  | latch (column : BitVec 5) (bit : Fin 34)
  | latches
  | other
  deriving DecidableEq, Repr

/-- What the bring-up step in progress finds (R463..R475) at its present target; each step reads its own fields. -/
structure StepFindings where
  /-- RAILS: a readback or a rail outside its window. -/
  railBad : Bool
  /-- FUSE: the two copies of a word differ. -/
  fuseBad : Bool
  /-- SPINE: a failure outside the routers, and the routers that fail. -/
  spineBad : Bool
  routersBad : BitVec 42
  /-- LBIST, and clusters whose router or FIFO logic fails. -/
  lbist : List (CoreId × LbistFinding)
  store : List PClus
  /-- SRAM: failing per-core arrays; a failing die-level array. -/
  sram : List CoreId
  spineSram : Bool
  deriving DecidableEq, Repr

/-- How a characterisation run ended (R471): the pattern compared correctly, or not, or a droop crossing discards the run. -/
inductive CharOutcome where
  | correct | wrong | droop
  deriving DecidableEq, Repr

/-- How an AVSBus frame ended: failed, or answered (a read with millivolts) (R539, R540). -/
inductive AvsReply where
  | failed
  | good (mv : BitVec 10)
  deriving DecidableEq, Repr

/-- A unit of the spine whose parity fails (R495). -/
inductive SpineUnit where
  | router (p : PClus)
  /-- The route table of a router (R379). -/
  | routeTable (p : PClus)
  | registerResponder
  | summitUnit
  | trackerEntries
  | readTagPool
  | powerManager
  /-- A translation-cache entry: massif and VA. Not fatal. -/
  | translation (m : Massif) (va : BitVec 48)
  deriving DecidableEq, Repr

/-- What a training attempt found (R390): a partner on the sideband, shared protocol and flit format (R385), the fastest
rate at which training and lane repair succeed, failing receive data lanes at that rate. -/
structure TrainArgs where
  present : Bool
  shared : Bool
  rate : Option (BitVec 2)
  lanes : BitVec 64
  deriving DecidableEq, Repr

/-- What the interconnect test has counted (R433). -/
structure ItestResult where
  sync : Bool
  errors : BitVec 32
  lanes : BitVec 64
  aux : BitVec 10
  deriving DecidableEq, Repr

/-- What the checker has counted where nothing has come since it was last seen. -/
def ItestResult.none : ItestResult := ⟨false, 0, 0, 0⟩

/-- The boundary cells of one direction of a col (R432): its lanes, as ITEST_AUX names them, and its sideband wires. The number of
sideband wires is UCIe's (PRESUMED, log entry 126). -/
structure BoundaryLanes where
  data : BitVec 64
  redData : BitVec 4
  clk : Bool
  clkRed : Bool
  valid : Bool
  validRed : Bool
  track : Bool
  trackRed : Bool
  sideband : BitVec 4
  deriving DecidableEq, Repr

/-- The boundary cells of one col (R432). -/
structure BoundaryCol where
  tx : BoundaryLanes
  rx : BoundaryLanes
  rck : Bool
  deriving DecidableEq, Repr

/-- The boundary cells that observe and drive (R432). -/
structure Boundary where
  cols : Vector BoundaryCol 16
  faultN : Bool
  deriving DecidableEq, Repr
/-- Every cell at 0. -/
def Boundary.idle : Boundary :=
  let l : BoundaryLanes := ⟨0, 0, false, false, false, false, false, false, 0⟩
  ⟨Vector.replicate 16 ⟨l, l, false⟩, false⟩

/-- What the boundary register captures: every cell, those that observe only among them (R432). -/
structure BoundaryView where
  cells : Boundary
  porstN : Bool
  crownN : Bool
  refclk : Bool
  deriving DecidableEq, Repr

/-- A scan of the boundary register (R432): what is shifted into it, and what its cells and the REFCLK cell see. -/
structure BoundaryScan where
  load : Boundary
  seen : Boundary
  refclk : Bool
  deriving DecidableEq, Repr

/-- A scan of the IEEE 1500 wrappers of the engines (R434), whose registers the spec does not lay out: the instruction register loaded, or the
data register loaded, which first captures what the wrapped engines show; none for a scan that only selects them. -/
inductive WrapperScan where
  | select
  | instruction (bits : List Bool)
  | data (load seen : List Bool)
  deriving DecidableEq, Repr

/-- An access to an instrument of the IEEE 1687 network (R434): logic BIST and SRAM BIST with their results, SRAM BIST also with the data it returns, the fuse reader with
the word it returns, or ITEST_CTL written (`r`: what the interconnect test has counted, for a write of STOP). -/
inductive IjtagAccess where
  | logicBist (pass : Bool)
  | sramBist (pass : Bool) (data : BitVec 64)
  | fuse (word : BitVec 64)
  | itest (ctl : BitVec 64) (r : ItestResult)
  deriving DecidableEq, Repr

/-- An access through the register bridge (R435, R493): a register read (`bad`: the store word that PS_DATA returns has bad
parity), a register write, or a read of eight bytes of a ledge in space 0x1, with the parity failures it meets; `r` is what the checker of the
interconnect test has counted by then (R433). -/

inductive BridgeAccess where
  | read (addr : BitVec 23) (bad : Bool) (r : ItestResult)
  | write (addr : BitVec 23) (data : BitVec 64) (r : ItestResult)
  | ledge (lclus : BitVec 6) (lcore : BitVec 7) (off : BitVec 19) (faults : List ReadFault)
  deriving DecidableEq, Repr

/-- A stamping point: 0..41 clusters, 42..83 routers, 84..99 cols, 100 the die-level port (R440). -/
abbrev StampPoint := Fin 101

end Sys2Proof
end

