-- ==== Sys2Proof/Syntax.lean ====
section
/-! DEFINITION. The commands of the block: one constructor per row of spec/opcode_table.json, in the table's order, each with
the rule its row names. -/
namespace Sys2Proof

/-- A command. -/
inductive Instr where
  -- Power, reset and bring-up
  /-- PORST_N_ASSERT (R535). -/
  | porstNAssert (held : Bool)
  /-- PORST_N_RELEASE (R534). -/
  | porstNRelease (crownN : Bool)
  /-- BROWN_OUT (R537). -/
  | brownOut (rail : Fin 7)
  /-- BROWN_OUT_RECOVERY (R537). -/
  | brownOutRecovery (crownN : Bool)
  /-- VDD_AON_LOSS (R537). -/
  | vddAonLoss
  /-- BRINGUP_STEP (R463). -/
  | bringupStep (f : StepFindings)
  /-- WAVE (R466). -/
  | wave
  /-- CHARACTERISATION_RUN (R471). -/
  | characterisationRun (c : CoreId) (v : Fin 4) (rate : BitVec 12) (o : CharOutcome)
  /-- REBRING (R464). -/
  | rebring
  /-- GO (R488). -/
  | go
  -- Massifs
  /-- CREATE (R483). -/
  | create (m : Massif)
  /-- CREATE_DONE (R484). -/
  | createDone (m : Massif)
  /-- MASSIF_RESET (R487). -/
  | massifReset (m : Massif)
  /-- MASSIF_RESET_DONE (R487). -/
  | massifResetDone (m : Massif)
  /-- TEARDOWN (R490). -/
  | teardown (m : Massif)
  /-- TEARDOWN_FILL_DONE (R490). -/
  | teardownFillDone (m : Massif)
  /-- MASSIF_BAD_CMD (R483). -/
  | massifBadCmd (m : Massif)
  -- Sequencers
  /-- LOAD (R51). -/
  | load (s : Massif)
  /-- LOAD_COMPLETE (R51). -/
  | loadComplete (s : Massif)
  /-- CHECK (R78). -/
  | check (s : Massif)
  /-- CHECK_COMPLETE (R81). -/
  | checkComplete (s : Massif)
  /-- START (R59). -/
  | start (s : Massif)
  /-- STOP (R64). -/
  | stop (s : Massif)
  /-- ABORT (R65). -/
  | abort (s : Massif)
  /-- BAD_CMD (R58). -/
  | badCmd (s : Massif)
  /-- BROADCAST_BUNDLE (R41). -/
  | broadcastBundle (s : Massif) (bad1 bad2 : Bool)
  /-- PROGRAM_END (R61). -/
  | programEnd (s : Massif)
  /-- STOP_HALT (R64). -/
  | stopHalt (s : Massif)
  /-- TRAP_HALT (R235). -/
  | trapHalt (s : Massif)
  /-- WATCHDOG (R82). -/
  | watchdog (s : Massif)
  -- Issue
  /-- ISSUE_BUNDLE (R24). -/
  | issueBundle (c : CoreId) (e : IssueEnv)
  -- SEQ slot
  /-- LOOP (R69). -/
  | loop (q : SeqAt) (a : LoopArgs)
  /-- BRANCH (R71). -/
  | branch (q : SeqAt) (a : BranchArgs)
  /-- HALT (R61). -/
  | halt (q : SeqAt)
  /-- HINT (R76). -/
  | hint (q : SeqAt) (a : HintArgs)
  /-- MARK (R77). -/
  | mark (q : SeqAt) (a : MarkArgs)
  -- MXE slot
  /-- MCFG (R143). -/
  | mcfg (p : SlotAt) (a : CfgArgs)
  /-- MALAT (R98). -/
  | malat (p : SlotAt) (a : MalatArgs)
  /-- MWSP (R152). -/
  | mwsp (p : SlotAt) (a : MwspArgs)
  /-- MTLD (R154). -/
  | mtld (p : SlotAt) (a : MtldArgs)
  /-- MTP (R156). -/
  | mtp (p : SlotAt) (a : MtpArgs)
  /-- MCLR (R98). -/
  | mclr (p : SlotAt)
  /-- PASS_RERUN (R497). -/
  | passRerun (c : CoreId) (faults : List ReadFault)
  -- VXE slot
  /-- VLD (R211). -/
  | vld (p : SlotAt) (a : VmemArgs)
  /-- VST (R211). -/
  | vst (p : SlotAt) (a : VmemArgs)
  /-- VLDL (R211). -/
  | vldl (p : SlotAt) (a : VmemArgs)
  /-- VSTL (R211). -/
  | vstl (p : SlotAt) (a : VmemArgs)
  /-- VADD (R215). -/
  | vadd (p : SlotAt) (a : VarithArgs)
  /-- VSUB (R215). -/
  | vsub (p : SlotAt) (a : VarithArgs)
  /-- VMUL (R215). -/
  | vmul (p : SlotAt) (a : VarithArgs)
  /-- VFMA (R215). -/
  | vfma (p : SlotAt) (a : VarithArgs)
  /-- VMAX (R216). -/
  | vmax (p : SlotAt) (a : VarithArgs)
  /-- VMIN (R216). -/
  | vmin (p : SlotAt) (a : VarithArgs)
  /-- VEXP (R218). -/
  | vexp (p : SlotAt) (a : VarithArgs)
  /-- VRCP (R218). -/
  | vrcp (p : SlotAt) (a : VarithArgs)
  /-- VRSQRT (R218). -/
  | vrsqrt (p : SlotAt) (a : VarithArgs)
  /-- VRED (R219). -/
  | vred (p : SlotAt) (a : VarithArgs)
  /-- VROT (R220). -/
  | vrot (p : SlotAt) (a : VarithArgs)
  /-- VCMP (R221). -/
  | vcmp (p : SlotAt) (a : VcmpArgs)
  /-- VCVT (R222). -/
  | vcvt (p : SlotAt) (a : VarithArgs)
  /-- VBCAST (R223). -/
  | vbcast (p : SlotAt) (a : VbcastArgs)
  /-- VTOOF (R224). -/
  | vtoof (p : SlotAt) (a : VtoofArgs)
  -- OST slot
  /-- OCFG (R195). -/
  | ocfg (p : SlotAt) (a : CfgArgs)
  /-- OCVT (R202). -/
  | ocvt (p : SlotAt) (a : OcvtArgs)
  -- TXA and TXB slots
  /-- TXGO (R104). -/
  | txgo (p : SlotAt) (eng : Bool) (a : TxgoArgs)
  /-- TXCANCEL (R302). -/
  | txcancel (p : SlotAt) (eng : Bool) (a : TxcancelArgs)
  /-- TXPUT (R105). -/
  | txput (p : SlotAt) (eng : Bool) (a : TxputArgs)
  -- SYN slot
  /-- CWAIT (R106). -/
  | cwait (p : SlotAt) (a : CwaitArgs)
  /-- CSIG (R106). -/
  | csig (p : SlotAt) (a : CsigArgs)
  /-- CWIN (R106). -/
  | cwin (p : SlotAt) (a : CwinArgs)
  /-- SARR (R333). -/
  | sarr (p : SlotAt) (a : SarrArgs)
  /-- SWAIT (R333). -/
  | swait (p : SlotAt) (a : SwaitArgs)
  /-- EOPEN (R348). -/
  | eopen (p : SlotAt)
  /-- ECOMMIT (R359). -/
  | ecommit (p : SlotAt)
  /-- EDISCARD (R362). -/
  | ediscard (p : SlotAt)
  -- EXT slot
  /-- PSEL (R91). -/
  | psel (p : SlotAt) (a : PselArgs)
  /-- XIMM (R90). -/
  | ximm (p : SlotAt) (a : XimmArgs)
  /-- PXIMM (R90). -/
  | pximm (p : SlotAt) (a : PximmArgs)
  /-- OFADD (R108). -/
  | ofadd (p : SlotAt) (a : OfaddArgs)
  /-- OFIDX (R108). -/
  | ofidx (p : SlotAt) (a : OfidxArgs)
  /-- OFSET (R108). -/
  | ofset (p : SlotAt) (a : OfsetArgs)
  /-- PSET (R108). -/
  | pset (p : SlotAt) (a : PsetArgs)
  /-- PSETI (R108). -/
  | pseti (p : SlotAt) (a : PsetiArgs)
  /-- PLOG (R108). -/
  | plog (p : SlotAt) (a : PlogArgs)
  -- Ledge cycles, landings, transfers, epochs, summits
  /-- IDLE_CYCLE (R248). -/
  | idleCycle (c : CoreId) (faults : List ReadFault)
  /-- INSERTED_CYCLE (R252). -/
  | insertedCycle (c : CoreId) (faults : List ReadFault)
  /-- LANDING (R326). -/
  | landing (n : Nat)
  /-- REMOTE_READ (R380). -/
  | remoteRead (n : Nat)
  /-- DESCRIPTOR_BURST (R277). -/
  | descriptorBurst (c : CoreId) (x : Fin 8)
  /-- TRANSFER_REQUEST (R282). -/
  | transferRequest (c : CoreId) (x : Fin 8) (write : Bool)
  /-- TAG_GRANT (R313). -/
  | tagGrant
  /-- TRACKER_ADMIT (R312). -/
  | trackerAdmit
  /-- DUE_TIME_RECOMPUTE (R307). -/
  | dueTimeRecompute (c : CoreId)
  /-- AGE_PROMOTION (R310). -/
  | agePromotion
  /-- STREAM_FAULT (R297). -/
  | streamFault (c : CoreId) (x : Fin 8)
  /-- STORE_SPACE_GRANT (R356). -/
  | storeSpaceGrant (p : PClus)
  /-- RELEASE_ITEM_LEAVES (R360). -/
  | releaseItemLeaves (c : CoreId) (bad : Bool)
  /-- ARRIVAL_DEPART (R334). -/
  | arrivalDepart (c : CoreId) (ctx : BitVec 4)
  /-- SUMMIT_RELEASE (R335). -/
  | summitRelease (m : Massif) (ctx : BitVec 4) (lclus : BitVec 6)
  /-- STAIRCASE_RELEASE (R341). -/
  | staircaseRelease (m : Massif) (ctx : BitVec 4) (lclus : BitVec 6)
  /-- SCREE_STEP_DOWN (R342). -/
  | screeStepDown (c : CoreId)
  /-- RAMP_QUARTER (R343). -/
  | rampQuarter (c : CoreId)
  /-- TRAP_FORWARD (R238). -/
  | trapForward (c : CoreId)
  -- Pace, power, thermal, scrub, errors, events
  /-- PACE_RECALIBRATE (R38). -/
  | paceRecalibrate (c : CoreId)
  /-- AGE_DERATE_STEP (R40). -/
  | ageDerateStep (c : CoreId)
  /-- WINDOW_MARK (R440). -/
  | windowMark (pt : StampPoint)
  /-- PUBLISH_WINDOW (R441). -/
  | publishWindow
  /-- RAIL_SAMPLE (R438). -/
  | railSample
  /-- HINT_RECOMPUTE (R449). -/
  | hintRecompute
  /-- AVS_FRAME (R539). -/
  | avsFrame (r : AvsReply)
  /-- DROOP_CROSSING (R452). -/
  | droopCrossing (p : PClus)
  /-- CLAMP_STEP (R453). -/
  | clampStep (p : PClus)
  /-- SENSOR_SAMPLE (R455). -/
  | sensorSample (t : Vector (BitVec 10) 64)
  /-- TRIP_CLEAR (R458). -/
  | tripClear
  /-- SCRUB_ADVANCE (R259). -/
  | scrubAdvance
  /-- SCRUB_READ (R259). -/
  | scrubRead (c : CoreId) (faults : List ReadFault)
  /-- SPINE_PARITY (R495). -/
  | spineParity (u : SpineUnit)
  /-- EVENT_NOTIFICATION (R526). -/
  | eventNotification
  -- Clock tree and discovery
  /-- CLOCK_OFFER_SEND (R413). -/
  | clockOfferSend
  /-- CLOCK_OFFER (R414). -/
  | clockOffer (c : Col) (vendor : BitVec 16) (h : BitVec 4) (serial : BitVec 56)
  /-- CLOCK_COL_CHOICE (R414). -/
  | clockColChoice
  /-- CLOCK_REQ (R415). -/
  | clockReq (c : Col) (vendor : BitVec 16) (zero : Bool)
  /-- CLOCK_RELEASE (R415). -/
  | clockRelease (c : Col) (vendor : BitVec 16) (zero : Bool)
  /-- CLOCK_FAIL (R417). -/
  | clockFail
  /-- HOLDOVER_RECHOOSE (R417). -/
  | holdoverRechoose
  /-- CLOCK_TIMEOUT (R416). -/
  | clockTimeout
  /-- DISCOVERY_START (R418). -/
  | discoveryStart
  /-- POSITION (R420). -/
  | position (c : Col) (h : MsgHdr) (a : PositionArgs)
  /-- REPORT (R420). -/
  | report (c : Col) (h : MsgHdr) (a : ReportArgs)
  /-- END (R421). -/
  | endMsg (c : Col) (h : MsgHdr) (n : BitVec 8)
  /-- ASSIGN (R422). -/
  | assign (c : Col) (h : MsgHdr) (a : AssignArgs)
  /-- ROUTES (R425). -/
  | routes (c : Col) (h : MsgHdr) (id : BitVec 4) (e : Vector RouteEntry 12)
  /-- ALIGN_REQ (R424). -/
  | alignReq (c : Col) (h : MsgHdr) (t1 : BitVec 64)
  /-- ALIGN_RSP (R424). -/
  | alignRsp (c : Col) (h : MsgHdr) (t2 t3 : BitVec 64)
  /-- DONE (R422). -/
  | done (c : Col) (h : MsgHdr)
  /-- FAIL (R423). -/
  | fail (c : Col) (h : MsgHdr) (code : BitVec 4)
  /-- DISCOVERY_TIMEOUT (R423). -/
  | discoveryTimeout
  -- Col ports
  /-- PARTNER_DETECT_TIMEOUT (R390). -/
  | partnerDetectTimeout (c : Col)
  /-- TRAINING_ATTEMPT (R390). -/
  | trainingAttempt (c : Col) (t : TrainArgs)
  /-- PHYSICAL_LINK_UP (R391). -/
  | physicalLinkUp (c : Col)
  /-- HELLO (R391). -/
  | hello (c : Col) (a : HelloArgs) (h : LinkHdr)
  /-- HELLO_TIMEOUT (R391). -/
  | helloTimeout (c : Col)
  /-- CREDIT (R398). -/
  | credit (c : Col) (a : CreditArgs) (h : LinkHdr)
  /-- IDLE (R386). -/
  | idle (c : Col) (rsvd : Bool)
  /-- IDLE_FLIT_SEND (R386). -/
  | idleFlitSend (c : Col)
  /-- LINK_DOWN (R392). -/
  | linkDown (c : Col) (cause : BitVec 4) (h : LinkHdr)
  /-- FLIT_CRC_FAIL (R388). -/
  | flitCrcFail (c : Col)
  /-- PARTNER_LOSS (R394). -/
  | partnerLoss (c : Col) (absent : Bool := false)
  /-- PARTNER_TRAINING (R392). -/
  | partnerTraining (c : Col)
  /-- AUTO_RETRAIN (R392). -/
  | autoRetrain (c : Col)
  /-- RETRAIN (R392). -/
  | retrain (c : Col)
  /-- PORT_RESET (R392). -/
  | portReset (c : Col)
  /-- COL_DISABLE (R392). -/
  | colDisable (c : Col)
  -- Messages
  /-- SUMMIT (R338). -/
  | summit (c : Col) (h : MsgHdr) (a : SummitArgs)
  /-- CSIG_MSG (R326). -/
  | csigMsg (c : Col) (h : MsgHdr) (a : CsigMsgArgs)
  /-- LREAD (R403). -/
  | lread (c : Col) (h : MsgHdr) (a : LreadArgs)
  /-- MREAD (R403). -/
  | mread (c : Col) (h : MsgHdr) (block : BitVec 32)
  /-- LWRITE (R403). -/
  | lwrite (c : Col) (h : MsgHdr) (a : LwriteArgs)
  /-- MWRITE (R403). -/
  | mwrite (c : Col) (h : MsgHdr) (a : MwriteArgs)
  /-- RDATA (R403). -/
  | rdata (c : Col) (h : MsgHdr) (bytes : List Byte)
  /-- WACK (R290). -/
  | wack (c : Col) (h : MsgHdr)
  /-- WALK_RD (R295). -/
  | walkRd (c : Col) (h : MsgHdr) (entry : BitVec 37)
  /-- WALK_RSP (R294). -/
  | walkRsp (c : Col) (h : MsgHdr) (entry : BitVec 64)
  /-- REG_RD (R407). -/
  | regRd (c : Col) (h : MsgHdr) (addr : BitVec 23) (bad : Bool) (r : ItestResult := .none)
  /-- REG_WR (R516). -/
  | regWr (c : Col) (h : MsgHdr) (addr : BitVec 23) (data : BitVec 64) (r : ItestResult)
  /-- REG_RSP (R403). -/
  | regRsp (c : Col) (h : MsgHdr) (data : BitVec 64)
  /-- FORWARD_MESSAGE (R427). -/
  | forwardMessage (c : Col) (msg : Msg)
  -- Register accesses with an effect of their own
  /-- PS_DATA_READ (R53). -/
  | psDataRead (bad : Bool)
  /-- PS_DATA_WRITE (R53). -/
  | psDataWrite (data : BitVec 64)
  /-- COUNT_CLEAR (R53). -/
  | countClear
  /-- HWM_CLEAR (R41). -/
  | hwmClear (p : PClus)
  /-- LEDGE_BG_STAT_CLEAR (R252). -/
  | ledgeBgStatClear (c : CoreId)
  /-- STREAM_TRK_STAT_CLEAR (R312). -/
  | streamTrkStatClear
  /-- HW_STORE_STAT_CLEAR (R357). -/
  | hwStoreStatClear (p : PClus)
  /-- COL_ERR_CLEAR (R405). -/
  | colErrClear (c : Col)
  /-- REG_STAT_CLEAR (R521). -/
  | regStatClear
  /-- CLUS_TRAP_SUM_CLEAR (R238). -/
  | clusTrapSumClear (p : PClus)
  /-- DIE_TRAP_SUM_CLEAR (R238). -/
  | dieTrapSumClear
  /-- LEDGE_PERR_LOG_CLEAR (R258). -/
  | ledgePerrLogClear (c : CoreId)
  /-- INVALIDATE (R265). -/
  | invalidate (m : Massif)
  /-- TX_RESUME (R298). -/
  | txResume (c : CoreId) (mask : BitVec 8)
  /-- RESUME_ALL (R298). -/
  | resumeAll (m : Massif)
  /-- TC_FLUSH (R296). -/
  | tcFlush (m : Massif)
  /-- TC_INVAL (R296). -/
  | tcInval (m : Massif) (all : Bool) (page : BitVec 44)
  /-- TC_INVAL_DONE (R296). -/
  | tcInvalDone
  /-- ERR_NOTIFY (R509). -/
  | errNotify (serial : BitVec 56) (cause : BitVec 4)
  -- Package test
  /-- ITEST_START (R433). -/
  | itestStart
  /-- ITEST_STOP (R433). -/
  | itestStop (r : ItestResult)
  /-- TRST_N (R542). -/
  | trstN
  /-- EXTEST (R435). -/
  | extest (b : BoundaryScan)
  /-- SAMPLE_PRELOAD (R434). -/
  | samplePreload (b : BoundaryScan)
  /-- IDCODE (R434). -/
  | idcode
  /-- CLAMP (R435). -/
  | clamp
  /-- HIGHZ (R435). -/
  | highz
  /-- WRAPPER (R434). -/
  | wrapper (scan : WrapperScan := .select)
  /-- IJTAG (R434). -/
  | ijtag (a : IjtagAccess)
  /-- BYPASS (R434): the code 0xFF, or one that the table of instructions does not list. -/
  | bypass (code : BitVec 8 := 0xFF)
  /-- REGISTER_BRIDGE_ACCESS (R435). -/
  | registerBridgeAccess  (a : BridgeAccess)
  -- Others
  /-- REFERENCE_LOCK (R414). -/
  | referenceLock
  /-- TELEM_MESSAGE (R461). -/
  | telemMessage (c : Col) (h : MsgHdr) (a : TelemArgs)
  /-- CLUS_ABSENT_CLEAR (R383). -/
  | clusAbsentClear (p : PClus)
  /-- ERR_PARTNER_CLEAR (R509). -/
  | errPartnerClear
  /-- BRINGUP_DIS_CLEAR (R478). -/
  | bringupDisClear
  /-- REG_STAT_FIRST_CLEAR (R521). -/
  | regStatFirstClear
  /-- ELEC_STAT_BO_CLEAR (R537). -/
  | elecStatBoClear
  deriving DecidableEq, Repr

end Sys2Proof
end

