-- ==== Sys2Proof/WellFormed.lean ====
section
/-! DEFINITION. The range rules of the slot operations (R85, R93..R108): what the load check calls ENCODING beyond the
opcode and the zero bits. A test that needs the extension X takes it as an argument. -/
namespace Sys2Proof

/-- LOOP's body length D with its extension (R90). -/
def loopLen (a : LoopArgs) (x : BitVec 23) : Nat := (bitsAt x 0 7 ++ a.d).toNat
/-- The count of CWAIT or CSIG with its extension (R90). -/
def syncCount (n : BitVec 16) (x : BitVec 23) : Nat := (bitsAt x 0 16 ++ n).toNat
/-- HINT's length D with its extension (R90). -/
def hintLen (a : HintArgs) (x : BitVec 23) : Nat := (bitsAt x 0 5 ++ a.len).toNat + 1
/-- BRANCH's compare value with its extension (R90). -/
def branchImm (a : BranchArgs) (x : BitVec 23) : BitVec 16 := bitsAt x 0 8 ++ a.imm

/-- The ranges of the SEQ operations (R93..R95). -/
def SeqOp.wf (x : BitVec 23) : SeqOp → Bool
  | .nop => true
  | .loop a => (!a.src || bitsAt a.cnt 3 9 == 0) && loopLen a x != 0
  | .branch a =>
    let c := a.cond.toNat
    if c = 0 then a.sel == 0 && branchImm a x == 0
    else if c ≤ 4 then a.sel.toNat ≤ 3
    else if c ≤ 6 then bitsAt a.imm 6 2 == 0 && bitsAt x 0 8 == 0
    else c == 7
  | .halt => true
  | .hint a => a.cls.toNat ≤ 5
  | .mark _ => true

/-- The ranges of the MXE operations (R98): S+N at most 16, M·T at most 256. -/
def MxeOp.wf : MxeOp → Bool
  | .malat a => a.s.toNat + a.n1.toNat + 1 ≤ 16
  | .mtp a => (a.m1.toNat + 1) * (a.t1.toNat + 1) ≤ 256
  | _ => true

/-- The arithmetic form's unused fields (chapter 03, VXE slot): vb, vc and SUB are 0 where the operation does not use them. -/
def VarithArgs.unused (a : VarithArgs) (vb vc sub : Bool) : Bool :=
  (vb || a.vb == 0) && (vc || a.vc == 0) && (sub || a.sub == 0)

/-- The ranges of the VXE operations. -/
def VxeOp.wf : VxeOp → Bool
  | .nop => true
  | .vld _ | .vst _ => true
  | .vldl a | .vstl a => bitsAt a.v 0 2 == 0
  | .vadd a | .vsub a | .vmul a | .vmax a | .vmin a => a.unused true false false
  | .vfma a => a.unused true true false
  | .vexp a | .vrcp a | .vrsqrt a => a.unused false false false
  | .vred a => a.unused false false true && a.sub.toNat ≤ 2
  | .vrot a => a.unused true true true && a.sub.toNat ≤ 1
  | .vcmp a => a.cond.toNat ≤ 5 && a.mode.toNat ≤ 2
  | .vcvt a => !a.bf && a.vc == 0 && a.sub.toNat ≤ 2 && (a.sub == 0 || a.vb == 0)
  | .vbcast a => a.bf || a.j.toNat < 64
  | .vtoof _ => true

/-- The ranges of the OST operations (R102). -/
def OstOp.wf : OstOp → Bool
  | .ocvt a => a.r0.toNat + a.r1.toNat + 1 ≤ (if a.src then 16 else 32)
  | _ => true

/-- The ranges of the transfer operations (R105). -/
def TxOp.wf : TxOp → Bool
  | .txput a => a.size.toNat ≤ 2 && (a.die.toNat ≤ 7 || a.die.toNat == 15)
  | _ => true

/-- The ranges of the SYN operations (R106): a count of 0 is out of range. -/
def SynOp.wf (x : BitVec 23) : SynOp → Bool
  | .cwait a => syncCount a.n x != 0
  | .csig a => syncCount a.n x != 0
  | _ => true

/-- The ranges of the EXT operations (R108). -/
def ExtOp.wf : ExtOp → Bool
  | .ximm a => a.tgt.toNat ≤ 6
  | .pximm a => a.tgt.toNat ≤ 6
  | .ofidx a => a.src.toNat ≤ 6 || (8 ≤ a.src.toNat && a.src.toNat ≤ 11)
  | .pset a => a.cmp.toNat ≤ 5
  | .pseti a => a.cmp.toNat ≤ 5
  | _ => true

end Sys2Proof
end

