-- ==== Sys2Proof/Decode.lean ====
section
/-! DEFINITION. Slot words and slot operations (R84, R85 and the layouts of chapter 03): the words decode by opcode, with
every bit a layout marks 0 checked, and an encoder writes them back. The block's own commands have no bits
(spec/opcode_table.json gives none), so decodeTableWord answers none. -/
namespace Sys2Proof

/-- Slot 0 (SEQ) read by opcode and zero bits; none is a reserved opcode or a set bit that must be 0. -/
def readSeqOp (w : Slot) : Option SeqOp :=
  match (bitsAt w 26 6).toNat with
  | 0 => if bitsAt w 0 26 == 0 then some .nop else none
  | 1 => some (.loop ⟨bitsAt w 24 2, w.getLsbD 23, bitsAt w 11 12, bitsAt w 0 11⟩)
  | 2 => some (.branch ⟨bitsAt w 22 4, bitsAt w 19 3, bitsAt w 11 8, bitsAt w 0 11⟩)
  | 3 => if bitsAt w 0 26 == 0 then some .halt else none
  | 4 => some (.hint ⟨bitsAt w 23 3, bitsAt w 11 12, bitsAt w 0 11⟩)
  | 5 => if bitsAt w 16 10 == 0 then some (.mark ⟨bitsAt w 0 16⟩) else none
  | _ => none

/-- Read and held to its ranges (R85). -/
def decodeSeqOp (x : BitVec 23) (w : Slot) : Option SeqOp :=
  (readSeqOp w).filter (SeqOp.wf x)

/-- The word of an operation, by the layouts of chapter 03. -/
def encodeSeqOp : SeqOp → Slot
  | .nop => 0
  | .loop a => ((1 : BitVec 6) ++ a.n ++ BitVec.ofBool a.src ++ a.cnt ++ a.d).setWidth 32
  | .branch a => ((2 : BitVec 6) ++ a.cond ++ a.sel ++ a.imm ++ a.ofs).setWidth 32
  | .halt => ((3 : BitVec 6) ++ (0 : BitVec 26)).setWidth 32
  | .hint a => ((4 : BitVec 6) ++ a.cls ++ a.lead ++ a.len).setWidth 32
  | .mark a => ((5 : BitVec 6) ++ (0 : BitVec 10) ++ a.imm).setWidth 32

/-- Slot 1 (MXE) read by opcode and zero bits; none is a reserved opcode or a set bit that must be 0. -/
def readMxeOp (w : Slot) : Option MxeOp :=
  match (bitsAt w 26 6).toNat with
  | 0 => if bitsAt w 0 26 == 0 then some .nop else none
  | 1 => if bitsAt w 0 12 == 0 then some (.mcfg ⟨bitsAt w 24 2, bitsAt w 19 5, bitsAt w 12 7⟩) else none
  | 2 => if bitsAt w 25 1 == 0 && bitsAt w 0 4 == 0 then some (.malat ⟨bitsAt w 21 4, bitsAt w 17 4, w.getLsbD 16, bitsAt w 11 5, bitsAt w 4 7⟩) else none
  | 3 => some (.mwsp ⟨bitsAt w 24 2, bitsAt w 22 2, bitsAt w 20 2, w.getLsbD 19, w.getLsbD 18, w.getLsbD 17, bitsAt w 9 8, bitsAt w 4 5, bitsAt w 0 4⟩)
  | 4 => if bitsAt w 24 2 == 0 && bitsAt w 0 10 == 0 then some (.mtld ⟨bitsAt w 22 2, bitsAt w 17 5, bitsAt w 10 7⟩) else none
  | 5 => some (.mtp ⟨bitsAt w 24 2, bitsAt w 22 2, bitsAt w 20 2, w.getLsbD 19, w.getLsbD 18, bitsAt w 13 5, bitsAt w 5 8, bitsAt w 0 5⟩)
  | 6 => if bitsAt w 0 26 == 0 then some .mclr else none
  | _ => none

/-- Read and held to its ranges (R85). -/
def decodeMxeOp (w : Slot) : Option MxeOp :=
  (readMxeOp w).filter (MxeOp.wf)

/-- The word of an operation, by the layouts of chapter 03. -/
def encodeMxeOp : MxeOp → Slot
  | .nop => 0
  | .mcfg a => ((1 : BitVec 6) ++ a.c ++ a.base ++ a.d ++ (0 : BitVec 12)).setWidth 32
  | .malat a => ((2 : BitVec 6) ++ (0 : BitVec 1) ++ a.n1 ++ a.s ++ BitVec.ofBool a.reset ++ a.base ++ a.d ++ (0 : BitVec 4)).setWidth 32
  | .mwsp a => ((3 : BitVec 6) ++ a.c ++ a.wcls ++ a.sc ++ BitVec.ofBool a.final ++ BitVec.ofBool a.chain ++ BitVec.ofBool a.winc ++ a.p1 ++ a.base ++ a.d).setWidth 32
  | .mtld a => ((4 : BitVec 6) ++ (0 : BitVec 2) ++ a.wcls ++ a.base ++ a.d ++ (0 : BitVec 10)).setWidth 32
  | .mtp a => ((5 : BitVec 6) ++ a.c ++ a.wcls ++ a.sc ++ BitVec.ofBool a.final ++ BitVec.ofBool a.chain ++ a.m1 ++ a.t1 ++ a.base).setWidth 32
  | .mclr => ((6 : BitVec 6) ++ (0 : BitVec 26)).setWidth 32

/-- Slot 2 (VXE) read by opcode and zero bits; none is a reserved opcode or a set bit that must be 0. -/
def readVxeOp (w : Slot) : Option VxeOp :=
  match (bitsAt w 26 6).toNat with
  | 0 => if bitsAt w 0 26 == 0 then some .nop else none
  | 1 => if bitsAt w 0 7 == 0 then some (.vld ⟨bitsAt w 22 4, bitsAt w 17 5, bitsAt w 8 9, w.getLsbD 7⟩) else none
  | 2 => if bitsAt w 0 7 == 0 then some (.vst ⟨bitsAt w 22 4, bitsAt w 17 5, bitsAt w 8 9, w.getLsbD 7⟩) else none
  | 3 => if bitsAt w 0 7 == 0 then some (.vldl ⟨bitsAt w 22 4, bitsAt w 17 5, bitsAt w 8 9, w.getLsbD 7⟩) else none
  | 4 => if bitsAt w 0 7 == 0 then some (.vstl ⟨bitsAt w 22 4, bitsAt w 17 5, bitsAt w 8 9, w.getLsbD 7⟩) else none
  | 8 => if bitsAt w 0 6 == 0 then some (.vadd ⟨bitsAt w 22 4, bitsAt w 18 4, bitsAt w 14 4, bitsAt w 10 4, w.getLsbD 9, bitsAt w 6 3⟩) else none
  | 9 => if bitsAt w 0 6 == 0 then some (.vsub ⟨bitsAt w 22 4, bitsAt w 18 4, bitsAt w 14 4, bitsAt w 10 4, w.getLsbD 9, bitsAt w 6 3⟩) else none
  | 10 => if bitsAt w 0 6 == 0 then some (.vmul ⟨bitsAt w 22 4, bitsAt w 18 4, bitsAt w 14 4, bitsAt w 10 4, w.getLsbD 9, bitsAt w 6 3⟩) else none
  | 11 => if bitsAt w 0 6 == 0 then some (.vfma ⟨bitsAt w 22 4, bitsAt w 18 4, bitsAt w 14 4, bitsAt w 10 4, w.getLsbD 9, bitsAt w 6 3⟩) else none
  | 12 => if bitsAt w 0 6 == 0 then some (.vmax ⟨bitsAt w 22 4, bitsAt w 18 4, bitsAt w 14 4, bitsAt w 10 4, w.getLsbD 9, bitsAt w 6 3⟩) else none
  | 13 => if bitsAt w 0 6 == 0 then some (.vmin ⟨bitsAt w 22 4, bitsAt w 18 4, bitsAt w 14 4, bitsAt w 10 4, w.getLsbD 9, bitsAt w 6 3⟩) else none
  | 16 => if bitsAt w 0 6 == 0 then some (.vexp ⟨bitsAt w 22 4, bitsAt w 18 4, bitsAt w 14 4, bitsAt w 10 4, w.getLsbD 9, bitsAt w 6 3⟩) else none
  | 17 => if bitsAt w 0 6 == 0 then some (.vrcp ⟨bitsAt w 22 4, bitsAt w 18 4, bitsAt w 14 4, bitsAt w 10 4, w.getLsbD 9, bitsAt w 6 3⟩) else none
  | 18 => if bitsAt w 0 6 == 0 then some (.vrsqrt ⟨bitsAt w 22 4, bitsAt w 18 4, bitsAt w 14 4, bitsAt w 10 4, w.getLsbD 9, bitsAt w 6 3⟩) else none
  | 19 => if bitsAt w 0 6 == 0 then some (.vred ⟨bitsAt w 22 4, bitsAt w 18 4, bitsAt w 14 4, bitsAt w 10 4, w.getLsbD 9, bitsAt w 6 3⟩) else none
  | 20 => if bitsAt w 0 6 == 0 then some (.vrot ⟨bitsAt w 22 4, bitsAt w 18 4, bitsAt w 14 4, bitsAt w 10 4, w.getLsbD 9, bitsAt w 6 3⟩) else none
  | 24 => if bitsAt w 22 1 == 0 && bitsAt w 10 4 == 0 && bitsAt w 0 4 == 0 then some (.vcmp ⟨bitsAt w 23 3, bitsAt w 18 4, bitsAt w 14 4, w.getLsbD 9, bitsAt w 6 3, bitsAt w 4 2⟩) else none
  | 25 => if bitsAt w 0 6 == 0 then some (.vcvt ⟨bitsAt w 22 4, bitsAt w 18 4, bitsAt w 14 4, bitsAt w 10 4, w.getLsbD 9, bitsAt w 6 3⟩) else none
  | 26 => if bitsAt w 10 1 == 0 && bitsAt w 0 9 == 0 then some (.vbcast ⟨bitsAt w 22 4, bitsAt w 18 4, bitsAt w 11 7, w.getLsbD 9⟩) else none
  | 27 => if bitsAt w 0 17 == 0 then some (.vtoof ⟨bitsAt w 21 5, bitsAt w 17 4⟩) else none
  | _ => none

/-- Read and held to its ranges (R85). -/
def decodeVxeOp (w : Slot) : Option VxeOp :=
  (readVxeOp w).filter (VxeOp.wf)

/-- The word of an operation, by the layouts of chapter 03. -/
def encodeVxeOp : VxeOp → Slot
  | .nop => 0
  | .vld a => ((1 : BitVec 6) ++ a.v ++ a.base ++ a.d ++ BitVec.ofBool a.inc ++ (0 : BitVec 7)).setWidth 32
  | .vst a => ((2 : BitVec 6) ++ a.v ++ a.base ++ a.d ++ BitVec.ofBool a.inc ++ (0 : BitVec 7)).setWidth 32
  | .vldl a => ((3 : BitVec 6) ++ a.v ++ a.base ++ a.d ++ BitVec.ofBool a.inc ++ (0 : BitVec 7)).setWidth 32
  | .vstl a => ((4 : BitVec 6) ++ a.v ++ a.base ++ a.d ++ BitVec.ofBool a.inc ++ (0 : BitVec 7)).setWidth 32
  | .vadd a => ((8 : BitVec 6) ++ a.vd ++ a.va ++ a.vb ++ a.vc ++ BitVec.ofBool a.bf ++ a.sub ++ (0 : BitVec 6)).setWidth 32
  | .vsub a => ((9 : BitVec 6) ++ a.vd ++ a.va ++ a.vb ++ a.vc ++ BitVec.ofBool a.bf ++ a.sub ++ (0 : BitVec 6)).setWidth 32
  | .vmul a => ((10 : BitVec 6) ++ a.vd ++ a.va ++ a.vb ++ a.vc ++ BitVec.ofBool a.bf ++ a.sub ++ (0 : BitVec 6)).setWidth 32
  | .vfma a => ((11 : BitVec 6) ++ a.vd ++ a.va ++ a.vb ++ a.vc ++ BitVec.ofBool a.bf ++ a.sub ++ (0 : BitVec 6)).setWidth 32
  | .vmax a => ((12 : BitVec 6) ++ a.vd ++ a.va ++ a.vb ++ a.vc ++ BitVec.ofBool a.bf ++ a.sub ++ (0 : BitVec 6)).setWidth 32
  | .vmin a => ((13 : BitVec 6) ++ a.vd ++ a.va ++ a.vb ++ a.vc ++ BitVec.ofBool a.bf ++ a.sub ++ (0 : BitVec 6)).setWidth 32
  | .vexp a => ((16 : BitVec 6) ++ a.vd ++ a.va ++ a.vb ++ a.vc ++ BitVec.ofBool a.bf ++ a.sub ++ (0 : BitVec 6)).setWidth 32
  | .vrcp a => ((17 : BitVec 6) ++ a.vd ++ a.va ++ a.vb ++ a.vc ++ BitVec.ofBool a.bf ++ a.sub ++ (0 : BitVec 6)).setWidth 32
  | .vrsqrt a => ((18 : BitVec 6) ++ a.vd ++ a.va ++ a.vb ++ a.vc ++ BitVec.ofBool a.bf ++ a.sub ++ (0 : BitVec 6)).setWidth 32
  | .vred a => ((19 : BitVec 6) ++ a.vd ++ a.va ++ a.vb ++ a.vc ++ BitVec.ofBool a.bf ++ a.sub ++ (0 : BitVec 6)).setWidth 32
  | .vrot a => ((20 : BitVec 6) ++ a.vd ++ a.va ++ a.vb ++ a.vc ++ BitVec.ofBool a.bf ++ a.sub ++ (0 : BitVec 6)).setWidth 32
  | .vcmp a => ((24 : BitVec 6) ++ a.d ++ (0 : BitVec 1) ++ a.va ++ a.vb ++ (0 : BitVec 4) ++ BitVec.ofBool a.bf ++ a.cond ++ a.mode ++ (0 : BitVec 4)).setWidth 32
  | .vcvt a => ((25 : BitVec 6) ++ a.vd ++ a.va ++ a.vb ++ a.vc ++ BitVec.ofBool a.bf ++ a.sub ++ (0 : BitVec 6)).setWidth 32
  | .vbcast a => ((26 : BitVec 6) ++ a.vd ++ a.va ++ a.j ++ (0 : BitVec 1) ++ BitVec.ofBool a.bf ++ (0 : BitVec 9)).setWidth 32
  | .vtoof a => ((27 : BitVec 6) ++ a.d ++ a.va ++ (0 : BitVec 17)).setWidth 32

/-- Slot 3 (OST) read by opcode and zero bits; none is a reserved opcode or a set bit that must be 0. -/
def readOstOp (w : Slot) : Option OstOp :=
  match (bitsAt w 26 6).toNat with
  | 0 => if bitsAt w 0 26 == 0 then some .nop else none
  | 1 => if bitsAt w 0 12 == 0 then some (.ocfg ⟨bitsAt w 24 2, bitsAt w 19 5, bitsAt w 12 7⟩) else none
  | 2 => some (.ocvt ⟨bitsAt w 24 2, bitsAt w 19 5, bitsAt w 14 5, w.getLsbD 13, bitsAt w 8 5, bitsAt w 1 7, w.getLsbD 0⟩)
  | _ => none

/-- Read and held to its ranges (R85). -/
def decodeOstOp (w : Slot) : Option OstOp :=
  (readOstOp w).filter (OstOp.wf)

/-- The word of an operation, by the layouts of chapter 03. -/
def encodeOstOp : OstOp → Slot
  | .nop => 0
  | .ocfg a => ((1 : BitVec 6) ++ a.c ++ a.base ++ a.d ++ (0 : BitVec 12)).setWidth 32
  | .ocvt a => ((2 : BitVec 6) ++ a.c ++ a.r1 ++ a.r0 ++ BitVec.ofBool a.src ++ a.base ++ a.d ++ BitVec.ofBool a.inc).setWidth 32

/-- Slot 4 or 5 (TXA, TXB) read by opcode and zero bits; none is a reserved opcode or a set bit that must be 0. -/
def readTxOp (w : Slot) : Option TxOp :=
  match (bitsAt w 26 6).toNat with
  | 0 => if bitsAt w 0 26 == 0 then some .nop else none
  | 1 => if bitsAt w 0 12 == 0 then some (.txgo ⟨bitsAt w 24 2, bitsAt w 19 5, bitsAt w 12 7⟩) else none
  | 2 => if bitsAt w 0 24 == 0 then some (.txcancel ⟨bitsAt w 24 2⟩) else none
  | 3 => if bitsAt w 0 3 == 0 then some (.txput ⟨bitsAt w 21 5, bitsAt w 16 5, bitsAt w 12 4, bitsAt w 6 6, w.getLsbD 5, bitsAt w 3 2⟩) else none
  | _ => none

/-- Read and held to its ranges (R85). -/
def decodeTxOp (w : Slot) : Option TxOp :=
  (readTxOp w).filter (TxOp.wf)

/-- The word of an operation, by the layouts of chapter 03. -/
def encodeTxOp : TxOp → Slot
  | .nop => 0
  | .txgo a => ((1 : BitVec 6) ++ a.h ++ a.base ++ a.d ++ (0 : BitVec 12)).setWidth 32
  | .txcancel a => ((2 : BitVec 6) ++ a.h ++ (0 : BitVec 24)).setWidth 32
  | .txput a => ((3 : BitVec 6) ++ a.src ++ a.dst ++ a.die ++ a.k ++ BitVec.ofBool a.sig ++ a.size ++ (0 : BitVec 3)).setWidth 32

/-- Slot 6 (SYN) read by opcode and zero bits; none is a reserved opcode or a set bit that must be 0. -/
def readSynOp (w : Slot) : Option SynOp :=
  match (bitsAt w 26 6).toNat with
  | 0 => if bitsAt w 0 26 == 0 then some .nop else none
  | 1 => if bitsAt w 0 3 == 0 then some (.cwait ⟨bitsAt w 20 6, bitsAt w 4 16, w.getLsbD 3⟩) else none
  | 2 => if bitsAt w 0 4 == 0 then some (.csig ⟨bitsAt w 20 6, bitsAt w 4 16⟩) else none
  | 3 => if bitsAt w 0 18 == 0 then some (.cwin ⟨bitsAt w 20 6, w.getLsbD 19, w.getLsbD 18⟩) else none
  | 4 => if bitsAt w 0 21 == 0 then some (.sarr ⟨bitsAt w 22 4, w.getLsbD 21⟩) else none
  | 5 => if bitsAt w 0 22 == 0 then some (.swait ⟨bitsAt w 22 4⟩) else none
  | 6 => if bitsAt w 0 26 == 0 then some .eopen else none
  | 7 => if bitsAt w 0 26 == 0 then some .ecommit else none
  | 8 => if bitsAt w 0 26 == 0 then some .ediscard else none
  | _ => none

/-- Read and held to its ranges (R85). -/
def decodeSynOp (x : BitVec 23) (w : Slot) : Option SynOp :=
  (readSynOp w).filter (SynOp.wf x)

/-- The word of an operation, by the layouts of chapter 03. -/
def encodeSynOp : SynOp → Slot
  | .nop => 0
  | .cwait a => ((1 : BitVec 6) ++ a.k ++ a.n ++ BitVec.ofBool a.keep ++ (0 : BitVec 3)).setWidth 32
  | .csig a => ((2 : BitVec 6) ++ a.k ++ a.n ++ (0 : BitVec 4)).setWidth 32
  | .cwin a => ((3 : BitVec 6) ++ a.k ++ BitVec.ofBool a.opn ++ BitVec.ofBool a.zero ++ (0 : BitVec 18)).setWidth 32
  | .sarr a => ((4 : BitVec 6) ++ a.ctx ++ BitVec.ofBool a.wait ++ (0 : BitVec 21)).setWidth 32
  | .swait a => ((5 : BitVec 6) ++ a.ctx ++ (0 : BitVec 22)).setWidth 32
  | .eopen => ((6 : BitVec 6) ++ (0 : BitVec 26)).setWidth 32
  | .ecommit => ((7 : BitVec 6) ++ (0 : BitVec 26)).setWidth 32
  | .ediscard => ((8 : BitVec 6) ++ (0 : BitVec 26)).setWidth 32

/-- Slot 7 (EXT) read by opcode and zero bits; none is a reserved opcode or a set bit that must be 0. -/
def readExtOp (w : Slot) : Option ExtOp :=
  match (bitsAt w 26 6).toNat with
  | 0 => if bitsAt w 0 26 == 0 then some .nop else none
  | 1 => if bitsAt w 24 2 == 0 then some (.psel ⟨bitsAt w 18 6, bitsAt w 0 18⟩) else none
  | 2 => some (.ximm ⟨bitsAt w 23 3, bitsAt w 0 23⟩)
  | 3 => some (.pximm ⟨bitsAt w 23 3, bitsAt w 20 3, w.getLsbD 19, bitsAt w 13 6, bitsAt w 0 13⟩)
  | 4 => some (.ofadd ⟨bitsAt w 21 5, bitsAt w 16 5, bitsAt w 0 16⟩)
  | 5 => some (.ofidx ⟨bitsAt w 21 5, bitsAt w 16 5, bitsAt w 12 4, bitsAt w 8 4, bitsAt w 0 8⟩)
  | 6 => some (.ofset ⟨bitsAt w 21 5, bitsAt w 16 5, bitsAt w 0 16⟩)
  | 7 => if bitsAt w 0 10 == 0 then some (.pset ⟨bitsAt w 23 3, bitsAt w 18 5, bitsAt w 13 5, bitsAt w 10 3⟩) else none
  | 8 => some (.pseti ⟨bitsAt w 23 3, bitsAt w 18 5, bitsAt w 15 3, bitsAt w 0 15⟩)
  | 9 => if bitsAt w 0 15 == 0 then some (.plog ⟨bitsAt w 23 3, bitsAt w 20 3, bitsAt w 17 3, bitsAt w 15 2⟩) else none
  | _ => none

/-- Read and held to its ranges (R85). -/
def decodeExtOp (w : Slot) : Option ExtOp :=
  (readExtOp w).filter (ExtOp.wf)

/-- The word of an operation, by the layouts of chapter 03. -/
def encodeExtOp : ExtOp → Slot
  | .nop => 0
  | .psel a => ((1 : BitVec 6) ++ (0 : BitVec 2) ++ a.inv ++ a.sel).setWidth 32
  | .ximm a => ((2 : BitVec 6) ++ a.tgt ++ a.x).setWidth 32
  | .pximm a => ((3 : BitVec 6) ++ a.tgt ++ a.flag ++ BitVec.ofBool a.inv ++ a.gmask ++ a.x).setWidth 32
  | .ofadd a => ((4 : BitVec 6) ++ a.d ++ a.a ++ a.imm).setWidth 32
  | .ofidx a => ((5 : BitVec 6) ++ a.d ++ a.a ++ a.src ++ a.sh ++ a.m).setWidth 32
  | .ofset a => ((6 : BitVec 6) ++ a.d ++ a.sh ++ a.imm).setWidth 32
  | .pset a => ((7 : BitVec 6) ++ a.d ++ a.a ++ a.b ++ a.cmp ++ (0 : BitVec 10)).setWidth 32
  | .pseti a => ((8 : BitVec 6) ++ a.d ++ a.a ++ a.cmp ++ a.imm).setWidth 32
  | .plog a => ((9 : BitVec 6) ++ a.d ++ a.a ++ a.b ++ a.op ++ (0 : BitVec 15)).setWidth 32

/-- The command a table word spells: none, for no row of the table gives bits. -/
def decodeTableWord (_nbits _w : Nat) : Option Instr := none

end Sys2Proof
end

