-- ==== Sys2Proof/Config.lean ====
section
/-! DEFINITION. What an implementation fixes and the spec does not state as a value: the approximations of the vector
engine and of the activations (R198, R218), and the other open values. None has a body, so no proof can rest on one. -/
namespace Sys2Proof.Machine

/-- An exact dyadic number m·2^e. -/
structure Dy where
  m : Int
  e : Int
  deriving DecidableEq, Repr, Inhabited

/-- A decoded value: NaN, an infinity with its sign, or a finite number (R118). -/
inductive Val where
  | nan
  | inf (neg : Bool)
  | fin (a : Dy)
  deriving DecidableEq, Repr

end Sys2Proof.Machine

namespace Sys2Proof.Config
open Sys2Proof.Machine

/-- The binary32 code VEXP's fixed approximation gives a finite operand code (R218). Log entry 3. -/
opaque vexp : BitVec 32 → BitVec 32
/-- The binary32 code VRCP's fixed approximation gives a finite non-zero operand code (R218). Log entry 3. -/
opaque vrcp : BitVec 32 → BitVec 32
/-- The binary32 code VRSQRT's fixed approximation gives a positive finite operand code (R218). Log entry 3. -/
opaque vrsqrt : BitVec 32 → BitVec 32
/-- The value an approximated activation (ACT code 2..5) gives a wide value code, before its rounding (R198). Log entry 3. -/
opaque activation : BitVec 4 → BitVec 34 → Dy
/-- Whether a doubled alignment offset that is odd is rounded up (R424). Log entry 49. -/
opaque alignTieUp : Int → Bool
/-- Whether a PM_POWER field that lies halfway between two multiples of 1/16 W is rounded up (R443). Log entry 54. -/
opaque powerTieUp : Nat → Bool
/-- Leakage energy of a powered cluster in one window, in units of 1/(36·10^9) nJ, by its fused leakage in mW, its quadrant's
readback in mV and its quadrant's temperature code: the fused table of R443. Log entry 55. -/
opaque leakage : BitVec 32 → BitVec 10 → Int → Nat
/-- Bit n of the data-lane pattern of the UCIe 1.1 lane test, by lane (R433). Log entry 126. -/
opaque ucieLane : Nat → Nat → Bool
/-- Events of a code that a self-test of bring-up causes in a cluster, by test and by what it tests (R480). Log entry 140. -/
opaque testEvents : Nat → Nat → Nat → Nat
/-- HUBNUM of a hub, by serial, that the crown die has no POSITION of (R421). Log entry 50. -/
opaque hubNumber : BitVec 56 → BitVec 2
/-- INCOMPAT bits and the lowest stepping of the module, as the die of a serial learns them (R430). Log entry 52. -/
opaque moduleIncompat : BitVec 56 → BitVec 8
opaque moduleMinStepping : BitVec 56 → BitVec 8

end Sys2Proof.Config
end

