-- ==== Sys2Proof/Machine/Maps.lean ====
section
/-! DEFINITION. Sparse tables as sorted lists in one canonical form: keys strictly rising, and no entry equal to the
value an unlisted key reads as. Ledges, latches, register files and the tables of cores and clusters are all held so. -/
namespace Sys2Proof.Machine

/-- A sparse table from keys to values. -/
abbrev SMap (α : Type) := List (Nat × α)
/-- A byte memory: an unlisted byte reads 0, since bring-up leaves every ledge zero (R476, R479). -/
abbrev Mem := List Host.Cell

/-- The entry of a key, or what an unlisted key reads as. -/
def smGet {α : Type} (d : α) : SMap α → Nat → α
  | [], _ => d
  | (k', v) :: m, k => if k' = k then v else smGet d m k

/-- An entry put before the first larger key. -/
def smIns {α : Type} (k : Nat) (v : α) : SMap α → SMap α
  | [] => [(k, v)]
  | (k', v') :: m => if k < k' then (k, v) :: (k', v') :: m else (k', v') :: smIns k v m

/-- Writes an entry; writing what an unlisted key reads as removes it. -/
def smSet {α : Type} [DecidableEq α] (d : α) (m : SMap α) (k : Nat) (v : α) : SMap α :=
  let m' := m.filter (fun e => e.1 != k)
  if v = d then m' else smIns k v m'

/-- The canonical form: keys strictly rising, no entry at the default. -/
def smWf {α : Type} [DecidableEq α] (d : α) : SMap α → Bool
  | [] => true
  | [(_, v)] => v != d
  | (k, v) :: (k', v') :: m => k < k' && v != d && smWf d ((k', v') :: m)

/-- The canonical form of a byte memory. -/
def Memory.wf (m : Mem) : Bool := smWf 0 m

/-- The byte at an address. -/
def memGet (m : Mem) (a : Nat) : Byte := smGet 0 m a
/-- One byte written. -/
def memSet (m : Mem) (a : Nat) (v : Byte) : Mem := smSet 0 m a v

/-- The bytes listed, written from an address upward. -/
def memWrite (m : Mem) (a : Nat) : List Byte → Mem
  | [] => m
  | b :: bs => memWrite (memSet m a b) (a + 1) bs

/-- n bytes read from an address upward. -/
def memRead (m : Mem) (a n : Nat) : List Byte := (List.range n).map (fun i => memGet m (a + i))

/-- Every byte of [a, a+n) set to zero. -/
def memZero (m : Mem) (a n : Nat) : Mem := m.filter (fun e => e.1 < a || a + n ≤ e.1)

/-- A little-endian number from bytes (R15). -/
def leNat : List Byte → Nat
  | [] => 0
  | b :: bs => b.toNat + 256 * leNat bs

/-- The n little-endian bytes of a number (R15). -/
def leBytes (v : Nat) : Nat → List Byte
  | 0 => []
  | n + 1 => BitVec.ofNat 8 v :: leBytes (v / 256) n

end Sys2Proof.Machine
end

