-- ==== Sys2Proof/Machine/StateCompute.lean ====
section
/-! DEFINITION. The state of one core's issue, matrix engine, output stage, vector engine and trap record (chapters 01,
02, 05, 06, 07, 08, 09, 21). One structure per register group; a field's docstring names its register and rule. -/
namespace Sys2Proof.Machine

/-- Why issue is held (R30). -/
inductive WaitCause where
  | none | fifoEmpty | pace | unit | ledge | cairn | heldFull | rerun | halted
  deriving DecidableEq, Repr

/-- Issue, per-core program state and speed ceiling (R22..R40, R73..R75, R90, R91). -/
structure IssueSt where
  /-- CORE_BEAT.BEAT. -/
  beat : BitVec 48
  /-- CORE_BEAT.WRAPPED. -/
  wrapped : Bool
  /-- CORE_ISSUE_STAT.WAIT_CAUSE. -/
  waitCause : WaitCause
  /-- CORE_ISSUE_STAT.WAIT_UNITS: bit s-1 for slot s. -/
  waitUnits : BitVec 7
  /-- The core is halted: no program, ended, or stopped by a trap or a hard error (R30, R234, R505). -/
  halted : Bool
  /-- OF0..OF31 (R73). -/
  ofs : Vector OfReg 32
  /-- PF0..PF7; PF0 always reads 1 (R73). -/
  pfs : BitVec 8
  /-- The guards in force for slots 1..6, bit s-1 (R91); all 1 when no EXT operation selects any. -/
  guards : BitVec 6
  /-- The extension in force: target slot and X (R90). -/
  ext : Option (BitVec 3 × BitVec 23)
  /-- CORE_CEIL_CHAR: ceilings at 0.55, 0.65, 0.75 and 0.85 V (R40). -/
  charCeil : Vector (BitVec 16) 4
  /-- CORE_CEIL.AGE_DERATE. -/
  ageDerate : BitVec 8
  /-- CORE_CEIL.HOST_LIMIT. -/
  hostLimit : BitVec 12
  /-- The ceiling the pacing circuit presently enforces: taken from EFFECTIVE at the last issue (R39). -/
  paceCeil : BitVec 12
  /-- Timebase count of the last delay-line recalibration (R38). -/
  paceCal : BitVec 64
  /-- This core has issued the HALT bundle, or the last broadcast one (R61, R64). -/
  ended : Bool
  deriving DecidableEq, Repr

/-- Issue state after power-on reset. -/
def IssueSt.reset : IssueSt where
  beat := 0
  wrapped := false
  waitCause := .halted
  waitUnits := 0
  halted := true
  ofs := Vector.replicate 32 0
  pfs := 1
  guards := 0x3F
  ext := none
  charCeil := Vector.replicate 4 0
  ageDerate := 0
  hostLimit := 0xFFF
  paceCeil := 0
  paceCal := 0
  ended := false

/-- What every slot of a bundle latches at issue: registers, flags, guards, extension; with the bundle's address and beat (R25). -/
structure Latched where
  ofs : Vector OfReg 32
  pfs : BitVec 8
  guards : BitVec 6
  ext : Option (BitVec 3 × BitVec 23)
  addr : BitVec 18
  beat : BitVec 48
  deriving DecidableEq, Repr

/-- A pass in the MXE, with what it latched at issue (R87, R143..R146, R152, R156). -/
structure MxePass where
  /-- MTP rather than MWSP. -/
  tile : Bool
  c : BitVec 2
  wcls : BitVec 2
  sc : BitVec 2
  final : Bool
  chain : Bool
  /-- Rows M (1 for MWSP). -/
  rows : Nat
  /-- K-steps T (P for MWSP). -/
  ksteps : Nat
  /-- Words 0..2 of the configuration set (R143). -/
  w0 : BitVec 64
  w1 : BitVec 64
  w2 : BitVec 64
  /-- OF + d: the first weight line, or the first activation row word. -/
  base : Nat
  scaleBase : Nat
  tileBase : Nat
  pairBase : Nat
  /-- Latch cursor at issue. -/
  cursor : Nat
  /-- Global and local pass index (R145). -/
  gpass : BitVec 24
  lpass : BitVec 24
  narrow : Bool
  /-- The active tile at issue, kept for a rerun of a tile pass (R154, R496). -/
  tile0 : Mem
  deriving DecidableEq, Repr

/-- An operation in the MXE, with its base address (R98). -/
inductive MxeRun where
  | mcfg (c : BitVec 2) (base : Nat)
  /-- n lines into latch positions s onward. -/
  | malat (n s : Nat) (base : Nat)
  /-- n lines into the shadow tile. -/
  | mtld (n : Nat) (base : Nat)
  /-- MWSP or MTP. -/
  | pass (p : MxePass)
  deriving DecidableEq, Repr

/-- A unit's operation in progress: issuing bundle and beat, the next step, and whether it runs predicated off (R75). -/
structure Progress where
  addr : BitVec 18
  beat : BitVec 48
  step : Nat
  off  : Bool
  deriving DecidableEq, Repr

/-- First failed configuration check (R160, R206). -/
structure CfgFail where
  code : BitVec 4
  set : BitVec 2
  opcode : BitVec 6
  multiple : Bool
  deriving DecidableEq, Repr

/-- Matrix engine (R142, R164). Sparse tables index entry 32·row + column. -/
structure MxeSt where
  /-- Configuration sets: byte 96·c + i (R143). -/
  cfg : Mem
  /-- Passes issued under each set since its MCFG (R145). -/
  passIdx : Vector (BitVec 24) 4
  /-- Activation latch, 16 KiB. -/
  latch : Mem
  /-- Latch cursor in bytes. -/
  cursor : BitVec 14
  /-- Active and shadow tile, 2 KiB each. -/
  active : Mem
  shadow : Mem
  /-- MXE_STAT.SHADOW_VALID. -/
  shadowValid : Bool
  /-- Running sums: wide values, or int32 in the low bits. -/
  sums : SMap (BitVec 34)
  pairHi : SMap (BitVec 34)
  pairLo : SMap (BitVec 34)
  resHi : SMap (BitVec 34)
  resLo : SMap (BitVec 34)
  /-- Lines held by the operation in progress: weight lines (up to three, R129), or the lines MALAT and MTLD write at
  their commit step (R498); and the scale line held (R133). -/
  wHeld : Mem
  sHeld : Mem
  /-- Operation in progress. -/
  run : Option (Progress × MxeRun)
  /-- MXE_STAT.CONFIG_TRAPPED. -/
  configTrapped : Bool
  /-- MXE_CFG_FAIL. -/
  cfgFail : CfgFail
  /-- MXE_LANE_MAP. -/
  laneColumn : BitVec 5
  laneBit : BitVec 6
  laneValid : Bool
  /-- MXE_PASS_COUNT. -/
  passCount : BitVec 48
  /-- Parity hits met by the pass in progress (R161). -/
  hits : List ParityHit
  /-- The step last made takes a second cell cycle, during which readiness for the next step may be withheld (R140, R141). -/
  second : Bool
  deriving DecidableEq, Repr

/-- The matrix engine after power-on reset. -/
def MxeSt.reset : MxeSt where
  cfg := []
  passIdx := Vector.replicate 4 0
  latch := []
  cursor := 0
  active := []
  shadow := []
  shadowValid := false
  sums := []
  pairHi := []
  pairLo := []
  resHi := []
  resLo := []
  wHeld := []
  sHeld := []
  run := none
  configTrapped := false
  cfgFail := ⟨0, 0, 0, false⟩
  laneColumn := 0
  laneBit := 0
  laneValid := false
  passCount := 0
  hits := []
  second := false

/-- An OCVT in progress, with its latched set (R195). -/
structure OstRun where
  c : BitVec 2
  rows : Nat
  r0 : Nat
  src : Bool
  /-- OF + d. -/
  base : Nat
  /-- The whole configuration set as latched at issue. -/
  set : Mem
  /-- The source values of a DIR = 1 row block, row by row (R201). -/
  held : List (List Val)
  deriving DecidableEq, Repr

/-- Output stage (R193..R209). -/
structure OstSt where
  /-- Configuration sets: byte 1024·c + i. -/
  cfg : Mem
  run : Option (Progress × OstRun)
  /-- OST_STAT. -/
  configTrapped : Bool
  outOverflow : Bool
  /-- OST_CFG_FAIL (the opcode field is unused here). -/
  cfgFail : CfgFail
  failSrc : Bool
  /-- OST_ROW_COUNT. -/
  rowCount : BitVec 48
  deriving DecidableEq, Repr

/-- The output stage after power-on reset. -/
def OstSt.reset : OstSt where
  cfg := []
  run := none
  configTrapped := false
  outOverflow := false
  cfgFail := ⟨0, 0, 0, false⟩
  failSrc := false
  rowCount := 0

/-- A two-beat VXE operation in progress: its operands as read at step 0 (R212). -/
structure VxeRun where
  op : VxeOp
  va : List Byte
  deriving DecidableEq, Repr

/-- Vector engine (R210, R226). -/
structure VxeSt where
  /-- V0..V15: byte 256·r + i. -/
  vregs : Mem
  run : Option (Progress × VxeRun)
  /-- VXE_STAT. -/
  overflow : Bool
  divzero : Bool
  /-- VXE_OP_COUNT. -/
  opCount : BitVec 48
  /-- VXE_VREG_SEL. -/
  selVreg : BitVec 4
  selWord : BitVec 5
  /-- A parity hit of the one-step pass of VLD or VLDL waits for its rerun (R214). -/
  hits : List ParityHit
  deriving DecidableEq, Repr

/-- The vector engine after power-on reset. -/
def VxeSt.reset : VxeSt where
  vregs := []
  run := none
  overflow := false
  divzero := false
  opCount := 0
  selVreg := 0
  selWord := 0
  hits := []

/-- The trap record and the numeric flags of a core (R227..R236). -/
structure TrapSt where
  /-- CORE_TRAP_INFO. -/
  valid : Bool
  multiple : Bool
  cause : BitVec 4
  engine : BitVec 3
  pos : BitVec 7
  stp : BitVec 8
  row : BitVec 5
  cycle : Bool
  addr : BitVec 18
  /-- CORE_TRAP_BEAT. -/
  beat : BitVec 48
  /-- CORE_TRAP_MXE. -/
  tileId : BitVec 32
  gpass : BitVec 24
  set : BitVec 2
  final : Bool
  chain : Bool
  narrow : Bool
  /-- CORE_NUM_FLAGS. -/
  saturated : Bool
  flushed : Bool
  pairOverflow : Bool
  causeCount : BitVec 16
  /-- Some trap event since START had cause CONFIG (MASSIF_EXC.CONFIG is its OR). -/
  anyConfig : Bool
  /-- The valid record has not been forwarded to the summaries yet (R238). -/
  toForward : Bool
  deriving DecidableEq, Repr

/-- The trap record after power-on reset, and after START. -/
def TrapSt.reset : TrapSt where
  valid := false
  multiple := false
  cause := 0
  engine := 0
  pos := 0
  stp := 0
  row := 0
  cycle := false
  addr := 0
  beat := 0
  tileId := 0
  gpass := 0
  set := 0
  final := false
  chain := false
  narrow := false
  saturated := false
  flushed := false
  pairOverflow := false
  causeCount := 0
  anyConfig := false
  toForward := false

end Sys2Proof.Machine
end

