-- ==== Sys2Proof/Machine/StateCore.lean ====
section
/-! DEFINITION. The rest of one core's state: its ledge (chapter 10), its transfer engines and deadlines (chapters 11, 12),
cairns and arrivals (chapter 13), epochs (chapter 14) and recovery (chapter 21); and the items that travel between cores. -/
namespace Sys2Proof.Machine

/-! ## What travels -/

/-- Who is told when a landing has taken place or been dropped (R274, R290, R403). -/
inductive AckTo where
  | none
  /-- A TXPUT of a core: its engine (false TXA, true TXB) and its write number. -/
  | put (c : CoreId) (eng : Bool) (id : Nat)
  /-- A stream's write request: stream x and request number. -/
  | stream (c : CoreId) (x : Fin 8) (id : Nat)
  /-- An item released from the held-write store (R360): its write number, and whether it is a TXPUT. -/
  | release (c : CoreId) (id : Nat) (put : Bool)
  /-- A write from another die, answered by WACK to that die with its tag and due time (R308, R403). -/
  | col (die : BitVec 4) (tag : BitVec 14) (due : Option Int)
  deriving DecidableEq, Repr

/-- A write on its way to a ledge of this die: masked bytes by ledge offset. -/
structure LandWrite where
  dst   : CoreId
  bytes : Mem
  /-- Offsets the write names, lowest first; zero bytes are listed here only. -/
  mask  : List Nat
  srcDie : BitVec 4
  /-- The sender's massif when the sender is on this die. -/
  srcMassif : Option Massif
  job   : BitVec 32
  host  : Bool
  sig   : Option (BitVec 6)
  ack   : AckTo
  /-- Its hold for a full landing buffer has been counted (ROUTER_STAT.DATA_HOLDS). -/
  waited : Bool
  deriving DecidableEq, Repr

/-- Who receives a ledge read's bytes. -/
inductive ReadTo where
  | stream (c : CoreId) (x : Fin 8) (id : Nat)
  | col (die : BitVec 4) (tag : BitVec 14) (due : Option Int)
  deriving DecidableEq, Repr

/-- A read on its way to a ledge of this die. -/
structure ReadReq where
  dst    : CoreId
  off    : Nat
  len    : Nat
  shape  : BitVec 4
  stride : BitVec 13
  /-- The massif on whose behalf it reads; none for the host and other dies. -/
  srcMassif : Option Massif
  back   : ReadTo
  /-- JOB of the request, and whether the host sent it. -/
  job    : BitVec 32
  host   : Bool
  deriving DecidableEq, Repr

/-! ## Outbound writes -/

/-- A write that has left, or waits to leave, its core: masked bytes of one line of a ledge, or of one block of module
memory (R275, R282, R354). -/
structure OutWrite where
  /-- Destination die (0xF means this die); hub number 8..11 for module memory. -/
  die : BitVec 4
  lclus : BitVec 6
  lcore : BitVec 7
  /-- Ledge offset of its first byte, or MPA of its block. -/
  off : Nat
  len : Nat
  bytes : Mem
  mask : List Nat
  sig : Option (BitVec 6)
  ack : AckTo
  due : Option Int
  deriving DecidableEq, Repr

/-! ## Ledge -/

/-- A background request of a ledge (R251). -/
inductive BgReq where
  | land (w : LandWrite)
  | rread (r : ReadReq)
  /-- A stream's own-ledge source read: request number. -/
  | txrSrc (x : Fin 8) (id : Nat)
  /-- A stream's descriptor burst from an offset; the second field counts parity rereads. -/
  | txrBurst (x : Fin 8) (off : Nat) (tries : Nat)
  /-- A cache hit delivered from its way (R263). -/
  | txrHit (x : Fin 8) (id : Nat) (way : Nat)
  /-- A lookup that waited for a fill which an invalidation overtook: the fill's 256 bytes (R263). -/
  | txrWait (x : Fin 8) (id : Nat) (bytes : List Byte)
  /-- A stream's own-ledge write: request number, bytes and the offsets it names. -/
  | txw (x : Fin 8) (id : Nat) (bytes : Mem) (mask : List Nat)
  /-- A cache fill of a block, with the number of the request that read it and its 256 bytes. -/
  | cfill (owner : Nat) (block : Nat) (bytes : List Byte)
  /-- Zero-fill of one line. -/
  | zero (line : Nat)
  | scrub (line : Nat)
  deriving DecidableEq, Repr

/-- A cache fill in flight (R263, R265). -/
structure CacheFill where
  /-- Number of the request that missed, and the VA block that it reads. -/
  owner : Nat
  block : Nat
  /-- The block was invalidated meanwhile. -/
  stale : Bool
  /-- Lookups of the block that wait for the fill: stream and request. -/
  waiters : List (Fin 8 × Nat)
  deriving DecidableEq, Repr

/-- One core's ledge. -/
structure LedgeSt where
  /-- The bytes of the ledge range; an unlisted byte is zero. -/
  mem : Mem
  /-- Groups whose stored parity is bad, by line·16 + word (R256, R257). -/
  bad : SMap (BitVec 16)
  /-- Background requests in arrival order, each with the slots it still needs (R246); its LAND entries are the landing buffer (R255). -/
  bg : List (BgReq × Nat)
  /-- Consecutive beat cycles that offered no read slot, no write slot (R252). -/
  noRead : Nat
  noWrite : Nat
  /-- The last cycles of each streak through all of which a request of its class has been pending (R252). -/
  rdPending : Nat
  wrPending : Nat
  /-- Kinds the last inserted cycle served (R253), as requester codes; 0 for none. -/
  rrRead : BitVec 4
  rrWrite : BitVec 4
  /-- LEDGE_STAT. -/
  outOfRange : Bool
  cacheRegion : Bool
  parity : Bool
  cacheActive : Bool
  /-- LEDGE_OOR. -/
  oorAddr : BitVec 19
  oorRegion : Bool
  oorReq : BitVec 4
  oorValid : Bool
  oorCount : Nat
  /-- LEDGE_PERR_LOG. -/
  perr : Option ParityHit
  perrMultiple : Bool
  perrCount : Nat
  /-- LEDGE_SCRUB_MAP0 and 1. -/
  scrubMap : BitVec 96
  /-- LEDGE_BG_STAT. -/
  inserted : Nat
  landHwm : Nat
  /-- Cache tags by set·4 + way, pseudo-LRU bits by set, and the fills in flight (R262, R263). -/
  tags : SMap (Option (BitVec 45))
  plru : SMap (BitVec 3)
  fills : List CacheFill
  /-- LEDGE_CACHE_STAT. -/
  hits : Nat
  misses : Nat
  /-- Key tag and blocks kept at the last teardown (R270). -/
  keyTag : BitVec 64
  kept : BitVec 96
  /-- LEDGE_SCRUBBED0 and 1 (R491). -/
  scrubbed : BitVec 96
  /-- Blocks written since their last zero-fill (R484). -/
  written : BitVec 96
  /-- This core has completed the scrub read of the present line (R259). -/
  scrubDone : Bool
  deriving DecidableEq, Repr

/-- A ledge after power-on reset. -/
def LedgeSt.reset : LedgeSt where
  mem := []
  bad := []
  bg := []
  noRead := 0
  noWrite := 0
  rdPending := 0
  wrPending := 0
  rrRead := 0
  rrWrite := 0
  outOfRange := false
  cacheRegion := false
  parity := false
  cacheActive := false
  oorAddr := 0
  oorRegion := false
  oorReq := 0
  oorValid := false
  oorCount := 0
  perr := none
  perrMultiple := false
  perrCount := 0
  scrubMap := 0
  inserted := 0
  landHwm := 0
  tags := []
  plru := []
  fills := []
  hits := 0
  misses := 0
  keyTag := 0
  kept := 0
  scrubbed := BitVec.allOnes 96
  written := 0
  scrubDone := false

/-! ## Transfer engines -/

/-- State of a stream handle (R272). -/
inductive TxState where
  | idle | run | faulted | cancelling
  deriving DecidableEq, Repr

/-- A stream's request that has been formed and not completed (R282). -/
structure TxReq where
  id    : Nat
  chunk : Nat
  write : Bool
  /-- Place among the chunk's requests of its kind. -/
  idx   : Nat
  /-- Global address of the first byte, and its module physical address once translated. -/
  addr  : Nat
  mpa   : Option (BitVec 40)
  /-- Waits for a walk, for a read tag, for space in the held-write store, or has been issued. -/
  stage : Nat
  /-- Holds a read tag (R313). -/
  tag   : Bool
  /-- It missed in the ledge cache, so its block is filled when it returns (R263). -/
  fill  : Bool
  /-- Retries made for parity (R301). -/
  tries : Nat
  /-- Its translation came from an entry that an invalidation has removed since (R296). -/
  stale : Bool
  /-- Timebase count since which it waits, and whether it is promoted (R310). -/
  since : BitVec 64
  promoted : Bool
  /-- Its place in the order in which requests have come to the read-tag pool (R309). -/
  arrival : Nat
  deriving DecidableEq, Repr

/-- A chunk in progress. -/
structure ChunkRun where
  num  : Nat
  /-- Place q in its descriptor, the descriptor's 64 bytes and its ledge offset. -/
  q    : Nat
  desc : List Byte
  off  : Nat
  /-- Source requests formed; those completed. -/
  rdNext : Nat
  rdDone : List Nat
  /-- Source bytes returned: by place in the chunk for a COPY, by address for a REPACK. -/
  buf  : Mem
  /-- Destination requests formed, and how many have completed. -/
  wrNext : Nat
  wrDone : Nat
  /-- Every source and destination request exists and has completed. -/
  landed : Bool
  /-- Deadline (R305) and due time (R307). -/
  deadline : Option (BitVec 48)
  due  : Option Int
  /-- What stopped it: code, write, level, VA (R297, R301); and the number of the request, which gives its place in issue order. -/
  fault : Option (BitVec 4 × Bool × BitVec 2 × Nat)
  faultId : Nat
  /-- Requests that have been issued, each once: write, place, bytes moved (R550). -/
  issued : List (Bool × Nat × Nat)
  /-- Number of its last write that has been issued; its signals for other dies leave under it (R334). -/
  wid : Nat
  deriving DecidableEq, Repr

/-- The COPY or REPACK being executed: its bytes, ledge offset, the number of its first chunk, its chunk count, the deadline
of its first chunk and the step from one to the next (R305). -/
structure CurDesc where
  desc  : List Byte
  off   : Nat
  first : Nat
  count : Nat
  base  : Option (BitVec 48)
  per   : Nat
  /-- Timebase count, beat and ceiling from which the due times of its chunks not yet begun follow (R307); none while the stream is
  untracked. -/
  dueAt : Option (Nat × BitVec 48 × Nat)
  deriving DecidableEq, Repr

/-- One stream handle (R272..R305). -/
structure Stream where
  st : TxState
  errored : Bool
  /-- Descriptor bytes fetched and not yet executed, and the ledge offset of the first. -/
  burst : List Byte
  burstOff : Nat
  /-- A burst read is on its way. -/
  fetching : Bool
  /-- END has been decoded, or the list can go no further. -/
  ended : Bool
  cur : Option CurDesc
  chunks : List ChunkRun
  nextChunk : Nat
  nextSignal : Nat
  reqs : List TxReq
  /-- An error of the list itself: code, chunk number and descriptor offset (R301). -/
  listErr : Option (BitVec 4 × Nat × Nat)
  goBeat : BitVec 48
  anchor : BitVec 48
  /-- Ticks at which chunks missed, by chunk number (R314). -/
  missed : List (Nat × BitVec 64)
  /-- Epoch the stream belongs to (R349), by epoch number; none at depth 0. -/
  epoch : Option Nat
  /-- Held by the commit gate (R500). -/
  gated : Bool
  /-- Tracker entry held (R312). -/
  tracked : Bool
  /-- The record of its last fault or error: code, write, level, chunk, VA, indices, descriptor offset (R303). -/
  fcode : BitVec 4
  fwrite : Bool
  flevel : BitVec 2
  fvalid : Bool
  fchunk : Nat
  fva : BitVec 64
  fidx : List Nat
  fdesc : BitVec 19
  deriving DecidableEq, Repr

/-- A handle with no stream and an empty record. -/
def Stream.reset : Stream where
  st := .idle
  errored := false
  burst := []
  burstOff := 0
  fetching := false
  ended := false
  cur := none
  chunks := []
  nextChunk := 0
  nextSignal := 0
  reqs := []
  listErr := none
  goBeat := 0
  anchor := 0
  missed := []
  epoch := none
  gated := false
  tracked := false
  fcode := 0
  fwrite := false
  flevel := 0
  fvalid := false
  fchunk := 0
  fva := 0
  fidx := [0, 0, 0, 0, 0]
  fdesc := 0

/-- The two transfer engines of a core (chapters 11 and 12). -/
structure XferSt where
  /-- Streams x = 4e + h. -/
  streams : Vector Stream 8
  /-- TX_SEL. -/
  sel : BitVec 3
  /-- Outbound queue entries held, TXA and TXB (R274). -/
  queueA : Nat
  queueB : Nat
  /-- Ledge cycles each engine still needs to decode the burst of its last TXGO (R274). -/
  decodeA : Nat
  decodeB : Nat
  /-- Next number of a request or write, and the numbers of issued writes not yet acknowledged (R334). -/
  nextWrite : Nat
  outWrites : List Nat
  /-- Numbers of the core's signals for other dies that have not left this die (R334). -/
  outSignals : List Nat
  /-- Released module-memory writes among them: number, VA, and whether an invalidation has removed their translation since (R296). -/
  memOut : List (Nat × Nat × Bool)
  /-- TX_COUNT and TX_CANCEL_BYTES. -/
  chunksSig : Nat
  absentPuts : Nat
  faults : Nat
  cancelBytes : Nat
  /-- TX_DL_MISS. -/
  misses : Nat
  lateMax : Nat
  /-- The last non-zero EFFECTIVE since START, for due times (R307). -/
  dlCeil : Nat
  deriving DecidableEq, Repr

/-- The transfer engines after power-on reset. -/
def XferSt.reset : XferSt where
  streams := Vector.replicate 8 Stream.reset
  sel := 0
  queueA := 0
  queueB := 0
  decodeA := 0
  decodeB := 0
  nextWrite := 1
  outWrites := []
  outSignals := []
  memOut := []
  chunksSig := 0
  absentPuts := 0
  faults := 0
  cancelBytes := 0
  misses := 0
  lateMax := 0
  dlCeil := 250

/-! ## Cairns, arrivals, epochs, recovery -/

/-- An unreleased arrival of a core at a summit context (R333, R334). -/
structure Arrival where
  /-- It has left the core. -/
  left : Bool
  /-- Writes numbered below this must complete before it leaves. -/
  before : Nat
  /-- Held by the commit gate (R500). -/
  gated : Bool
  /-- Carries the trap flag (R235). -/
  trap : Bool
  /-- Made by a SARR with WAIT = 1 whose bundle has not issued. -/
  waiting : Bool
  deriving DecidableEq, Repr

/-- Cairns and summit arrivals of a core (chapter 13). -/
structure CairnSt where
  /-- CAIRN_SEL. -/
  sel : BitVec 6
  /-- Counts, closed windows, LATE counters by cairn. -/
  counts : SMap Nat
  closed : SMap Bool
  late : SMap Nat
  /-- CAIRN_STAT. -/
  lateAny : Bool
  ovf : Bool
  swaitEmpty : Bool
  disabledCtx : Bool
  firstLate : BitVec 6
  firstLateValid : Bool
  /-- LAND_DROP. -/
  dropCount : Nat
  dropDie : BitVec 4
  dropValid : Bool
  /-- CORE_SYN_WAIT. -/
  waitKind : BitVec 2
  waitIdx : BitVec 6
  waitNeed : BitVec 32
  /-- Unreleased arrivals by context. -/
  arrivals : SMap (Option Arrival)
  /-- Arrivals withheld behind an unreleased one of their context, oldest first (R333): the beat of the SARR, the write number that the
  arrival covers (R334), and whether its bundle waits for its release. -/
  withheld : SMap (List (BitVec 48 × Nat × Bool))
  /-- Contexts with an arrival since START or since the last SWAIT there (R333). -/
  made : BitVec 16
  /-- Release reached a SARR with WAIT = 1 whose bundle may now issue: its context's bit. -/
  released : BitVec 16
  /-- Scree load in force, sixty-fourths of I_d, and the tick it began (R342, R343). -/
  scree : Nat
  screeSince : BitVec 64
  /-- Ramp in force: 64-ns units r, and quarter 0..4 (R343). -/
  ramp : BitVec 4
  rampQuarter : BitVec 3
  deriving DecidableEq, Repr

/-- Cairns after power-on reset: counts 0, windows open. -/
def CairnSt.reset : CairnSt where
  sel := 0
  counts := []
  closed := []
  late := []
  lateAny := false
  ovf := false
  swaitEmpty := false
  disabledCtx := false
  firstLate := 0
  firstLateValid := false
  dropCount := 0
  dropDie := 0
  dropValid := false
  waitKind := 0
  waitIdx := 0
  waitNeed := 0
  arrivals := []
  withheld := []
  made := 0
  released := 0
  scree := 0
  screeSince := 0
  ramp := 0
  rampQuarter := 4

/-- What became of an epoch (R359, R360, R362). -/
inductive EpochFate where
  | opened
  | merged (into : Nat)
  | released
  | discarded
  deriving DecidableEq, Repr

/-- Epochs of a core (chapter 14). -/
structure EpochSt where
  /-- Open epochs by number, innermost first; the depth is its length. -/
  stack : List Nat
  next : Nat
  fate : SMap EpochFate
  /-- EPOCH_STAT. -/
  depthErr : Bool
  openAtEnd : Bool
  commitWait : Bool
  commits : Nat
  discards : Nat
  relErrors : Nat
  /-- EPOCH_DISC_BYTES. -/
  discBytes : Nat
  /-- Numbers of released items that have neither landed nor been dropped (R366). -/
  relOut : List Nat
  deriving DecidableEq, Repr

/-- Epochs after power-on reset. -/
def EpochSt.reset : EpochSt where
  stack := []
  next := 0
  fate := []
  depthErr := false
  openAtEnd := false
  commitWait := false
  commits := 0
  discards := 0
  relErrors := 0
  discBytes := 0
  relOut := []

/-- A trap event or a sticky-flag update at its place in the order of R231. -/
structure NumEvent where
  beat : BitVec 48
  slot : Nat
  cycle : Bool
  row : Nat
  pos : Nat
  stp : Nat
  addr : BitVec 18
  /-- Cause code, 0 for a flag update. -/
  cause : Nat
  /-- Flag: 0 none, 1 SATURATED, 2 FLUSHED, 3 PAIR_OVERFLOW, 4 OUT_OVERFLOW, 5 OVERFLOW, 6 DIVZERO. -/
  flag : Nat
  /-- The pass of an MXE event. -/
  tileId : BitVec 32
  gpass : BitVec 24
  set : BitVec 2
  final : Bool
  chain : Bool
  narrow : Bool
  deriving DecidableEq, Repr

/-- An operation that R496 reruns, as issued. -/
inductive RerunOp where
  | mxe (r : MxeRun)
  | ocfg (c : BitVec 2) (base : Nat)
  /-- VLD or VLDL: vd, bytes, base. -/
  | vload (v : BitVec 4) (len base : Nat)
  | txgo (x : Fin 8) (base : Nat)
  /-- TXPUT's source: engine, bytes, base. -/
  | txput (eng : Bool) (len base : Nat)
  deriving DecidableEq, Repr

/-- An operation whose run failed parity and that waits for its next run (R497). -/
structure Rerun where
  op : RerunOp
  /-- It runs predicated off: only its reads take place (R75). -/
  off : Bool
  slot : Nat
  opcode : BitVec 6
  addr : BitVec 18
  /-- Issue beat and commit beat. -/
  beat : BitVec 48
  commit : BitVec 48
  /-- Runs made, and the failing lines of each. -/
  runs : Nat
  lines : List (BitVec 9)
  deriving DecidableEq, Repr

/-- A remote effect held by the commit gate (R500). -/
inductive GateItem where
  /-- A TXPUT: its engine, its write, its epoch, the data slots it takes in the store when it is held (R350), and its write number:
  taken at issue, or, when it is held, at the release of its epoch (0 before). -/
  | put (eng : Bool) (w : OutWrite) (epoch : Option Nat) (held : Option Nat) (num : Nat)
  | stream (x : Fin 8)
  | arrive (ctx : BitVec 4)
  deriving DecidableEq, Repr

/-- The slots of a bundle that wait behind a rerun of a lower slot of their beat (R29, R31, R511). -/
structure BeatRest where
  /-- The first slot that has not acted. -/
  next : Nat
  /-- What the bundle latched at issue, its slots, the loop counters carried with it, the failures that its reads meet. -/
  latch : Latched
  slots : Vector Slot 8
  lcs : List Nat
  faults : List ReadFault
  /-- The core's next write number when the bundle issued: an arrival of the bundle covers the writes below it (R334). -/
  before : Nat
  deriving DecidableEq, Repr

/-- Recovery state of a core (chapter 21). -/
structure ErrSt where
  /-- CORE_HARD_ERR, CORE_HARD_BEAT, CORE_HARD_LINE. -/
  valid : Bool
  failed : Bool
  cause : BitVec 4
  req : BitVec 4
  opcode : BitVec 6
  runs : BitVec 3
  addr : BitVec 18
  beat : BitVec 48
  line : BitVec 9
  word : BitVec 4
  groups : BitVec 16
  /-- CORE_RERUN. -/
  reruns : Nat
  gateDropped : Nat
  /-- Operations waiting for a rerun. -/
  rerun : List Rerun
  /-- Slots of the same beat that wait behind them. -/
  rest : Option BeatRest
  /-- Ledge cycles since the beat whose issue they hold, oldest first, with the read and write slots that each left to background: those
  slots are given once the beat's foreground effects are complete (R250, R498). -/
  cycles : List (Nat × Nat)
  /-- Spans of uncommitted operations: slot, issue beat, commit beat (R500). -/
  spans : List (Nat × BitVec 48 × BitVec 48)
  /-- Open suspect spans, by slot, beat and step of their openings; and the events they hold (R499). -/
  suspect : List (Nat × BitVec 48 × Nat)
  heldEvents : List NumEvent
  /-- Gated effects in issue order with their beats (R500, R501). -/
  gate : List (BitVec 48 × GateItem)
  deriving DecidableEq, Repr

/-- Recovery state after power-on reset. -/
def ErrSt.reset : ErrSt where
  valid := false
  failed := false
  cause := 0
  req := 0
  opcode := 0
  runs := 0
  addr := 0
  beat := 0
  line := 0
  word := 0
  groups := 0
  reruns := 0
  gateDropped := 0
  rerun := []
  rest := none
  cycles := []
  spans := []
  suspect := []
  heldEvents := []
  gate := []

/-- Whether a core has power and is out of reset (R382, R466, R486). -/
inductive Presence where
  | off | reset | on
  deriving DecidableEq, Repr

/-- One physical core. -/
structure Core where
  presence : Presence
  issue : IssueSt
  mxe : MxeSt
  ost : OstSt
  vxe : VxeSt
  trap : TrapSt
  ledge : LedgeSt
  xfer : XferSt
  cairn : CairnSt
  epoch : EpochSt
  err : ErrSt
  deriving DecidableEq, Repr

/-- A core after power-on reset: no power, every register at its P: value. -/
def Core.reset : Core where
  presence := .off
  issue := IssueSt.reset
  mxe := MxeSt.reset
  ost := OstSt.reset
  vxe := VxeSt.reset
  trap := TrapSt.reset
  ledge := LedgeSt.reset
  xfer := XferSt.reset
  cairn := CairnSt.reset
  epoch := EpochSt.reset
  err := ErrSt.reset

end Sys2Proof.Machine
end

