-- ==== Sys2Proof/Machine/Ledge.lean ====
section
/-! DEFINITION. One ledge's accesses (chapter 10): range and cache region (R239, R240, R267), parity (R256..R258),
foreground reads and writes, shapes (R243..R247) and cache lookup (R262..R265). -/
namespace Sys2Proof.Machine

/-- What a core's operations take from outside the core: the die's line count, the run's modes and seed (R175, R233), the
core's logical place (R74), the loop counters carried with the beat (R67), and the parity failures this beat meets. -/
structure Env where
  lines : Nat
  trapMode : BitVec 2
  seed : BitVec 64
  seedLocal : Bool
  mx6 : Bool
  coreIdx : Nat
  clusIdx : Nat
  mclusIdx : Nat
  mclusCount : Nat
  dieIdx : Nat
  massifIdx : Nat
  lcs : List Nat
  faults : List ReadFault
  deriving DecidableEq, Repr

/-! ## Range and records -/

/-- 0: an address of the ledge; 1: outside the ledge range (R240); 2: in the active cache region (R267). -/
def ledgeClass (lines : Nat) (l : LedgeSt) (off : Nat) : Nat :=
  if off ≥ lines * 1024 then 1
  else if l.cacheActive && off ≥ (lines - 128) * 1024 then 2
  else 0

/-- Counter that saturates at 2^w - 1. -/
def satInc (w : Nat) (n : Nat) : Nat := if n + 1 < 2 ^ w then n + 1 else 2 ^ w - 1
/-- n added to a counter that saturates at 2^w - 1. -/
def satAdd (w : Nat) (n k : Nat) : Nat := min (n + k) (2 ^ w - 1)

/-- LEDGE_STAT, LEDGE_OOR and its count after an access answered under R240 (cls 1) or R267 (cls 2). -/
def ledgeOor (cls off : Nat) (req : BitVec 4) (l : LedgeSt) : LedgeSt :=
  if cls = 0 then l
  else
    let l := { l with oorCount := satInc 16 l.oorCount }
    let l := if cls = 1 then { l with outOfRange := true } else { l with cacheRegion := true }
    if l.oorValid then l
    else { l with oorValid := true, oorAddr := BitVec.ofNat 19 off, oorRegion := cls == 2, oorReq := req }

/-- An access with several bytes that are answered so, listed as (class, offset): each class sets its flag, the first is recorded, and
the access counts once. -/
def ledgeOors (bad : List (Nat × Nat)) (req : BitVec 4) (l : LedgeSt) : LedgeSt :=
  match bad with
  | [] => l
  | (cls, off) :: _ =>
    let l := ledgeOor cls off req l
    { l with outOfRange := l.outOfRange || bad.any (fun b => b.1 == 1), cacheRegion := l.cacheRegion || bad.any (fun b => b.1 == 2) }
/-- The offsets of an access that are answered under R240 or R267, with their classes. -/
def badOffsets (lines : Nat) (l : LedgeSt) (offs : List Nat) : List (Nat × Nat) :=
  (offs.map (fun a => (ledgeClass lines l a, a))).filter (fun b => b.1 != 0)

/-- LEDGE_STAT.PARITY and LEDGE_PERR_LOG after a read that failed (R258). -/
def ledgePerr (hits : List ParityHit) (l : LedgeSt) : LedgeSt :=
  match hits with
  | [] => l
  | h :: _ =>
    let l := { l with parity := true, perrCount := satInc 16 l.perrCount }
    match l.perr with
    | none => { l with perr := some h }
    | some _ => { l with perrMultiple := true }

/-! ## Parity (R256..R258) -/

/-- The failures a read of bank words [w0, w0+n) of a line meets: groups stored bad, and those the environment names. -/
def ledgeFails (fs : List ReadFault) (req : BitVec 4) (line w0 n : Nat) (l : LedgeSt) : List ParityHit :=
  (List.range n).filterMap (fun i =>
    let w := w0 + i
    let env := fs.foldl (fun g f => if f.hit.req == req && f.hit.line.toNat == line && f.hit.word.toNat == w
      then g ||| f.hit.groups else g) 0
    let g := smGet 0 l.bad (line * 16 + w) ||| env
    if g == 0 then none else some ⟨req, BitVec.ofNat 9 line, BitVec.ofNat 4 w, g⟩)

/-- Groups the environment reports as stored bad stay so until rewritten whole (R257). -/
def ledgeMark (fs : List ReadFault) (req : BitVec 4) (line : Nat) (l : LedgeSt) : LedgeSt :=
  fs.foldl (fun l f =>
    if f.stored && f.hit.req == req && f.hit.line.toNat == line then
      let k := line * 16 + f.hit.word.toNat
      { l with bad := smSet 0 l.bad k (smGet 0 l.bad k ||| f.hit.groups) }
    else l) l

/-- A foreground or background read of bytes within one line: the ledge with its records, the bytes, and the failures. -/
def ledgeRead (env : Env) (req : BitVec 4) (off len : Nat) (l : LedgeSt) : LedgeSt × List Byte × List ParityHit :=
  let cls := ledgeClass env.lines l off
  if cls = 0 then
    let line := off / 1024
    let w0 := off % 1024 / 64
    let w1 := (off % 1024 + len - 1) / 64
    let hits := ledgeFails env.faults req line w0 (w1 + 1 - w0) l
    (ledgePerr hits (ledgeMark env.faults req line l), memRead l.mem off len, hits)
  else (ledgeOor cls off req l, List.replicate len 0, [])

/-- Whole groups written are good again; a partly written bad group stays bad (R257). -/
def ledgeHeal (off len : Nat) (l : LedgeSt) : LedgeSt :=
  if l.bad.isEmpty then l
  else (List.range (len / 4 + 2)).foldl (fun l i =>
    let g := off / 4 + i
    if off ≤ 4 * g && 4 * g + 4 ≤ off + len then
      let k := g / 16
      { l with bad := smSet 0 l.bad k (smGet 0 l.bad k &&& ~~~(1#16 <<< (g % 16))) }
    else l) l

/-- The block of a ledge offset, in a set of blocks. -/
def blockBit (off : Nat) : BitVec 96 := 1#96 <<< (off / 4096)
/-- A write of bytes within one line. -/
def ledgeWrite (env : Env) (req : BitVec 4) (off : Nat) (bs : List Byte) (l : LedgeSt) : LedgeSt :=
  let cls := ledgeClass env.lines l off
  if cls = 0 then ledgeHeal off bs.length { l with mem := memWrite l.mem off bs, written := l.written ||| blockBit off }
  else ledgeOor cls off req l

/-- A masked write, byte by byte; out-of-range bytes are discarded and the access is recorded once (R240, R257). -/
def ledgeWriteMask (env : Env) (req : BitVec 4) (bytes : Mem) (mask : List Nat) (l : LedgeSt) : LedgeSt :=
  match mask with
  | [] => l
  | _ =>
    let ok := mask.filter (fun a => ledgeClass env.lines l a == 0)
    let lm := ok.foldl (fun m a => memSet m a (memGet bytes a)) l.mem
    let whole := ok.filter (fun a => a % 4 == 0 && ok.contains (a + 1) && ok.contains (a + 2) && ok.contains (a + 3))
    let bad := if l.bad.isEmpty then l.bad
      else whole.foldl (fun b a => smSet 0 b (a / 64) (smGet 0 b (a / 64) &&& ~~~(1#16 <<< (a / 4 % 16)))) l.bad
    let wr := ok.foldl (fun w a => w ||| blockBit a) l.written
    ledgeOors (badOffsets env.lines l mask) req { l with mem := lm, bad := bad, written := wr }

/-! ## Shapes (R243..R247) -/

/-- Status of a shaped access: true is BAD_SHAPE (R247). -/
def shapeBad (shape : BitVec 4) (stride : BitVec 13) (write : Bool) : Bool :=
  let acc := (bitsAt shape 0 2).toNat
  acc == 3 || (write && bitsAt shape 2 2 != 0) || (acc == 2 && stride == 0)

/-- Word indices of the 16 words of a COLUMN, GATHER or whole-line ROW access (R244). -/
def shapeWords (shape : BitVec 4) (stride : BitVec 13) (off : Nat) : List Nat :=
  (List.range 16).map (fun j =>
    match (bitsAt shape 0 2).toNat with
    | 0 => off / 1024 * 16 + j
    | 1 => (off / 1024 + j) * 16 + off / 64 % 16
    | _ => (off / 64 + j * stride.toNat) % 8192)

/-- Slots a GATHER takes (gather_slots of R246); other shapes take one. -/
def shapeSlots (shape : BitVec 4) (stride : BitVec 13) (off : Nat) : Nat :=
  if (bitsAt shape 0 2).toNat = 2 then
    let banks := (shapeWords shape stride off).map (fun w => (w / 16 + w) % 16)
    (List.range 16).foldl (fun m b => max m (banks.count b)) 0
  else 1

/-- Transposition at element width 1, 2 or 4 bytes (R245). -/
def shapeTranspose (xpose : Nat) (bs : List Byte) : List Byte :=
  if xpose = 0 then bs
  else
    let wb := if xpose = 1 then 1 else if xpose = 2 then 2 else 4
    (List.range 1024).map (fun o =>
      let e := o / wb
      let x := e / 16
      let j := e % 16
      bs.getD (64 * j + x * wb + o % wb) 0)

/-- A background read under a shape: ledge, bytes, failures, BAD_SHAPE. -/
def ledgeReadShape (env : Env) (req : BitVec 4) (shape : BitVec 4) (stride : BitVec 13) (off len : Nat) (l : LedgeSt) :
    LedgeSt × List Byte × List ParityHit × Bool :=
  if shapeBad shape stride false then (l, List.replicate len 0, [], true)
  else if (bitsAt shape 0 2).toNat = 0 && bitsAt shape 2 2 == 0 then
    let (l, bs, hs) := ledgeRead env req off len l
    (l, bs, hs, false)
  else
    let ws := shapeWords shape stride off
    let bad := badOffsets env.lines l (ws.map (· * 64))
    let parts := ws.map (fun w =>
      if ledgeClass env.lines l (w * 64) = 0 then (memRead l.mem (w * 64) 64, ledgeFails env.faults req (w / 16) (w % 16) 1 l)
      else (List.replicate 64 0, []))
    let hits := (parts.map (·.2)).flatten
    let l := ledgePerr hits (ws.foldl (fun l w => ledgeMark env.faults req (w / 16) l) l)
    let l := ledgeOors bad req l
    (l, (shapeTranspose (bitsAt shape 2 2).toNat (parts.map (·.1)).flatten).take len, hits, false)

/-! ## The ledge cache (R261..R265) -/

/-- First byte of the cache region. -/
def cacheBase (lines : Nat) : Nat := (lines - 128) * 1024
/-- The set of a VA, and its tag. -/
def cacheSet (va : Nat) : Nat := va / 256 % 128
def cacheTag (va : Nat) : BitVec 45 := BitVec.ofNat 45 (va / 32768)
/-- The way (set·4 + w) that holds a VA's block. -/
def cacheFind (va : Nat) (l : LedgeSt) : Option Nat :=
  (List.range 4).map (fun w => cacheSet va * 4 + w) |>.find? (fun i => smGet none l.tags i == some (cacheTag va))
/-- The way a set replaces: the first invalid one, else the one its pseudo-LRU tree points to. That an invalid way comes first, and that
an invalidation and START leave the tree as it is, is a DESIGN CHOICE (log entry 113). -/
def cacheVictim (set : Nat) (l : LedgeSt) : Nat :=
  match (List.range 4).map (fun w => set * 4 + w) |>.find? (fun i => smGet none l.tags i == none) with
  | some i => i
  | none =>
    let t := smGet 0 l.plru set
    if t.getLsbD 0 then set * 4 + (if t.getLsbD 2 then 3 else 2) else set * 4 + (if t.getLsbD 1 then 1 else 0)
/-- The pseudo-LRU tree after a use of a way: it points away from it (R262). -/
def cacheTouch (i : Nat) (l : LedgeSt) : LedgeSt :=
  let set := i / 4
  let t := smGet 0 l.plru set
  let b (k : Nat) : Nat := bitOf (t.getLsbD k)
  let t' : Nat := match i % 4 with
    | 0 => 1 + 2 + 4 * b 2
    | 1 => 1 + 0 + 4 * b 2
    | 2 => 0 + 2 * b 1 + 4
    | _ => 0 + 2 * b 1 + 0
  { l with plru := smSet 0 l.plru set (BitVec.ofNat 3 t') }
/-- Every block invalid, those whose fill is in flight included (R265). Until then a lookup may find an old block: a cached copy stays
whatever other agents write, and nothing detects it (R266). -/
def cacheClear (l : LedgeSt) : LedgeSt := { l with tags := [], fills := l.fills.map (fun f => { f with stale := true }) }
/-- The block of a VA invalid (R264). -/
def cacheDrop (va : Nat) (l : LedgeSt) : LedgeSt :=
  let l := { l with fills := l.fills.map (fun f => if f.block = va / 256 then { f with stale := true } else f) }
  match cacheFind va l with
  | none => l
  | some i => { l with tags := smSet none l.tags i none }

end Sys2Proof.Machine
end

