-- ==== Sys2Proof/Machine/Numbers.lean ====
section
/-! DEFINITION. Exact numbers and the number formats (chapter 04, R112..R126, R168..R169): dyadic values, rounding, the
classes of a decoded value, binary32 and bfloat16, the wide value, the MX elements and E8M0 scales. -/
namespace Sys2Proof.Machine

/-! ## Dyadic numbers -/

/-- Equal exponents by scaling the one with the larger exponent. -/
def dyAlign (a b : Dy) : Int × Int × Int :=
  let e := min a.e b.e
  (a.m * 2 ^ (a.e - e).toNat, b.m * 2 ^ (b.e - e).toNat, e)
/-- The exact sum. -/
def dyAdd (a b : Dy) : Dy := let (x, y, e) := dyAlign a b; ⟨x + y, e⟩
/-- The exact negation. -/
def dyNeg (a : Dy) : Dy := ⟨-a.m, a.e⟩
/-- The exact difference. -/
def dySub (a b : Dy) : Dy := dyAdd a (dyNeg b)
/-- The exact product. -/
def dyMul (a b : Dy) : Dy := ⟨a.m * b.m, a.e + b.e⟩
/-- The magnitude. -/
def dyAbs (a : Dy) : Dy := ⟨a.m.natAbs, a.e⟩
/-- a < b. -/
def dyLt (a b : Dy) : Bool := let (x, y, _) := dyAlign a b; x < y
/-- a = b as numbers. -/
def dyEq (a b : Dy) : Bool := let (x, y, _) := dyAlign a b; x == y
/-- a ≤ b. -/
def dyLe (a b : Dy) : Bool := !dyLt b a
/-- 2^k. -/
def dyPow2 (k : Int) : Dy := ⟨1, k⟩
/-- ⌊log2 |a|⌋ of a non-zero number. -/
def dyLog2 (a : Dy) : Int := (a.m.natAbs.log2 : Int) + a.e
/-- Negative. -/
def dyNegative (a : Dy) : Bool := a.m < 0
/-- Zero. -/
def dyIsZero (a : Dy) : Bool := a.m == 0

/-- ⌊a / 2^q⌋. -/
def dyFloor (q : Int) (a : Dy) : Int :=
  if q ≤ a.e then a.m * 2 ^ (a.e - q).toNat else a.m.fdiv (2 ^ (q - a.e).toNat)

/-- The integer k with k·2^q nearest to a, ties to even. -/
def dyRound (q : Int) (a : Dy) : Int :=
  if q ≤ a.e then a.m * 2 ^ (a.e - q).toNat
  else
    let d := 2 ^ (q - a.e).toNat
    let n := a.m.natAbs
    let k := n / d
    let r := n % d
    let k' := if 2 * r < d then k else if 2 * r = d then k + k % 2 else k + 1
    if a.m < 0 then -(k' : Int) else k'

/-- Rounded to a p-bit significand, to nearest even, exponent unbounded (rne of R179, R196, R198). -/
def dyRne (p : Nat) (a : Dy) : Dy :=
  if dyIsZero a then ⟨0, 0⟩
  else let q := dyLog2 a - ((p : Int) - 1); ⟨dyRound q a, q⟩

/-- Stochastic rounding of a non-zero number to a p-bit significand under a 16-bit draw (sr_round of R169). -/
def dySr (p : Nat) (u : Nat) (a : Dy) : Dy :=
  let q := dyLog2 a - ((p : Int) - 1)
  let ax := dyAbs a
  let k := dyFloor q ax
  let f := dyFloor (q - 16) ax - k * 65536
  let k' := if f + (u : Int) ≥ 65536 then k + 1 else k
  ⟨if dyNegative a then -k' else k', q⟩

/-! ## Exponentials, for the bounds of R198 and R218 -/

/-- ln 2 in units of 2^-128, to the nearest. -/
def expLn2 : Int := 235865763225513294137944142764154484399
/-- The sum of r^i/i!, i from 0 to n, in units of 2^-128, from its last term on: r is 0 .. ln 2 in the same units. -/
def expSum (r : Int) : Nat → Nat → Int → Int
  | 0, _, _ => 0
  | n + 1, i, t => t + expSum r n (i + 1) ((t * r).fdiv (2 ^ 128) / ((i : Int) + 1))
/-- e^(x·2^-128), to more than 100 significant bits for |x| below 2^136. -/
def expFixed (x : Int) : Dy :=
  let k := x.fdiv expLn2
  ⟨expSum (x - k * expLn2) 48 0 (2 ^ 128), k - 128⟩
/-- e^a, to more than 100 significant bits, for |a| below 256: near 0 it is 1 + a, which lies on the right side of 1. -/
def dyExp (a : Dy) : Dy := if dyLog2 a < -64 then dyAdd ⟨1, 0⟩ a else expFixed (dyRound (-128) a)
/-- The reciprocal to 60 significant bits. -/
def dyRecip (a : Dy) : Dy :=
  let k := a.m.natAbs.log2 + 60
  let q : Int := (2 ^ k / a.m.natAbs : Nat)
  ⟨if a.m < 0 then -q else q, -(k : Int) - a.e⟩
/-- 1/(1 + e^-x) of x in units of 2^-128. -/
def dySigmoid (x : Int) : Dy := dyRecip (dyAdd ⟨1, 0⟩ (expFixed (-x)))

/-! ## Classes -/

/-- The sum of two classified values; opposite infinities give NaN. A finite sum of zero is +0 (R171). -/
def valAdd : Val → Val → Val
  | .nan, _ => .nan
  | _, .nan => .nan
  | .inf a, .inf b => if a = b then .inf a else .nan
  | .inf a, _ => .inf a
  | _, .inf b => .inf b
  | .fin a, .fin b => .fin (dyAdd a b)

/-- A NaN. -/
def valIsNan : Val → Bool
  | .nan => true
  | _ => false
/-- An infinity. -/
def valIsInf : Val → Bool
  | .inf _ => true
  | _ => false
/-- A finite zero. -/
def valIsZero : Val → Bool
  | .fin a => dyIsZero a
  | _ => false
/-- Two infinities of opposite sign. -/
def valOpposite : Val → Val → Bool
  | .inf a, .inf b => a != b
  | _, _ => false
/-- Rounded when finite. -/
def valRne (p : Nat) : Val → Val
  | .fin a => .fin (dyRne p a)
  | v => v

/-! ## binary32 and bfloat16 (R112) -/

/-- The classified value and the sign of an IEEE code of 8 exponent bits and mb fraction bits. -/
def ieeeDecode (mb : Nat) (code : Nat) : Val :=
  let neg := code / 2 ^ (mb + 8) % 2 = 1
  let e := code / 2 ^ mb % 256
  let f := code % 2 ^ mb
  let sg : Int := if neg then -1 else 1
  if e = 255 then (if f = 0 then .inf neg else .nan)
  else if e = 0 then .fin ⟨sg * f, -126 - mb⟩
  else .fin ⟨sg * (f + 2 ^ mb : Nat), (e : Int) - 127 - mb⟩
/-- The sign bit of an IEEE code. -/
def ieeeSign (mb : Nat) (code : Nat) : Bool := code / 2 ^ (mb + 8) % 2 == 1

/-- The unit of the result grid of a value: subnormals share the grid of the smallest normal. -/
def ieeeUnit (mb : Nat) (a : Dy) : Int := max (dyLog2 a) (-126) - mb

/-- The code of a finite value rounded to nearest even, and whether it overflowed to infinity. The sign given is used for zeros.
DESIGN CHOICE (log entry 111): a negative value that rounds to zero gives -0. -/
def ieeeEncode (mb : Nat) (zneg : Bool) (v : Val) : Nat × Bool :=
  let s (n : Bool) : Nat := if n then 2 ^ (mb + 8) else 0
  match v with
  | .nan => (255 * 2 ^ mb + 2 ^ (mb - 1), false)
  | .inf n => (s n + 255 * 2 ^ mb, false)
  | .fin a =>
    if dyIsZero a then (s zneg, false)
    else
      let q := ieeeUnit mb a
      let k := (dyRound q a).natAbs
      let n := dyNegative a
      -- k·2^q with q at least the subnormal unit: k below 2^mb only on that grid
      if k < 2 ^ mb then (s n + k, false)
      else
        let (k, q) := if k = 2 ^ (mb + 1) then (2 ^ mb, q + 1) else (k, q)
        let e := q + mb + 127
        if e ≥ 255 then (s n + 255 * 2 ^ mb, true)
        else (s n + e.toNat * 2 ^ mb + (k - 2 ^ mb), false)

/-- binary32 (R112). -/
def f32Decode (code : Nat) : Val := ieeeDecode 23 code
/-- binary32 by rounding to nearest even. -/
def f32Encode (zneg : Bool) (v : Val) : Nat × Bool := ieeeEncode 23 zneg v
/-- bfloat16 (R112). -/
def bf16Decode (code : Nat) : Val := ieeeDecode 7 code
/-- bfloat16 by rounding to nearest even. -/
def bf16Encode (zneg : Bool) (v : Val) : Nat × Bool := ieeeEncode 7 zneg v

/-! ## The wide value (R168) -/

/-- The value of a 34-bit wide code. -/
def wideDecode (w : BitVec 34) : Val :=
  let e := (bitsAt w 23 10).toNat
  let f := (bitsAt w 0 23).toNat
  let neg := w.getLsbD 33
  let sg : Int := if neg then -1 else 1
  if e = 1023 then (if f = 0 then .inf neg else .nan)
  else if e = 0 then .fin ⟨sg * f, -533⟩
  else .fin ⟨sg * (f + 2 ^ 23 : Nat), (e : Int) - 534⟩

/-- The wide code of a value of at most 24 significant bits; zero is +0 (R171), NaN is F = 0x40_0000 with sign 0. -/
def wideEncode : Val → BitVec 34
  | .nan => BitVec.ofNat 34 (1023 * 2 ^ 23 + 0x400000)
  | .inf n => BitVec.ofNat 34 ((if n then 2 ^ 33 else 0) + 1023 * 2 ^ 23)
  | .fin a =>
    if dyIsZero a then 0
    else
      let l := dyLog2 a
      let f := (dyFloor (l - 23) (dyAbs a)).toNat
      let s := if dyNegative a then 2 ^ 33 else 0
      if l < -510 then BitVec.ofNat 34 (s + (dyFloor (-533) (dyAbs a)).toNat)
      else BitVec.ofNat 34 (s + (l + 511).toNat * 2 ^ 23 + (f - 2 ^ 23))

/-- A signed integer held in the low 32 bits of a cell (R177). -/
def intCell (i : Int) : BitVec 34 := (BitVec.ofInt 32 i).setWidth 34
/-- The int32 in the low 32 bits of a cell. -/
def cellInt (c : BitVec 34) : Int := (c.setWidth 32).toInt

/-- Clamped to a two's-complement range of w bits, and whether the clamp acted. -/
def clampInt (w : Nat) (i : Int) : Int × Bool :=
  let hi : Int := 2 ^ (w - 1) - 1
  let lo : Int := -(2 ^ (w - 1))
  if i > hi then (hi, true) else if i < lo then (lo, true) else (i, false)

/-! ## Format codes (R109) and elements (R113, R114, R126) -/

/-- MX formats: those with a shared scale. -/
def fmtMx (f : Nat) : Bool := 4 ≤ f && f ≤ 9
/-- MXFP6 formats, which need FEAT_MX6 (R111). -/
def fmtMx6 (f : Nat) : Bool := f == 7 || f == 8
/-- Weight class of a format; 4 stands for none (R109). -/
def fmtClass (f : Nat) : Nat :=
  if f = 2 then 1 else if 3 ≤ f && f ≤ 6 then 0 else if f = 7 || f = 8 then 2 else if f = 9 then 3 else 4
/-- Bits of an element of an MX or plain format. -/
def fmtBits (f : Nat) : Nat :=
  if f = 1 then 32 else if f = 2 then 16 else if 3 ≤ f && f ≤ 6 then 8 else if f = 7 || f = 8 then 6 else 4

/-- Exponent bits, mantissa bits and bias of the MX floating-point elements (R114). -/
def mxShape (f : Nat) : Nat × Nat × Int :=
  match f with
  | 5 => (4, 3, 7)
  | 6 => (5, 2, 15)
  | 7 => (3, 2, 3)
  | 8 => (2, 3, 1)
  | _ => (2, 1, 1)

/-- The class of an element code before its scale (R113, R114, R118). -/
def elemDecode (f : Nat) (code : Nat) : Val :=
  if f = 1 then f32Decode code
  else if f = 2 then bf16Decode code
  else if f = 3 then .fin ⟨(BitVec.ofNat 8 code).toInt, 0⟩
  else if f = 4 then .fin ⟨(BitVec.ofNat 8 code).toInt, -6⟩
  else
    let (eb, mb, bias) := mxShape f
    let m := code % 2 ^ mb
    let e := code / 2 ^ mb % 2 ^ eb
    let neg := code / 2 ^ (mb + eb) % 2 = 1
    let sg : Int := if neg then -1 else 1
    if f = 5 && e == 15 && m == 7 then .nan
    else if f = 6 && e == 31 then (if m = 0 then .inf neg else .nan)
    else if e = 0 then .fin ⟨sg * m, 1 - bias - mb⟩
    else .fin ⟨sg * (m + 2 ^ mb : Nat), (e : Int) - bias - mb⟩

/-- A value times 2^k. -/
def valScale (k : Int) : Val → Val
  | .fin a => .fin ⟨a.m, a.e + k⟩
  | v => v

/-- A decoded operand and the cause its NaN would carry: 4 (NaN scale) or 1 (input NaN), R118. -/
def operandOf (f : Nat) (code : Nat) (scale : Option Nat) : Val × Nat :=
  match scale with
  | some 255 => (.nan, 4)
  | some s => (valScale ((s : Int) - 127) (elemDecode f code), 1)
  | none => (elemDecode f code, 1)

/-- The block size of a scaling field; 0 for a reserved code (R121). -/
def sclBlock (scl : Nat) : Nat :=
  match scl % 8 with
  | 0 => 32 | 1 => 8 | 2 => 16 | 3 => 64 | 4 => 128 | 5 => 256 | _ => 0
/-- The DIR bit of a scaling field (R121). -/
def sclDir (scl : Nat) : Bool := scl / 8 % 2 == 1

end Sys2Proof.Machine
end

