-- ==== Sys2Proof/Machine/Matrix.lean ====
section
/-! DEFINITION. The matrix engine (chapters 05 and 06): configuration sets and their check, passes step by step, the
accumulation window, stochastic rounding, the compensated combine, pair words and narrow lanes. -/
namespace Sys2Proof.Machine

/-! ## Addresses (R88, R144) -/

/-- Bits [18:0] of OF + d·unit modulo 2^48, aligned down (R88). -/
def refAddr (o : OfReg) (d unit align : Nat) : Nat := (o.toNat + d * unit) % 2 ^ 48 % 2 ^ 19 / align * align
/-- An offset advanced within the 19-bit offset space (R239). -/
def offAdd (a k : Nat) : Nat := (a + k) % 2 ^ 19

/-! ## Configuration sets (R143) -/

/-- Word i of configuration set c. -/
def mxeCfgWord (m : MxeSt) (c : BitVec 2) (i : Nat) : BitVec 64 := BitVec.ofNat 64 (leNat (memRead m.cfg (96 * c.toNat + 8 * i) 8))

/-- Field [lo+n-1:lo] of a word as a number. -/
def fieldOf (w : BitVec 64) (lo n : Nat) : Nat := (bitsAt w lo n).toNat

/-- W_FMT, W_SCL, A_FMT, A_SCL (R143). -/
def passWFmt (p : MxePass) : Nat := fieldOf p.w0 0 4
def passWScl (p : MxePass) : Nat := fieldOf p.w0 4 4
def passAFmt (p : MxePass) : Nat := fieldOf p.w0 8 4
def passAScl (p : MxePass) : Nat := fieldOf p.w0 12 4
/-- Latch positions of the activation scales and of the weight scale line, and WSS. -/
def passAScalePos (p : MxePass) : Nat := fieldOf p.w0 16 4
def passWScalePos (p : MxePass) : Nat := fieldOf p.w0 20 4
def passWss (p : MxePass) : Bool := p.w0.getLsbD 24
/-- TILE_ID. -/
def passTileId (p : MxePass) : BitVec 32 := bitsAt p.w0 32 32
/-- Integer kind (R146). -/
def passInt (p : MxePass) : Bool := passWFmt p == 3 && passAFmt p == 3
/-- Either operand is bfloat16. -/
def passBf (p : MxePass) : Bool := passWFmt p == 2 || passAFmt p == 2
/-- Steps of the pass that read operands, and its commit step plus one (R161). -/
def passSteps (p : MxePass) : Nat := p.rows * p.ksteps
/-- Pair lines of a pass (R157). -/
def passPairLines (p : MxePass) : Nat := (p.rows + 3) / 4
/-- Occupancy (chapter 03, MXE operations). -/
def passLen (p : MxePass) : Nat := passSteps p + (if p.tile && !p.final then passPairLines p else 0)

/-- Scale cadence c of SC; 0 reads none (R97). -/
def cadenceOf (sc : BitVec 2) : Nat := match sc.toNat with | 0 => 0 | 1 => 32 | 2 => 16 | _ => 8
/-- K indices a weight scale line covers (R131). -/
def scaleKL (scl : Nat) : Nat :=
  let b := sclBlock scl
  if sclDir scl then (if b = 8 then 256 else if b = 16 then 512 else 1024) else 32 * b
/-- G: weight-streaming steps per scale line (R132). -/
def scaleG (scl : Nat) : Nat := scaleKL scl / 32

/-- The configuration check: the code of the first test that fails, 0 when none does (R160). -/
def mxeCheck (mx6 : Bool) (p : MxePass) : Nat :=
  let w := passWFmt p
  let a := passAFmt p
  let kl := scaleKL (passWScl p)
  let c := cadenceOf p.sc
  if p.w0 == 0 && p.w1 == 0 && p.w2 == 0 then 1
  else if bitsAt p.w0 26 6 != 0 || bitsAt p.w1 5 3 != 0 || bitsAt p.w1 25 3 != 0 || bitsAt p.w1 45 3 != 0 ||
      bitsAt p.w1 60 4 != 0 || bitsAt p.w2 24 40 != 0 then 2
  else if fmtClass w != p.wcls.toNat || (fmtMx6 w && !mx6) then 3
  else if (if p.tile then !(2 ≤ a && a ≤ 9) else if p.wcls == 1 then a != 2 else !(3 ≤ a && a ≤ 6)) || (fmtMx6 a && !mx6) then 4
  else if (fmtMx w && sclBlock (passWScl p) == 0) || (fmtMx a && sclBlock (passAScl p) == 0) then 5
  else if !passWss p && fmtMx w &&
      (c == 0 || (if p.tile then 32 * p.ksteps > kl && (p.rows * kl / 32) % c != 0 else c > scaleG (passWScl p))) then 6
  else if passWss p && fmtMx w && (if p.tile then 32 * p.ksteps > kl else p.ksteps > scaleG (passWScl p)) then 7
  else 0

/-! ## Random bits (R172..R174) -/

/-- mix of R172. -/
def srMix (z : BitVec 64) : BitVec 64 :=
  let z := (z ^^^ (z >>> 30)) * 0xBF58476D1CE4E5B9
  let z := (z ^^^ (z >>> 27)) * 0x94D049BB133111EB
  z ^^^ (z >>> 31)
/-- column_key of R172. -/
def srKey (seed : BitVec 64) (tileId : BitVec 32) (pidx : BitVec 24) (n : Nat) : BitVec 64 :=
  let t := BitVec.ofNat 64 (tileId.toNat * 2 ^ 32 + pidx.toNat * 32 + n % 32)
  srMix (seed ^^^ srMix t)
/-- draw of R172. -/
def srDraw (key : BitVec 64) (j : Nat) : Nat := (srMix (key + BitVec.ofNat 64 (j + 1) * 0x9E3779B97F4A7C15) >>> 48).toNat

/-! ## Operands (R129..R137) -/

/-- An element of w bits packed little-endian in a table of bytes from a base: element i (R128). -/
def packedElem (m : Mem) (base w i : Nat) : Nat :=
  let bit := w * i
  (leNat (memRead m (base + bit / 8) 5) / 2 ^ (bit % 8)) % 2 ^ w

/-- The code of weight element i of the step, column n, from the lines a weight-streaming pass holds (R129). -/
def wElem (p : MxePass) (held : Mem) (s i n : Nat) : Nat :=
  match p.wcls.toNat with
  | 0 => (memGet held (32 * n + i)).toNat
  | 1 => leNat (memRead held (32 * n + 2 * i) 2)
  | 2 => packedElem held (24 * (32 * (s % 4) + n)) 6 i
  | _ => packedElem held (32 * n + 16 * (s % 2)) 4 i

/-- The code of weight element i of K-step t, column n, from the active tile (R130, R154). -/
def tElem (p : MxePass) (tile : Mem) (t i n : Nat) : Nat :=
  match p.wcls.toNat with
  | 0 => (memGet tile (32 * n + i)).toNat
  | 1 => leNat (memRead tile (1024 * (i / 16) + 32 * n + 2 * (i % 16)) 2)
  | 2 => packedElem tile (24 * n) 6 i
  | _ => packedElem tile (32 * n + 16 * (t % 2)) 4 i

/-- Byte of a weight scale line for element (k, n) (R131). -/
def scaleByte (scl k n : Nat) : Nat :=
  let b := sclBlock scl
  if sclDir scl then (if b = 8 then 4 * (k % 256) + n / 8 else if b = 16 then 2 * (k % 512) + n / 16 else k % 1024)
  else 32 * (k / b % 32) + n

/-- The weight operand at K index k of the pass. -/
def wOperand (p : MxePass) (m : MxeSt) (code k n : Nat) : Val × Nat :=
  let f := passWFmt p
  let scale := if fmtMx f then
      some (if passWss p then memGet m.latch (1024 * passWScalePos p + scaleByte (passWScl p) k n)
        else memGet m.sHeld (scaleByte (passWScl p) k n)).toNat
    else none
  operandOf f code scale

/-- The activation operand i of step s of an MWSP (R134..R136, R149). -/
def latchOperand (p : MxePass) (m : MxeSt) (s i : Nat) : Val × Nat :=
  let f := passAFmt p
  if f = 2 then
    let o := (p.cursor + 32 * s + 2 * i) % 16384
    operandOf f (leNat [memGet m.latch o, memGet m.latch ((o + 1) % 16384)]) none
  else
    let o := (p.cursor + 32 * s + i) % 16384
    let scale := if fmtMx f then
        some (memGet m.latch (1024 * passAScalePos p + o / sclBlock (passAScl p) % 1024)).toNat
      else none
    operandOf f (memGet m.latch o).toNat scale

/-- The activation operand i of a row word (R137). -/
def rowOperand (p : MxePass) (word : Mem) (i : Nat) : Val × Nat :=
  let f := passAFmt p
  if f = 2 then operandOf f (leNat (memRead word (2 * i) 2)) none
  else
    let b := sclBlock (passAScl p)
    let sb := if sclDir (passAScl p) then 32 + i else if b ≤ 32 then 32 + i / b else 32
    let scale := if fmtMx f then some (memGet word sb).toNat else none
    operandOf f (packedElem word 0 (fmtBits f) i) scale

/-! ## Groups (R165..R167, R189) -/

/-- A product and the cause of its NaN (R118): the weight operand's cause decides. -/
def cellProduct (w a : Val × Nat) : Val × Nat :=
  match w.1, a.1 with
  | .nan, _ => (.nan, w.2)
  | _, .nan => (.nan, a.2)
  | .inf x, .inf y => (.inf (x != y), 0)
  | .inf x, .fin d => if dyIsZero d then (.nan, 2) else (.inf (x != dyNegative d), 0)
  | .fin d, .inf y => if dyIsZero d then (.nan, 2) else (.inf (y != dyNegative d), 0)
  | .fin d, .fin e => (.fin (dyMul d e), 0)

/-- The finite sum of a group through its 28-bit window (R166, R167). -/
def windowSum (ps : List Dy) : Dy :=
  let nz := ps.filter (fun d => !dyIsZero d)
  match nz with
  | [] => ⟨0, 0⟩
  | d :: ds =>
    let l := ds.foldl (fun m x => max m (dyLog2 x)) (dyLog2 d)
    let q := l - 27
    ⟨nz.foldl (fun s x => s + dyFloor q x) 0, q⟩

/-- A group's sum and the cause it reports (R189). -/
def groupSum (ps : List (Val × Nat)) : Val × Nat :=
  match ps.find? (fun p => valIsNan p.1) with
  | some p => (.nan, p.2)
  | none =>
    let pos := ps.any (fun p => p.1 == .inf false)
    let neg := ps.any (fun p => p.1 == .inf true)
    if pos && neg then (.nan, 3)
    else if pos then (.inf false, 0)
    else if neg then (.inf true, 0)
    else (.fin (windowSum (ps.filterMap (fun p => match p.1 with | .fin d => some d | _ => none))), 0)

/-- The running sum after a float group (R169, R182, R189): p is 24, or 10 in a lane. -/
def addFloat (p u : Nat) (s g : Val) : Val × Nat :=
  match valAdd s g with
  | .fin x => if dyIsZero x then (.fin ⟨0, 0⟩, 0) else (.fin (dySr p u x), 0)
  | v => (v, if valOpposite s g then 3 else 0)

/-! ## Combine, promotion and pair words (R177..R184) -/

/-- combine of R179 with the special cases of R189: hi, lo and cause. `fresh` says that the pair's words have met no combine since the
pass read them, so that a NaN among them is reported here. -/
def combineFloat (fresh : Bool) (s : Val) (hw lw : BitVec 34) : BitVec 34 × BitVec 34 × Nat :=
  let h := wideDecode hw
  let l := wideDecode lw
  let nan := wideEncode .nan
  if valIsNan s || valIsNan h || valIsNan l then (nan, 0, if fresh && (valIsNan h || valIsNan l) then 1 else 0)
  else if valOpposite s h || valOpposite s l || valOpposite h l then (nan, 0, 3)
  else
    match s, h, l with
    | .fin s, .fin h, .fin l =>
      let v := dyAdd h s
      let a := dyRne 24 v
      let t := dySub v a
      let b := dyRne 24 (dyAdd l t)
      let ab := dyAdd a b
      let hi := dyRne 24 ab
      (wideEncode (.fin hi), wideEncode (.fin (dySub ab hi)), 0)
    | _, _, _ => (wideEncode (if valIsInf s then s else if valIsInf h then h else l), 0, 0)

/-- The FP32 words of a pair entry, and PAIR_OVERFLOW (R180, R189). -/
def pairWords (hw lw : BitVec 34) : Nat × Nat × Bool :=
  let code (v : Val) : Nat := let c := (f32Encode false v).1; if c % 2 ^ 31 = 0 then 0 else c
  match wideDecode hw, wideDecode lw with
  | .fin h, .fin l =>
    let (c, ovf) := f32Encode false (.fin h)
    if ovf then (c, 0, true)
    else
      let h32 := match f32Decode c with | .fin d => d | _ => ⟨0, 0⟩
      (code (.fin h), code (.fin (dyAdd l (dySub h h32))), false)
  | h, _ => (code h, 0, false)

/-- The wide code of an FP32 pair word read from the ledge (R168, R178). -/
def pairLoad (code : Nat) : BitVec 34 := wideEncode (f32Decode code)

/-! ## One step of a pass -/

/-- An MXE event of a pass. -/
def mxeEvent (pr : Progress) (p : MxePass) (cycle : Bool) (row pos : Nat) (cause flag : Nat) : NumEvent where
  beat := pr.beat + BitVec.ofNat 48 pr.step
  slot := 1
  cycle := cycle
  row := row
  pos := pos
  stp := pr.step
  addr := pr.addr
  cause := cause
  flag := flag
  tileId := passTileId p
  gpass := p.gpass
  set := p.c
  final := p.final
  chain := p.chain
  narrow := p.narrow

/-- The products of one cell cycle for column n at step s: K indices [i0, i0+cnt) of the step. -/
def passProducts (p : MxePass) (m : MxeSt) (word : Mem) (s i0 cnt n : Nat) : List (Val × Nat) :=
  (List.range cnt).map (fun j =>
    let i := i0 + j
    if p.tile then
      let t := s / p.rows
      cellProduct (wOperand p m (tElem p m.active t i n) (32 * t + i) n) (rowOperand p word i)
    else
      let k := (if p.wcls == 1 then 16 else 32) * s + i
      cellProduct (wOperand p m (wElem p m.wHeld s i n) k n) (latchOperand p m s i))

/-- One cell cycle: every column's group sum added into the running sum of the row. -/
def passCycle (env : Env) (pr : Progress) (p : MxePass) (word : Mem) (cyc : Nat) (m : MxeSt) : MxeSt × List NumEvent :=
  let s := pr.step
  let two := p.tile && passBf p
  let row := if p.tile then s % p.rows else 0
  let cnt := if passBf p then 16 else 32
  let i0 := if two then 16 * cyc else 0
  let j := if two then 2 * s + cyc else s
  (List.range 32).foldl (fun acc n =>
    let (m, evs) := acc
    let key := 32 * row + n
    let ps := passProducts p m word s i0 cnt n
    let old := smGet 0 m.sums key
    if passInt p then
      let g := ps.foldl (fun a q => match q.1 with | .fin d => a + dyFloor 0 d | _ => a) 0
      let (v, sat) := if p.narrow then clampInt 20 (cellInt old + g) else (cellInt old + g, false)
      ({ m with sums := smSet 0 m.sums key (intCell v) },
        if sat then evs ++ [mxeEvent pr p (cyc == 1) row n 0 1] else evs)
    else
      let (g, c1) := groupSum ps
      let u := srDraw (srKey env.seed (passTileId p) (if env.seedLocal then p.lpass else p.gpass) n) j
      let (v, c2) := addFloat (if p.narrow then 10 else 24) u (wideDecode old) g
      let c := if c1 != 0 then c1 else c2
      ({ m with sums := smSet 0 m.sums key (wideEncode v) },
        if c != 0 then evs ++ [mxeEvent pr p (cyc == 1) row n c 0] else evs)) (m, [])

/-- Row r combined with its pair entries; in a lane mode the lane is then +0 (R177, R179, R183, R184). -/
def passCombine (pr : Progress) (p : MxePass) (r : Nat) (m : MxeSt) : MxeSt × List NumEvent :=
  let cyc := p.tile && passBf p
  (List.range 32).foldl (fun acc n =>
    let (m, evs) := acc
    let key := 32 * r + n
    let s := smGet 0 m.sums key
    let clear (m : MxeSt) : MxeSt := if p.narrow then { m with sums := smSet 0 m.sums key 0 } else m
    if passInt p then
      let (v, sat) := clampInt 32 (cellInt (smGet 0 m.pairHi key) + cellInt s)
      (clear { m with pairHi := smSet 0 m.pairHi key (intCell v), pairLo := smSet 0 m.pairLo key 0 },
        if sat then evs ++ [mxeEvent pr p cyc r n 0 1] else evs)
    else
      let (h, l, c) := combineFloat (!p.narrow || pr.step < 8) (wideDecode s) (smGet 0 m.pairHi key) (smGet 0 m.pairLo key)
      (clear { m with pairHi := smSet 0 m.pairHi key h, pairLo := smSet 0 m.pairLo key l },
        if c != 0 then evs ++ [mxeEvent pr p cyc r n c 0] else evs)) (m, [])

/-- Row r of the pair register copied to the result buffer (R178). -/
def passResult (r : Nat) (src : MxeSt) (m : MxeSt) : MxeSt :=
  (List.range 32).foldl (fun m n =>
    let key := 32 * r + n
    { m with resHi := smSet 0 m.resHi key (smGet 0 src.pairHi key), resLo := smSet 0 m.resLo key (smGet 0 src.pairLo key) }) m

/-- The 256 bytes of pair row r, and whether an entry overflowed FP32 (R153, R180): overflowing columns are listed. -/
def pairRowBytes (p : MxePass) (r : Nat) (m : MxeSt) : List Byte × List Nat :=
  let ws := (List.range 32).map (fun n =>
    let key := 32 * r + n
    if passInt p then ((smGet 0 m.pairHi key).toNat % 2 ^ 32, 0, false)
    else pairWords (smGet 0 m.pairHi key) (smGet 0 m.pairLo key))
  ((ws.map (fun w => leBytes w.1 4)).flatten ++ (ws.map (fun w => leBytes w.2.1 4)).flatten,
    (List.range 32).filter (fun n => (ws.getD n (0, 0, false)).2.2))

/-- A pair row's bytes read into the pair register (R153, R178). -/
def pairLoadRow (p : MxePass) (r : Nat) (bs : List Byte) (m : MxeSt) : MxeSt :=
  (List.range 32).foldl (fun m n =>
    let key := 32 * r + n
    let h := leNat ((bs.drop (4 * n)).take 4)
    let l := leNat ((bs.drop (128 + 4 * n)).take 4)
    if passInt p then { m with pairHi := smSet 0 m.pairHi key (BitVec.ofNat 34 h), pairLo := smSet 0 m.pairLo key 0 }
    else { m with pairHi := smSet 0 m.pairHi key (pairLoad h), pairLo := smSet 0 m.pairLo key (pairLoad l) }) m

/-- The weight line a weight-streaming pass reads at step s: its index from the base, and where it is held (R96, R129). -/
def weightLine (p : MxePass) (s : Nat) : Option (Nat × Nat) :=
  match p.wcls.toNat with
  | 0 | 1 => some (s, 0)
  | 2 => if s % 4 = 3 then none else some (3 * (s / 4) + s % 4, 1024 * (s % 4))
  | _ => if s % 2 = 0 then some (s / 2, 0) else none

/-- The scale line read at step s of a pass: index from the scale base, and whether its data is used; a read of the line that the read
before it brought is surplus (R133, R150, R158). -/
def scaleLine (p : MxePass) (s : Nat) : Option (Nat × Bool) :=
  let c := cadenceOf p.sc
  if c = 0 || s % c != 0 || s ≥ passSteps p then none
  else
    let used := !passWss p && fmtMx (passWFmt p)
    let line (s : Nat) : Nat := if p.tile then 32 * (s / p.rows) / scaleKL (passWScl p) else s / scaleG (passWScl p)
    if used then some (line s, s = 0 || line s != line (s - c))
    else some (0, false)

/-- Lines read at step s, in order: address, bytes, and a tag of what they feed (0 weight at a held place, 1 scale,
2 pair row or line, 3 row word, 4 shadow tile first line, 5 shadow tile second line of the K-step in progress, 6 unused). -/
def passReads (p : MxePass) (s : Nat) : List (Nat × Nat × Nat × Nat) :=
  let sc := match scaleLine p s with
    | some (i, used) => [(offAdd p.scaleBase (1024 * i), 1024, if used then 1 else 6, 0)]
    | none => []
  if p.tile then
    if s ≥ passSteps p then []
    else
      let t := s / p.rows
      let row := [(offAdd p.base (64 * s), 64, 3, 0)]
      let second (t' : Nat) : List (Nat × Nat × Nat × Nat) := [(offAdd p.tileBase (1024 * (2 * t' + 1)), 1024, 5, 1024)]
      let late := if p.wcls == 1 && s ≥ 1 && (s - 1) % p.rows = 0 && (s - 1) / p.rows + 1 < p.ksteps
        then second ((s - 1) / p.rows + 1) else []
      let first := if s % p.rows = 0 && t + 1 < p.ksteps then
          let i := match p.wcls.toNat with | 1 => 2 * (t + 1) | 3 => (t + 1) / 2 | _ => t + 1
          [(offAdd p.tileBase (1024 * i), 1024, 4, 0)]
        else []
      let pair := if p.chain && s < passPairLines p then [(offAdd p.pairBase (1024 * s), 1024, 2, 4 * s)] else []
      late ++ first ++ row ++ sc ++ pair
  else
    let w := match weightLine p s with
      | some (i, at_) => [(offAdd p.base (1024 * i), 1024, 0, at_)]
      | none => []
    let pair := if p.chain && s = 0 then [(p.pairBase, 256, 2, 0)] else []
    w ++ sc ++ pair

/-- A pass starts: running sums and pair entries zero (R152, R178). -/
def passBegin (m : MxeSt) : MxeSt := { m with sums := [], pairHi := [], pairLo := [], wHeld := [], sHeld := [] }

/-- One ledge read of a pass's step, and where its bytes go (R133, R151, R154). -/
def passRead (env : Env) (p : MxePass) (s : Nat) (acc : MxeSt × LedgeSt × List ParityHit × Mem) (r : Nat × Nat × Nat × Nat) :
    MxeSt × LedgeSt × List ParityHit × Mem :=
  let m := acc.1
  let q := ledgeRead env 1 r.1 r.2.1 acc.2.1
  let bs := q.2.1
  let at_ := r.2.2.2
  let m : MxeSt := match r.2.2.1 with
    | 0 => { m with wHeld := memWrite m.wHeld at_ bs }
    | 1 => { m with sHeld := memWrite [] 0 bs }
    | 2 => if p.tile
        then (List.range 4).foldl (fun m r => if at_ + r < p.rows then pairLoadRow p (at_ + r) ((bs.drop (256 * r)).take 256) m else m) m
        else pairLoadRow p 0 bs m
    | 4 => { m with active := if s = 0 then m.active else m.shadow, shadow := memWrite m.shadow 0 bs }
    | 5 => { m with shadow := memWrite m.shadow 1024 bs }
    | _ => m
  (m, q.1, acc.2.2.1 ++ q.2.2, if r.2.2.1 = 3 then memWrite [] 0 bs else acc.2.2.2)
/-- Rows of the pair register written as one pair line, with their overflows (R157, R180). -/
def passPairLine (env : Env) (pr : Progress) (p : MxePass) (m : MxeSt) (rows : List Nat) (addr : Nat) (l : LedgeSt) :
    LedgeSt × List NumEvent :=
  let ws := rows.map (fun r => (r, pairRowBytes p r m))
  (ledgeWrite env 1 addr (ws.flatMap (·.2.1)) l, ws.flatMap (fun w => w.2.2.map (fun n => mxeEvent pr p false w.1 n 0 3)))
/-- The pair line that a step writes (R98, R157, R180). -/
def passPairs (env : Env) (pr : Progress) (p : MxePass) (ok : Bool) (m : MxeSt) (l : LedgeSt) : LedgeSt × List NumEvent :=
  if !p.final && ok then
    if p.tile then
      if pr.step ≥ passSteps p then
        let j := pr.step - passSteps p
        passPairLine env pr p m (((List.range 4).map (4 * j + ·)).filter (· < p.rows)) (offAdd p.pairBase (1024 * j)) l
      else (l, [])
    else if pr.step + 1 = passSteps p then passPairLine env pr p m [0] p.pairBase l
    else (l, [])
  else (l, [])

/-- Step s of a pass. The last argument says whether every read so far has passed, this step's aside; the answer adds the
failures this step met. Writes of the commit are made only when all reads passed (R161). -/
def passStep (env : Env) (pr : Progress) (p : MxePass) (okBefore : Bool) (m : MxeSt) (l : LedgeSt) :
    MxeSt × LedgeSt × List NumEvent × List ParityHit :=
  let s := pr.step
  let m := if s = 0 then passBegin m else m
  -- the reads of the step; a second tile line of the K-step that starts now is taken before it becomes active
  let acc := (passReads p s).foldl (passRead env p s) (m, l, [], [])
  let m := acc.1
  let hits := acc.2.2.1
  let word := acc.2.2.2
  -- the last K-step's tile becomes active at its first step, with no further tile to read (R154)
  let m := if p.tile && s ≥ 1 && s < passSteps p && s % p.rows = 0 && s / p.rows + 1 = p.ksteps then { m with active := m.shadow } else m
  let ok := okBefore && hits.isEmpty
  let commit := s + 1 = passSteps p
  -- additions
  let add1 := if s < passSteps p then passCycle env pr p word 0 m else (m, [])
  let add2 := if s < passSteps p && p.tile && passBf p then passCycle env pr p word 1 add1.1 else (add1.1, [])
  let m := add2.1
  -- promotions and combines
  let rows := List.range p.rows
  let promote := p.narrow && s < passSteps p && (s % 8 = 7 || commit)
  let due := if p.narrow then (if promote then rows else [])
    else if p.tile && p.final then rows.filter (fun r => s = (p.ksteps - 1) * p.rows + r)
    else if commit then rows else []
  let comb := due.foldl (fun acc r => let q := passCombine pr p r acc.1; (q.1, acc.2 ++ q.2)) (m, [])
  let m := comb.1
  -- result rows (R98, R156): in a narrow pass an early row is written as its promotion will leave it
  let m := if p.final && s < passSteps p && (ok || !commit) then
      if p.tile then
        let r := s - (p.ksteps - 1) * p.rows
        let m := if s ≥ (p.ksteps - 1) * p.rows then passResult r (if p.narrow && !promote then (passCombine pr p r m).1 else m) m else m
        if commit && p.narrow then rows.foldl (fun m r => passResult r m m) m else m
      else if commit then passResult 0 m m else m
    else m
  let pair := passPairs env pr p ok m acc.2.1
  -- each step of an MWSP consumes 32 bytes of the latch (R98)
  let m := if p.tile then m else { m with cursor := BitVec.ofNat 14 ((p.cursor + 32 * (s + 1)) % 16384) }
  let m := if commit && ok then { m with passCount := m.passCount + 1 } else m
  -- at most one cause per row and position (R230)
  let causes := (add1.2 ++ add2.2 ++ comb.2).filter (fun e => e.cause != 0)
  let causes := causes.foldl (fun acc e => if acc.any (fun f => f.row == e.row && f.pos == e.pos) then acc else acc ++ [e]) []
  (m, pair.1, causes ++ (add1.2 ++ add2.2 ++ comb.2 ++ pair.2).filter (fun e => e.cause == 0), hits)

/-! ## The operations step by step -/

/-- Steps an operation occupies the engine (R98). -/
def mxeLen : MxeRun → Nat
  | .mcfg _ _ => 1
  | .malat n _ _ => n
  | .mtld n _ => n
  | .pass p => passLen p
/-- The step at which an operation commits (R161, R496). -/
def mxeCommitStep : MxeRun → Nat
  | .mcfg _ _ => 0
  | .malat n _ _ => n - 1
  | .mtld n _ => n - 1
  | .pass p => passSteps p - 1

/-- One step of an MXE operation, when it is not predicated off. -/
def mxeStepOn (env : Env) (pr : Progress) (r : MxeRun) (okBefore : Bool) (m : MxeSt) (l : LedgeSt) :
    MxeSt × LedgeSt × List NumEvent × List ParityHit :=
  match r with
  | .mcfg c base =>
    let q := ledgeRead env 1 base 1024 l
    (if okBefore && q.2.2.isEmpty then { m with cfg := memWrite m.cfg (96 * c.toNat) (q.2.1.take 96), passIdx := m.passIdx.set c.toNat 0 }
      else m, q.1, [], q.2.2)
  | .malat n s base =>
    let q := ledgeRead env 1 (offAdd base (1024 * pr.step)) 1024 l
    let held := memWrite (if pr.step = 0 then [] else m.wHeld) (1024 * pr.step) q.2.1
    (if pr.step + 1 = n && okBefore && q.2.2.isEmpty then
        { m with latch := memWrite m.latch (1024 * s) (memRead held 0 (1024 * n)), wHeld := [] }
      else { m with wHeld := held }, q.1, [], q.2.2)
  | .mtld n base =>
    let q := ledgeRead env 1 (offAdd base (1024 * pr.step)) 1024 l
    let held := memWrite (if pr.step = 0 then [] else m.wHeld) (1024 * pr.step) q.2.1
    (if pr.step + 1 = n && okBefore && q.2.2.isEmpty then
        { m with shadow := memWrite m.shadow 0 (memRead held 0 (1024 * n)), shadowValid := true, wHeld := [] }
      else { m with wHeld := held }, q.1, [], q.2.2)
  | .pass p => passStep env pr p okBefore m l

/-- The ledge reads of a step of an MXE operation, in order: address and bytes (R98). -/
def mxeReads (r : MxeRun) (step : Nat) : List (Nat × Nat) :=
  match r with
  | .mcfg _ base => [(base, 1024)]
  | .malat _ _ base => [(offAdd base (1024 * step), 1024)]
  | .mtld _ base => [(offAdd base (1024 * step), 1024)]
  | .pass p => (passReads p step).map (fun q => (q.1, q.2.1))
/-- One step of an MXE operation: predicated off, only its ledge reads take place (R75, R92). -/
def mxeStep (env : Env) (pr : Progress) (r : MxeRun) (okBefore : Bool) (m : MxeSt) (l : LedgeSt) :
    MxeSt × LedgeSt × List NumEvent × List ParityHit :=
  if pr.off then
    let acc := (mxeReads r pr.step).foldl (fun acc r => let q := ledgeRead env 1 r.1 r.2 acc.1; (q.1, acc.2 ++ q.2.2)) (l, [])
    (m, acc.1, [], acc.2)
  else mxeStepOn env pr r okBefore m l

/-! ## Issue (R101, R143..R145, R160) -/

/-- The pass an MWSP would be, from the set as it stands and the operands latched at issue. -/
def mwspPass (ofs : Vector OfReg 32) (m : MxeSt) (a : MwspArgs) (x : BitVec 23) : MxePass :=
  let w1 := mxeCfgWord m a.c 1
  let w2 := mxeCfgWord m a.c 2
  let lp := m.passIdx.get a.c.toFin
  { tile := false, c := a.c, wcls := a.wcls, sc := a.sc, final := a.final, chain := a.chain, rows := 1,
    ksteps := a.p1.toNat + 1, w0 := mxeCfgWord m a.c 0, w1 := w1, w2 := w2,
    base := refAddr (ofs.get a.base.toFin) (x ++ a.d).toNat 1024 1024,
    scaleBase := refAddr (ofs.get (bitsAt w1 0 5).toFin) (fieldOf w1 8 12) 1024 1024,
    tileBase := refAddr (ofs.get (bitsAt w1 20 5).toFin) (fieldOf w1 28 12) 1024 1024,
    pairBase := refAddr (ofs.get (bitsAt w1 40 5).toFin) (fieldOf w1 48 12) 256 256,
    cursor := m.cursor.toNat, gpass := bitsAt w2 0 24 + lp, lpass := lp,
    narrow := (mxeCfgWord m a.c 0).getLsbD 25 || m.laneValid, tile0 := [] }

/-- The pass an MTP would be. -/
def mtpPass (ofs : Vector OfReg 32) (m : MxeSt) (a : MtpArgs) : MxePass :=
  let w1 := mxeCfgWord m a.c 1
  let w2 := mxeCfgWord m a.c 2
  let lp := m.passIdx.get a.c.toFin
  { tile := true, c := a.c, wcls := a.wcls, sc := a.sc, final := a.final, chain := a.chain, rows := a.m1.toNat + 1,
    ksteps := a.t1.toNat + 1, w0 := mxeCfgWord m a.c 0, w1 := w1, w2 := w2,
    base := refAddr (ofs.get a.base.toFin) 0 64 64,
    scaleBase := refAddr (ofs.get (bitsAt w1 0 5).toFin) (fieldOf w1 8 12) 1024 1024,
    tileBase := refAddr (ofs.get (bitsAt w1 20 5).toFin) (fieldOf w1 28 12) 1024 1024,
    pairBase := refAddr (ofs.get (bitsAt w1 40 5).toFin) (fieldOf w1 48 12) 256 1024,
    cursor := m.cursor.toNat, gpass := bitsAt w2 0 24 + lp, lpass := lp,
    narrow := (mxeCfgWord m a.c 0).getLsbD 25 || m.laneValid,
    tile0 := if m.shadowValid then m.shadow else m.active }

/-- A failed configuration check recorded (R160): the first since START, or MULTIPLE. -/
def cfgFailNote (code : Nat) (set : BitVec 2) (opcode : BitVec 6) (f : CfgFail) : CfgFail :=
  if f.code == 0 then ⟨BitVec.ofNat 4 code, set, opcode, false⟩ else { f with multiple := true }

/-- A pass takes its indices at issue, and the shadow tile becomes active (R145, R154). DESIGN CHOICE (log entry 108): the shadow tile is
copied and keeps its own bytes. -/
def passIssue (p : MxePass) (m : MxeSt) : MxeSt :=
  let m := { m with passIdx := m.passIdx.set p.c.toNat (p.lpass + 1) }
  if p.tile then { m with active := p.tile0, shadowValid := false } else m

/-- The number of weight lines a weight-streaming pass reads (R96), by which WINC increments its offset register. -/
def passWeightLines (wcls : BitVec 2) (n : Nat) : Nat :=
  match wcls.toNat with
  | 0 | 1 => n
  | 2 => n - n / 4
  | _ => (n + 1) / 2

end Sys2Proof.Machine
end

