-- ==== Sys2Proof/Machine/OutputStage.lean ====
section
/-! DEFINITION. The output stage (chapter 07): configuration sets and check, the fused sequence, conversions, MX blocks,
row images. -/
namespace Sys2Proof.Machine

/-! ## Configuration (R195) -/

/-- A bit field of bytes 0..7 of a latched set. -/
def ostField (set : Mem) (lo n : Nat) : Nat := leNat (memRead set 0 8) / 2 ^ lo % 2 ^ n
/-- Source and destination format, scaling field, activation code. -/
def ostSFmt (set : Mem) : Nat := ostField set 0 4
def ostDFmt (set : Mem) : Nat := ostField set 4 4
def ostDScl (set : Mem) : Nat := ostField set 8 4
def ostFtz (set : Mem) : Bool := ostField set 12 1 == 1
def ostSat (set : Mem) : Bool := ostField set 13 1 == 1
def ostClipEn (set : Mem) : Bool := ostField set 14 1 == 1
def ostDense (set : Mem) : Bool := ostField set 15 1 == 1
def ostAct (set : Mem) : Nat := ostField set 16 4
def ostScaleEn (set : Mem) : Bool := ostField set 20 1 == 1
def ostBiasEn (set : Mem) : Bool := ostField set 21 1 == 1
def ostPitch (set : Mem) : Nat := 64 * ostField set 32 10
def ostSoff (set : Mem) : Nat := ostField set 48 10
def ostClipLo (set : Mem) : Val := f32Decode (leNat (memRead set 8 4))
def ostClipHi (set : Mem) : Val := f32Decode (leNat (memRead set 12 4))

/-- Positions of a row (R193). -/
def ostPositions (src : Bool) (set : Mem) : Nat := if src then (if ostSFmt set = 1 then 64 else 128) else 32

/-- a > b among classified values, infinities included; false for NaN. -/
def valGt : Val → Val → Bool
  | .nan, _ => false
  | _, .nan => false
  | .inf true, _ => false
  | _, .inf false => false
  | .inf false, _ => true
  | _, .inf true => true
  | .fin a, .fin b => dyLt b a

/-- Bytes of the elements of n positions, and of their scales, in the DENSE layout (R204). -/
def ostDenseElems (set : Mem) (n : Nat) : Nat := n * fmtBits (ostDFmt set) / 8
def ostDenseScales (set : Mem) (n : Nat) : Nat := if sclDir (ostDScl set) then n else n / sclBlock (ostDScl set)

/-- The configuration check: the code of the first test that fails, 0 when none does (R206). -/
def ostCheck (mx6 : Bool) (src : Bool) (rows : Nat) (set : Mem) : Nat :=
  let s := ostSFmt set
  let d := ostDFmt set
  let b := sclBlock (ostDScl set)
  let n := ostPositions src set
  if (memRead set 0 16).all (· == 0) then 1
  else if ostField set 22 10 != 0 || ostField set 42 6 != 0 || ostField set 58 6 != 0 then 2
  else if (if src then !(s = 1 || s = 2) else !(s = 1 || s = 3)) then 3
  else if d = 0 || d ≥ 10 || (fmtMx6 d && !mx6) then 4
  else if fmtMx d && (b = 0 || (if sclDir (ostDScl set) then b > 32 || rows % b != 0 else b > n)) then 5
  else if ostClipEn set && (valIsNan (ostClipLo set) || valIsNan (ostClipHi set) || valGt (ostClipLo set) (ostClipHi set)) then 6
  else if ostAct set ≥ 6 then 7
  else if fmtMx d && ostDense set && (ostSoff set < ostDenseElems set n || ostSoff set + ostDenseScales set n > 1024) then 8
  else 0

/-! ## Sources (R193, R549) -/

/-- The value at position p of row r: the result buffer's cells under S_FMT, or a vector register's lane. -/
def ostSource (src : Bool) (set : Mem) (m : MxeSt) (vregs : Mem) (r p : Nat) : Val :=
  if src then
    if ostSFmt set = 1 then f32Decode (leNat (memRead vregs (256 * r + 4 * p) 4))
    else bf16Decode (leNat (memRead vregs (256 * r + 2 * p) 2))
  else
    let h := smGet 0 m.resHi (32 * r + p)
    if ostSFmt set = 3 then .fin ⟨cellInt h, 0⟩
    else valAdd (wideDecode h) (wideDecode (smGet 0 m.resLo (32 * r + p)))

/-! ## The fused sequence (R196..R198, R207) -/

/-- Step 1 and its cause (R196, R207). -/
def ostStep1 (x s b : Val) : Val × Nat :=
  if valIsNan x then (.nan, 0)
  else if valIsNan s || valIsNan b then (.nan, 1)
  else
    let xs : Val × Bool := match x, s with
      | .fin a, .fin c => (.fin (dyMul a c), false)
      | .inf n, .inf k => (.inf (n != k), false)
      | .inf n, .fin c => if dyIsZero c then (.nan, true) else (.inf (n != dyNegative c), false)
      | .fin a, .inf n => if dyIsZero a then (.nan, true) else (.inf (n != dyNegative a), false)
      | _, _ => (.nan, false)
    if xs.2 then (.nan, 2)
    else if valOpposite xs.1 b then (.nan, 3)
    else (valRne 24 (valAdd xs.1 b), 0)

/-- Step 2 (R197). -/
def ostClip (set : Mem) (y : Val) : Val :=
  if !ostClipEn set || valIsNan y then y
  else
    let y := if valGt (ostClipLo set) y then ostClipLo set else y
    if valGt y (ostClipHi set) then ostClipHi set else y

/-- The function that an approximated activation names (R198), to 60 significant bits, between its exact ranges. -/
def activationExact (act : Nat) (a : Dy) : Dy :=
  let fx (d : Dy) : Int := dyRound (-128) d
  match act with
  | 2 =>
    -- 0.5y(1 + tanh(z)) is y/(1 + e^(-2z))
    let z := (fx a + fx (dyMul a (dyMul a a)) * 44715 / 1000000) * 79788456 / 100000000
    dyMul a (dySigmoid (2 * z))
  | 3 => dyMul a (dySigmoid (fx a))
  | 4 => dySigmoid (fx a)
  | _ => dySub (dyMul ⟨2, 0⟩ (dySigmoid (2 * fx a))) ⟨1, 0⟩
/-- The silicon's value where it keeps the error bound of R198, and the function's where it would not. -/
def activationNear (act : Nat) (a : Dy) : Dy :=
  let exact := activationExact act a
  let c := Config.activation (BitVec.ofNat 4 act) (wideEncode (.fin a))
  let bound : Dy := if act ≤ 3 then dyMul ⟨1, -16⟩ (if dyLt ⟨1, 0⟩ (dyAbs a) then dyAbs a else ⟨1, 0⟩) else ⟨1, -20⟩
  if dyLe (dyAbs (dySub c exact)) bound then c else exact
/-- Step 3 (R198): the exact ranges and infinities as the spec states them; elsewhere the silicon's approximation. -/
def ostActivate (act : Nat) (y : Val) : Val :=
  let big (k : Nat) (a : Dy) : Bool := dyLe ⟨k, 0⟩ a
  let small (k : Nat) (a : Dy) : Bool := dyLe a ⟨-k, 0⟩
  let approx (a : Dy) : Val := .fin (dyRne 24 (activationNear act a))
  match y with
  | .nan => .nan
  | .inf n =>
    match act with
    | 0 => .inf n
    | 4 => if n then .fin ⟨0, 0⟩ else .fin ⟨1, 0⟩
    | 5 => if n then .fin ⟨-1, 0⟩ else .fin ⟨1, 0⟩
    | _ => if n then .fin ⟨0, 0⟩ else .inf false
  | .fin a =>
    match act with
    | 0 => .fin a
    | 1 => if dyNegative a then .fin ⟨0, 0⟩ else .fin a
    | 2 => if big 8 a then .fin a else if small 8 a then .fin ⟨0, 0⟩ else approx a
    | 3 => if big 32 a then .fin a else if small 32 a then .fin ⟨0, 0⟩ else approx a
    | 4 => if big 32 a then .fin ⟨1, 0⟩ else if small 32 a then .fin ⟨0, 0⟩ else approx a
    | _ => if big 16 a then .fin ⟨1, 0⟩ else if small 16 a then .fin ⟨-1, 0⟩ else approx a

/-- y2 at a position, and the cause of step 1. -/
def ostFused (set : Mem) (x : Val) (p : Nat) : Val × Nat :=
  let prm (base : Nat) : Val := f32Decode (leNat (memRead set (base + 4 * (p % 64)) 4))
  let s := if ostScaleEn set then prm 64 else .fin ⟨1, 0⟩
  let b := if ostBiasEn set then prm 320 else .fin ⟨0, 0⟩
  let (y0, c) := ostStep1 x s b
  (ostActivate (ostAct set) (ostClip set y0), c)

/-! ## Conversion to FP32, bfloat16, INT8 (R200) -/

/-- The code of a value in a non-MX destination, and the flags it sets (codes of NumEvent.flag). -/
def ostConvert (set : Mem) (v : Val) : Nat × List Nat :=
  let d := ostDFmt set
  if d = 3 then
    match v with
    | .nan => (0, [])
    | .inf n => (if n then 0x80 else 0x7F, [1])
    | .fin a =>
      let (k, sat) := clampInt 8 (dyRound 0 a)
      ((BitVec.ofInt 8 k).toNat, if sat then [1] else [])
  else
    let mb := if d = 1 then 23 else 7
    let maxc (n : Bool) : Nat := (if n then 2 ^ (mb + 8) else 0) + 255 * 2 ^ mb - 1
    match v with
    | .fin a =>
      if ostFtz set && !dyIsZero a && dyLog2 a < -126 then ((if dyNegative a then 2 ^ (mb + 8) else 0), [2])
      else
        let (c, ovf) := ieeeEncode mb (dyNegative a) v
        if ovf then (if ostSat set then (maxc (dyNegative a), [1]) else (c, [4])) else (c, [])
    | _ => ((ieeeEncode mb false v).1, [])

/-! ## MX blocks (R202, R203) -/

/-- emax of a destination format (R203). -/
def mxEmax (d : Nat) : Int := match d with | 4 => 0 | 5 => 8 | 6 => 15 | 7 => 4 | _ => 2
/-- Largest finite element magnitude (R114, R203). -/
def mxMax (d : Nat) : Dy :=
  match d with
  | 4 => ⟨127, -6⟩ | 5 => ⟨448, 0⟩ | 6 => ⟨57344, 0⟩ | 7 => ⟨28, 0⟩ | 8 => ⟨15, -1⟩ | _ => ⟨6, 0⟩
/-- Log2 of the smallest normal element (R114). -/
def mxMinNormal (d : Nat) : Int := let (_, _, bias) := mxShape d; 1 - bias

/-- An element of v on the format's grid, clamped, without flags (R202 step 5, R287 step 3). DESIGN CHOICE (log
entry 111): a negative value that rounds to zero keeps its sign. -/
def mxElement (d : Nat) (v : Dy) : Nat :=
  if d = 4 then
    let k := dyRound (-6) v
    let k := if k > 127 then 127 else if k < -127 then -127 else k
    (BitVec.ofInt 8 k).toNat
  else
    let (eb, mb, bias) := mxShape d
    let neg := dyNegative v
    let sg := if neg then 2 ^ (eb + mb) else 0
    if dyIsZero v then 0
    else
      let mn := 1 - bias
      let q := max (dyLog2 v) mn - mb
      let k := (dyRound q v).natAbs
      let mag : Dy := ⟨k, q⟩
      let mag := if dyLt (mxMax d) mag then mxMax d else mag
      let l := dyLog2 mag
      if dyIsZero mag then sg
      else if l < mn then sg + (dyFloor (mn - mb) mag).toNat
      else sg + (l + bias).toNat * 2 ^ mb + ((dyFloor (l - mb) mag).toNat - 2 ^ mb)

/-- A block's scale byte and element codes; the flags and causes as (index in the block, flag, cause). -/
def mxBlock (set : Mem) (vs : List Val) : Nat × List Nat × List (Nat × Nat × Nat) :=
  let d := ostDFmt set
  let nanBlock := (0xFF, vs.map (fun _ => 0))
  if vs.any valIsNan then (nanBlock.1, nanBlock.2, [])
  else
    let firstInf := vs.findIdx? valIsInf
    if firstInf.isSome && !ostSat set then (nanBlock.1, nanBlock.2, [(firstInf.getD 0, 0, 6)])
    else
      -- SAT = 1: an infinity stands for the largest finite value under scale 0xFE (R202 step 2)
      let infs := (List.range vs.length).filter (fun i => valIsInf (vs.getD i .nan))
      let fl1 := infs.map (fun i => (i, 1, 0))
      let ds := vs.map (fun v => match v with
        | .fin a => a
        | .inf n => let m := dyMul (mxMax d) (dyPow2 127); if n then dyNeg m else m
        | .nan => ⟨0, 0⟩)
      let amaxI := (List.range ds.length).foldl (fun (b : Nat) i => if dyLt (dyAbs (ds.getD b ⟨0, 0⟩)) (dyAbs (ds.getD i ⟨0, 0⟩)) then i else b) 0
      let amax := dyAbs (ds.getD amaxI ⟨0, 0⟩)
      if dyIsZero amax then (0x7F, vs.map (fun _ => 0), fl1)
      else
        let e := dyLog2 amax - mxEmax d + 127
        if e > 254 && !ostSat set then (nanBlock.1, nanBlock.2, fl1 ++ [(amaxI, 4, 0), (amaxI, 0, 6)])
        else
          let fl2 := if e > 254 then [(amaxI, 1, 0)] else []
          let e := if e > 254 then 254 else if e < 0 then 0 else e
          let codes := ds.map (fun a =>
            let v : Dy := ⟨a.m, a.e - (e - 127)⟩
            if d != 4 && ostFtz set && !dyIsZero v && dyLog2 v < mxMinNormal d
              then ((if dyNegative v then 2 ^ (fmtBits d - 1) else 0), true) else (mxElement d v, false))
          let fl3 := (List.range codes.length).filterMap (fun i => if (codes.getD i (0, false)).2 then some (i, 2, 0) else none)
          (e.toNat, codes.map (·.1), fl1 ++ fl2 ++ fl3)

/-! ## Row images (R204, R205) -/

/-- Codes of w bits packed little-endian from byte 0 (R128). -/
def packCodes (w : Nat) (codes : List Nat) : List Byte :=
  let total := codes.foldr (fun c a => c % 2 ^ w + 2 ^ w * a) 0
  leBytes total ((codes.length * w + 7) / 8)

/-- The image of one row as (offset, byte) pairs, from element codes and the scale byte of each position. -/
def rowImage (set : Mem) (codes scales : List Nat) : List (Nat × Byte) :=
  let d := ostDFmt set
  let n := codes.length
  let enum (base : Nat) (bs : List Byte) : List (Nat × Byte) := (List.range bs.length).map (fun i => (base + i, bs.getD i 0))
  if !fmtMx d then enum 0 (packCodes (fmtBits d) codes)
  else
    let scl := ostDScl set
    let b := sclBlock scl
    let sb (i : Nat) : Byte := BitVec.ofNat 8 (scales.getD i 0)
    if ostDense set then
      enum 0 (packCodes (fmtBits d) codes) ++
        (if sclDir scl then (List.range n).map (fun p => (ostSoff set + p, sb p))
        else (List.range (n / b)).map (fun j => (ostSoff set + j, sb (j * b))))
    else
      (List.range (n / 32)).flatMap (fun w =>
        let els := packCodes (fmtBits d) ((codes.drop (32 * w)).take 32)
        let els := els ++ List.replicate (32 - els.length) 0
        let sc : List Byte := if sclDir scl then (List.range 32).map (fun j => sb (32 * w + j))
          else if b ≤ 32 then (List.range (32 / b)).map (fun j => sb (32 * w + j * b)) else [sb (32 * w)]
        enum (64 * w) (els ++ sc ++ List.replicate (32 - sc.length) 0))

/-! ## Issue and steps -/

/-- The configuration set c as a latch of its 1,024 bytes. -/
def ostLatch (o : OstSt) (c : BitVec 2) : Mem := memWrite [] 0 (memRead o.cfg (1024 * c.toNat) 1024)

/-- An OST event. -/
def ostEvent (pr : Progress) (pos cause flag : Nat) : NumEvent where
  beat := pr.beat + BitVec.ofNat 48 pr.step
  slot := 3
  cycle := false
  row := 0
  pos := pos
  stp := pr.step
  addr := pr.addr
  cause := cause
  flag := flag
  tileId := 0
  gpass := 0
  set := 0
  final := false
  chain := false
  narrow := false

/-- The block conversion of DIR = 1 at one position: scale, code and outcomes of row i of the block (R201, R548). -/
def ostColumnBlock (set : Mem) (vals : List (List Val)) (i p : Nat) : Nat × Nat × List (Nat × Nat) :=
  let (sc, codes, outs) := mxBlock set (vals.map (fun r => (ostFused set (r.getD p .nan) p).1))
  (sc, codes.getD i 0, outs.filterMap (fun o => if o.1 = i then some (o.2.1, o.2.2) else none))

/-- Step i of an OCVT: the engine with its held rows, the ledge, and the events. -/
def ostStep (env : Env) (pr : Progress) (r : OstRun) (m : MxeSt) (vregs : Mem) (o : OstSt) (l : LedgeSt) :
    OstSt × OstRun × LedgeSt × List NumEvent :=
  if pr.off then (o, r, l, [])
  else
    let set := r.set
    let i := pr.step
    let n := ostPositions r.src set
    let d := ostDFmt set
    let rowVals (k : Nat) : List Val := (List.range n).map (fun p => ostSource r.src set m vregs (r.r0 + k) p)
    let dir1 := fmtMx d && sclDir (ostDScl set)
    let b := sclBlock (ostDScl set)
    let held := if dir1 && i % b = 0 then (List.range b).map (fun k => rowVals (i + k)) else r.held
    let vals := if dir1 then held.getD (i % b) [] else rowVals i
    let fused := (List.range n).map (fun p => ostFused set (vals.getD p .nan) p)
    let ev1 := (List.range n).filterMap (fun p =>
      let c := (fused.getD p (.nan, 0)).2
      if c != 0 then some (ostEvent pr p c 0) else none)
    let (codes, scales, outs) : List Nat × List Nat × List (Nat × Nat × Nat) :=
      if !fmtMx d then
        let cs := fused.map (fun f => ostConvert set f.1)
        (cs.map (·.1), [], (List.range n).flatMap (fun p => (cs.getD p (0, [])).2.map (fun f => (p, f, 0))))
      else if dir1 then
        let cs := (List.range n).map (fun p => ostColumnBlock set held (i % b) p)
        (cs.map (·.2.1), cs.map (·.1), (List.range n).flatMap (fun p => (cs.getD p (0, 0, [])).2.2.map (fun f => (p, f.1, f.2))))
      else
        let blocks := (List.range (n / b)).map (fun j => mxBlock set (((fused.map (·.1)).drop (j * b)).take b))
        (blocks.flatMap (·.2.1), blocks.flatMap (fun k => List.replicate b k.1),
          (List.range (n / b)).flatMap (fun j => (blocks.getD j (0, [], [])).2.2.map (fun f => (j * b + f.1, f.2.1, f.2.2))))
    let ev2 := outs.map (fun f => ostEvent pr f.1 f.2.2 f.2.1)
    -- at most one cause per position (R230): step 1's stands before step 4's
    let ev2 := ev2.filter (fun e => e.cause == 0 || !ev1.any (fun f => f.pos == e.pos))
    let a := offAdd r.base (i * ostPitch set) / 64 * 64
    let line := a / 1024 * 1024
    let img := (rowImage set codes scales).map (fun e => (line + (a + e.1) % 1024, e.2))
    let bytes : Mem := img.foldl (fun mm e => memSet mm e.1 e.2) []
    let l := ledgeWriteMask env 3 bytes (img.map (·.1)) l
    ({ o with rowCount := o.rowCount + 1 }, { r with held := held }, l, ev1 ++ ev2)

end Sys2Proof.Machine
end

