-- ==== Sys2Proof/Machine/Chunks.lean ====
section
/-! DEFINITION. What a descriptor says (chapter 11): address classes (R276), COPY and REPACK fields and checks (R278..R286),
the requests a chunk's source and destination bytes form (R282, R283), and the conversion of a REPACK (R285, R287). -/
namespace Sys2Proof.Machine

/-! ## Addresses (R276) -/

/-- One unit of service: a 256-byte block of module memory by its VA, or a ledge line of a core (R282). Die 0xF is this die. -/
inductive XUnit where
  | mem (block : Nat)
  | led (die lclus lcore line : Nat)
  deriving DecidableEq, Repr

/-- The class of an address: its unit, and the place in the unit; none for BAD_ADDR. -/
def addrUnit (a : Nat) : Option (XUnit × Nat) :=
  let sp := a / 2 ^ 60 % 16
  if sp = 0 then
    if a / 2 ^ 48 % 2 ^ 12 = 0 then some (.mem (a % 2 ^ 48 / 256), a % 256) else none
  else if sp = 1 then
    let die := a / 2 ^ 48 % 16
    if die < 8 || die = 15 then
      some (.led die (a / 2 ^ 40 % 64) (a / 2 ^ 32 % 128) (a % 2 ^ 19 / 1024), a % 1024)
    else none
  else none
/-- Bytes of a unit. -/
def unitSize : XUnit → Nat
  | .mem _ => 256
  | .led _ _ _ _ => 1024

/-! ## Descriptors (R278, R280, R284) -/

/-- Field [lo+n-1:lo] of a 512-bit descriptor. -/
def descField (d : List Byte) (lo n : Nat) : Nat := leNat d / 2 ^ lo % 2 ^ n
/-- A signed field. -/
def descSigned (d : List Byte) (lo n : Nat) : Int := (BitVec.ofNat n (descField d lo n)).toInt
/-- KIND. -/
def descKind (d : List Byte) : Nat := descField d 0 4
/-- SIG_TO, CAIRN, DL, SRC and DST, of a COPY and of a REPACK alike. -/
def descSigTo (d : List Byte) : Nat := descField d 36 2
def descCairn (d : List Byte) : BitVec 6 := BitVec.ofNat 6 (descField d 38 6)
def descDl (d : List Byte) : Nat := descField d 48 16
def descSrc (d : List Byte) : Nat := descField d 64 64
def descDst (d : List Byte) : Nat := descField d 128 64
/-- CACHE. -/
def descCache (d : List Byte) : Bool := descField d 10 1 == 1
/-- LINK's target. -/
def descLink (d : List Byte) : Nat := descField d 64 19 / 64 * 64

/-- Dimensions and element size of a COPY. -/
def copyDims (d : List Byte) : Nat := descField d 4 3 + 1
def copyElem (d : List Byte) : Nat := if descField d 7 3 = 7 then 1024 else 2 ^ descField d 7 3
/-- SRC_SHAPE as it acts (R283): ROW without transposition is 0. -/
def copyShape (d : List Byte) : BitVec 4 := BitVec.ofNat 4 (descField d 12 4)
def copyStride (d : List Byte) : BitVec 13 := BitVec.ofNat 13 (descField d 16 13)
/-- Chunk size in bytes. -/
def copyChunk (d : List Byte) : Nat := (descField d 30 6 + 1) * 1024
/-- C_i, 1 for a dimension that is not used. -/
def copyCount (d : List Byte) (i : Nat) : Nat := if i < copyDims d then descField d (192 + 16 * i) 16 + 1 else 1
/-- All elements of a COPY. -/
def copyTotal (d : List Byte) : Nat := (List.range 5).foldl (fun p i => p * copyCount d i) 1
/-- The index vector of linear element e (R281). -/
def copyIndex (d : List Byte) (e : Nat) : List Nat :=
  ((List.range 5).foldl (fun (acc : List Nat × Nat) i => (acc.1 ++ [acc.2 % copyCount d i], acc.2 / copyCount d i)) ([], e)).1
/-- src(i) and dst(i) of linear element e: base + E·Σ i_d·stride_d modulo 2^64. -/
def copyAddr (d : List Byte) (dst : Bool) (e : Nat) : Nat :=
  let ix := copyIndex d e
  let off := (List.range 5).foldl (fun (a : Int) i =>
    if i < copyDims d then a + (ix.getD i 0 : Int) * descSigned d ((if dst then 296 else 272) + 48 * i) 24 else a) 0
  (((if dst then descDst d else descSrc d : Nat) : Int) + copyElem d * off).emod (2 ^ 64) |>.toNat

/-- Fields of a REPACK. -/
def repFmt (d : List Byte) : Nat := descField d 4 4
def repScl (d : List Byte) (dst : Bool) : Nat := if dst then descField d 16 4 else descField d 12 4
def repLay (d : List Byte) (dst : Bool) : Nat := if dst then descField d 23 3 else descField d 20 3
def repBase (d : List Byte) (dst : Bool) : Nat := if dst then descDst d else descSrc d
def repScale (d : List Byte) (dst : Bool) : Nat := if dst then descField d 256 64 else descField d 192 64
def repN (d : List Byte) : Nat := descField d 320 16 + 1
def repK (d : List Byte) : Nat := descField d 336 20 + 1
/-- Element width. -/
def repW (d : List Byte) : Nat := fmtBits (repFmt d)

/-! ## Layouts (R285) -/

/-- The parts of one side that hold elements, as (offset from the element address, bytes), in address order. -/
def repElemRuns (d : List Byte) (dst : Bool) : List (Nat × Nat) :=
  let n := repN d
  let k := repK d
  match repLay d dst with
  | 2 => (List.range (n / 32 * (k / 32))).map (fun i => (1024 * i, 768))
  | 3 => [(0, 64 * (k / 32) * n)]
  | _ => [(0, n * k * repW d / 8)]
/-- The parts that hold scales, as (offset from the scale address, bytes). -/
def repScaleRuns (d : List Byte) (dst : Bool) : List (Nat × Nat) :=
  let n := repN d
  let k := repK d
  let scl := repScl d dst
  let b := sclBlock scl
  match repLay d dst with
  | 3 => []
  | 4 => [(0, k / b)]
  | 0 => [(0, n * k / b)]
  | _ =>
    let kl := scaleKL scl
    let used := if sclDir scl then k * (if b = 8 then 4 else if b = 16 then 2 else 1) else 32 * (k / b)
    (List.range (n / 32)).map (fun t => (1024 * ((k + kl - 1) / kl) * t, used))
/-- Bit place of element (n, k) from the element address. -/
def repElemBit (d : List Byte) (dst : Bool) (n k : Nat) : Nat :=
  let w := repW d
  match repLay d dst with
  | 0 => (n * repK d + k) * w
  | 1 =>
    let base := 8 * (n / 32 * (4 * w * repK d))
    let c := n % 32
    if w = 8 then base + 8 * (1024 * (k / 32) + 32 * c + k % 32)
    else if w = 4 then base + 8 * (1024 * (k / 64) + 32 * c + 16 * (k / 32 % 2)) + 4 * (k % 32)
    else base + 8 * (3072 * (k / 128) + 24 * (32 * (k / 32 % 4) + c)) + 6 * (k % 32)
  | 2 => 8 * (1024 * (n / 32 * (repK d / 32) + k / 32) + 24 * (n % 32)) + 6 * (k % 32)
  | 3 => 8 * (64 * (k / 32 * repN d + n)) + w * (k % 32)
  | _ => 8 * k
/-- Byte place of the scale of (n, k), from the scale address; for row words, from the element address. -/
def repScaleByte (d : List Byte) (dst : Bool) (n k : Nat) : Nat :=
  let scl := repScl d dst
  let b := sclBlock scl
  match repLay d dst with
  | 0 => if sclDir scl then n / b * repK d + k else n * (repK d / b) + k / b
  | 3 => 64 * (k / 32 * repN d + n) + (if sclDir scl then 32 + k % 32 else if b ≤ 32 then 32 + k % 32 / b else 32)
  | 4 => k / b
  | _ =>
    let kl := scaleKL scl
    n / 32 * ((repK d + kl - 1) / kl) * 1024 + 1024 * (k / kl) + scaleByte scl k (n % 32)

/-! ## Checks (R280, R283, R286, R304) -/

/-- A COPY is well formed. -/
def copyOk (d : List Byte) : Bool :=
  copyDims d ≤ 5 && descField d 11 1 == 0 && descField d 29 1 == 0 && descField d 44 4 == 0 && descDl d / 2 ^ 14 != 3 &&
    (copyShape d == 0 || (descSrc d / 2 ^ 48 != 0 && copyElem d == 1024))
/-- The fields of one side of a REPACK fit its layout. -/
def repSideOk (d : List Byte) (dst : Bool) : Bool :=
  let n := repN d
  let k := repK d
  let perLine := if repW d = 8 then 32 else if repW d = 4 then 64 else 128
  match repLay d dst with
  | 0 => true
  | 1 => n % 32 == 0 && k % perLine == 0
  | 2 => n % 32 == 0 && k % perLine == 0 && fmtMx6 (repFmt d)
  | 3 => k % 32 == 0
  | 4 => n == 1 && !sclDir (repScl d dst) && 4 ≤ repFmt d && repFmt d ≤ 6
  | _ => false
/-- A REPACK is well formed. The destination footprint is the bytes written: the last 256 of a TILE6 tile, which nothing writes, are
not among them (DESIGN CHOICE, log entry 115). -/
def repackOk (mx6 : Bool) (d : List Byte) : Bool :=
  let sb := sclBlock (repScl d false)
  let db := sclBlock (repScl d true)
  let dir := sclDir (repScl d false)
  descField d 8 2 == 0 && descField d 11 1 == 0 && descField d 26 10 == 0 && descField d 44 4 == 0 && descField d 356 156 == 0 &&
    descDl d / 2 ^ 14 != 3 && fmtMx (repFmt d) && (mx6 || !fmtMx6 (repFmt d)) && sb != 0 && db != 0 &&
    dir == sclDir (repScl d true) && (db == sb || db == 32) && repSideOk d false && repSideOk d true &&
    (if dir then repN d else repK d) % max sb db == 0 &&
    ((repElemRuns d true ++ repScaleRuns d true).foldl (fun a r => a + r.2) 0 ≤ 65536)

/-- Chunks of a descriptor (R289). -/
def descChunks (d : List Byte) : Nat :=
  if descKind d = 1 then (copyTotal d * copyElem d + copyChunk d - 1) / copyChunk d else 1
/-- First element of chunk q of a COPY, and the one after its last. -/
def chunkElems (d : List Byte) (q : Nat) : Nat × Nat :=
  let per := copyChunk d / copyElem d
  (q * per, min ((q + 1) * per) (copyTotal d))
/-- UNIT, FIRST·U and PER·U of a DL field (R304). -/
def dlUnit (dl : Nat) : Nat := match dl / 2 ^ 12 % 4 with | 0 => 4 | 1 => 32 | 2 => 256 | _ => 2048
def dlFirst (dl : Nat) : Nat := dl / 32 % 128 * dlUnit dl
def dlPer (dl : Nat) : Nat := dl % 32 * dlUnit dl

/-! ## Requests (R282, R283) -/

/-- The bytes of a request in its unit: place in the unit, count, and place in the chunk (COPY) or address (REPACK). -/
structure Piece where
  off : Nat
  len : Nat
  pos : Nat
  deriving DecidableEq, Repr

/-- A request as formed. -/
structure ReqSpec where
  u : XUnit
  pieces : List Piece
  deriving DecidableEq, Repr

/-- One piece added: it joins the last request when the unit is the same. -/
def joinPiece (u : XUnit) (p : Piece) : List ReqSpec → List ReqSpec
  | [] => [⟨u, [p]⟩]
  | [r] => if r.u = u then [{ r with pieces := r.pieces ++ [p] }] else [r, ⟨u, [p]⟩]
  | r :: rs => r :: joinPiece u p rs

/-- The bytes [a, a+n) cut at unit ends; the second part says that an address was refused. The fuel bounds the cuts. -/
def cutUnits (sp : Nat) : Nat → Nat → Nat → Nat → List (XUnit × Piece) × Bool
  | 0, _, _, _ => ([], false)
  | fuel + 1, a, n, pos =>
    if n = 0 then ([], false)
    else
      match addrUnit a with
      | none => ([], true)
      | some (u, off) =>
        if a / 2 ^ 60 != sp then ([], true)
        else
          let t := min n (unitSize u - off)
          let (rest, bad) := cutUnits sp fuel ((a + t) % 2 ^ 64) (n - t) (pos + t)
          ((u, ⟨off, t, pos⟩) :: rest, bad)

/-- The bytes of a range (address, count, place) by unit, in the space of its base; none where an address of it is refused (R276). -/
def rangePieces (sp : Nat) (r : Nat × Nat × Nat) : Option (List (XUnit × Piece)) :=
  let (ps, bad) := cutUnits sp (r.2.1 / 256 + 2) r.1 r.2.1 r.2.2
  if bad then none else some ps
/-- Requests formed of pieces, in order (R282). -/
def joinPieces (ps : List (XUnit × Piece)) : List ReqSpec := ps.foldl (fun l p => joinPiece p.1 p.2 l) []

/-- The bytes of element e of a COPY on one side, in chunk places: those of a shaped read are one piece of 1,024 bytes (R283). -/
def copyPieces (d : List Byte) (dst : Bool) (e0 e : Nat) : Option (List (XUnit × Piece)) :=
  if !dst && copyShape d != 0 then
    let al := if (bitsAt (copyShape d) 0 2).toNat = 0 then 1024 else 64
    let a := copyAddr d false e / al * al
    match addrUnit a with
    | none => none
    | some (u, off) => if a / 2 ^ 60 != descSrc d / 2 ^ 60 then none else some [(u, ⟨off, 1024, 1024 * (e - e0)⟩)]
  else rangePieces (repBase d dst / 2 ^ 60) (copyAddr d dst e, copyElem d, copyElem d * (e - e0))
/-- The elements of chunk q before the first whose source or destination address is refused, and whether there is such a one: no
request at or after it is issued (R301). -/
def copyGood (d : List Byte) (q : Nat) : List Nat × Bool :=
  let (e0, e1) := chunkElems d q
  let els := (List.range (e1 - e0)).map (fun i => e0 + i)
  let good := els.takeWhile (fun e => (copyPieces d false e0 e).isSome && (copyPieces d true e0 e).isSome)
  (good, good.length < els.length)

/-- The byte ranges of one side of a REPACK, elements first and scales second in address order (DESIGN CHOICE, log entry 41). -/
def repPieces (d : List Byte) (dst : Bool) : Option (List (XUnit × Piece)) :=
  let range (base : Nat) (r : Nat × Nat) : Nat × Nat × Nat := ((base + r.1) % 2 ^ 64, r.2, (base + r.1) % 2 ^ 64)
  let es := (repElemRuns d dst).map (fun r => rangePieces (repBase d dst / 2 ^ 60) (range (repBase d dst) r))
  let ss := (repScaleRuns d dst).map (fun r => rangePieces (repScale d dst / 2 ^ 60) (range (repScale d dst) r))
  (es ++ ss).foldl (fun acc o => match acc, o with | some l, some ps => some (l ++ ps) | _, _ => none) (some [])

/-- The requests of one side of chunk q: with the flag, an address after them was refused, on either side (BAD_ADDR, R301). Of a
shaped source each element is a request of its own (R283). A REPACK with a refused address issues nothing (DESIGN CHOICE, log entry 41). -/
def chunkRequests (d : List Byte) (q : Nat) (dst : Bool) : List ReqSpec × Bool :=
  if descKind d = 1 then
    let (good, bad) := copyGood d q
    let ps := good.map (fun e => (copyPieces d dst (chunkElems d q).1 e).getD [])
    if !dst && copyShape d != 0 then ((ps.map joinPieces).flatten, bad) else (joinPieces ps.flatten, bad)
  else match repPieces d false, repPieces d true with
    | some s, some t => (joinPieces (if dst then t else s), false)
    | _, _ => ([], true)
/-- The refused address is a destination's: WRITE of the record. -/
def badWrite (d : List Byte) (q : Nat) : Bool :=
  if descKind d = 1 then
    let e := (chunkElems d q).1 + (copyGood d q).1.length
    (copyPieces d false (chunkElems d q).1 e).isSome
  else (repPieces d false).isSome

/-- First and last-plus-one byte of a request in its unit. -/
def specLow (r : ReqSpec) : Nat := r.pieces.foldl (fun m p => min m p.off) (unitSize r.u)
def specHigh (r : ReqSpec) : Nat := r.pieces.foldl (fun m p => max m (p.off + p.len)) 0
/-- Bytes a request names. -/
def specBytes (r : ReqSpec) : Nat := r.pieces.foldl (fun m p => m + p.len) 0
/-- Places in the unit a write's mask names, ascending (a byte named twice is listed once). -/
def specMask (r : ReqSpec) : List Nat :=
  (List.range (unitSize r.u)).filter (fun i => r.pieces.any (fun p => p.off ≤ i && i < p.off + p.len))

/-! ## Values of a REPACK (R287) -/

/-- A byte of the source tensor. -/
def repSrcByte (buf : Mem) (base off : Nat) : Nat := (memGet buf ((base + off) % 2 ^ 64)).toNat
/-- The source code of (n, k). -/
def repCode (d : List Byte) (buf : Mem) (n k : Nat) : Nat :=
  let bit := repElemBit d false n k
  let y := bit / 8
  (repSrcByte buf (repBase d false) y + 256 * repSrcByte buf (repBase d false) (y + 1)) / 2 ^ (bit % 8) % 2 ^ repW d
/-- The source scale of (n, k). -/
def repSrcScale (d : List Byte) (buf : Mem) (n k : Nat) : Nat :=
  repSrcByte buf (if repLay d false = 3 then repBase d false else repScale d false) (repScaleByte d false n k)
/-- Codes copied unchanged under a smaller scale: E5M2 infinities and NaNs, E4M3 NaNs. -/
def repSpecial (f c : Nat) : Bool := (f == 6 && c / 4 % 32 == 31) || (f == 5 && c % 128 == 127)
/-- An element under a scale s below its block's scale. A zero keeps its code (DEDUCED, log entry 42). -/
def repRescale (f c sb s : Nat) : Nat :=
  if repSpecial f c then c
  else match elemDecode f c with
    | .fin a => if dyIsZero a then c else mxElement f ⟨a.m, a.e + (sb : Int) - s⟩
    | _ => c
/-- The destination code and scale of (n, k). -/
def repValue (d : List Byte) (buf : Mem) (n k : Nat) : Nat × Nat :=
  let sb := sclBlock (repScl d false)
  let db := sclBlock (repScl d true)
  if sb ≥ db then (repCode d buf n k, repSrcScale d buf n k)
  else
    let dir := sclDir (repScl d true)
    let x := (if dir then n else k) / db * db
    let scales := (List.range (db / sb)).map (fun j => if dir then repSrcScale d buf (x + j * sb) k else repSrcScale d buf n (x + j * sb))
    if scales.contains 255 then (0, 255)
    else
      let s := scales.foldl max 0
      let own := repSrcScale d buf n k
      let c := repCode d buf n k
      (if own = s then c else repRescale (repFmt d) c own s, s)
/-- The destination bytes, by address: unused bytes of a row word are 0. -/
def repImage (d : List Byte) (buf : Mem) : Mem :=
  (List.range (repN d)).foldl (fun m n => (List.range (repK d)).foldl (fun (m : Mem) k =>
    let (c, s) := repValue d buf n k
    let bit := repElemBit d true n k
    let y := (repBase d true + bit / 8) % 2 ^ 64
    let v := c * 2 ^ (bit % 8)
    let m := memSet m y (memGet m y ||| BitVec.ofNat 8 v)
    let y1 := (y + 1) % 2 ^ 64
    let m := if v ≥ 256 then memSet m y1 (memGet m y1 ||| BitVec.ofNat 8 (v / 256)) else m
    memSet m (((if repLay d true = 3 then repBase d true else repScale d true) + repScaleByte d true n k) % 2 ^ 64) (BitVec.ofNat 8 s)) m) []

end Sys2Proof.Machine
end

