-- ==== Sys2Proof/Machine/StateMassif.lean ====
section
/-! DEFINITION. The state of clusters (chapters 01, 09, 14, 15, 18, 19) and of sequencers and massifs (chapters 02, 06, 09,
10, 11, 12, 13, 14, 18, 20, 21): the fields of cluster pages 0 and 1 and of the sequencer pages, and what stands behind them. -/
namespace Sys2Proof.Machine

/-! ## Held-write stores -/

/-- What an item of a held-write store will send (R350, R351, R354). -/
inductive HeldWhat where
  | write (w : OutWrite)
  | signal (die : BitVec 4) (lclus : BitVec 6) (lcore : BitVec 7) (k : BitVec 6)
  /-- A stream's write to its core's own ledge that follows a released signal to that core (R361): request number, bytes and offsets. -/
  | own (x : Fin 8) (id : Nat) (bytes : Mem) (mask : List Nat)
  deriving DecidableEq, Repr

/-- One entry of a held-write store (R354, R355). -/
structure HeldItem where
  core : PCore
  epoch : Nat
  /-- It came from a TXPUT, or from a chunk of a stream. -/
  stream : Option (Fin 8 × Nat)
  /-- That stream is still in flight: its fault or error may withdraw the item (R365). -/
  live : Bool
  slots : Nat
  /-- Bytes it counts in EPOCH_DISC_BYTES. -/
  size : Nat
  what : HeldWhat
  /-- Released by an outermost ECOMMIT, and waiting to leave the cluster (R360). -/
  released : Bool
  /-- It takes an entry and slots; a write that only waits behind released items takes none (R361). -/
  counted : Bool
  /-- Its number among the core's writes once it is released; 0 before. -/
  num : Nat
  /-- VA of a module-memory write, which holds its MPA from its placement on (R352), and whether an invalidation has removed its
  translation since (R296). -/
  va : Option Nat
  stale : Bool
  deriving DecidableEq, Repr

/-- Who waits for space in a held-write store (R356). -/
inductive HeldWaiter where
  | req (core : PCore) (x : Fin 8) (id : Nat)
  | signal (core : PCore) (x : Fin 8)
  | put (core : PCore)
  deriving DecidableEq, Repr

/-! ## Clusters -/

/-- An entry of a broadcast FIFO (R67). -/
structure FifoEntry where
  addr : BitVec 18
  beat : BitVec 48
  slots : Vector Slot 8
  lcs : Vector (BitVec 32) 4
  /-- A read has found its parity bad: every core that has not issued it fails there (R495). -/
  bad : Bool
  deriving DecidableEq, Repr

/-- The activity counts of one stamping point (R440): the window it is in, the counts of that window and of the last
one, by event code, class and massif (code·64 + class·8 + massif, massif 4 for none). -/
structure StampSt where
  window : Nat
  cur : SMap Nat
  last : SMap Nat
  deriving DecidableEq, Repr

/-- A stamping point that has counted nothing. -/
def StampSt.reset : StampSt := ⟨0, [], []⟩

/-- Cluster states of REPAIR_VIEW.CLUS_STATE. -/
inductive ClusState where
  | active | spare | fusedBad | fusedOff | routerDisabled | failedCores | failedStore
  deriving DecidableEq, Repr

/-- Core states of REPAIR_VIEW.STATE. -/
inductive CoreState where
  | active | spare | fusedBad | failedLbist | failedSram | failedLatch | failedSpeed | untested
  deriving DecidableEq, Repr

/-- What repair and the test steps have found of one cluster (R468..R478). -/
structure ClusRepair where
  /-- Its power switches are closed. -/
  powered : Bool
  lclus : BitVec 6
  state : ClusState
  goodCores : Nat
  /-- Physical cores that are ACTIVE. -/
  active : BitVec 68
  cores : SMap CoreState
  /-- DISAGREE of its cores, and of the cluster. -/
  dis : BitVec 68
  clusDis : Bool
  deriving DecidableEq, Repr

/-- Cluster registers and stores. -/
structure Cluster where
  /-- Broadcast FIFO, oldest first (R41). -/
  fifo : List FifoEntry
  highWater : Nat
  fullCount : Nat
  /-- CLUS_TRAP_SUM and CLUS_TRAP_TIME (R238). -/
  trapValid : Bool
  trapMultiple : Bool
  trapCause : BitVec 4
  trapEngine : BitVec 3
  trapCore : BitVec 7
  trapStamp : BitVec 64
  /-- Held-write store in placement order, and who waits for space, in request order (R355, R356). -/
  held : List HeldItem
  heldWait : List HeldWaiter
  /-- Entries and data slots set aside for TXPUTs that the commit gates of its cores hold (R356, R365). -/
  gateEntries : Nat
  gateSlots : Nat
  slotsHwm : Nat
  heldFull : Nat
  /-- CLUS_DROOP (R452, R453); the clamp of each core and the ceiling it halved; the tick since which the supply stands. -/
  droopCount : Nat
  droopActive : Bool
  droopStep : BitVec 3
  droopSince : BitVec 64
  droopBase : SMap Nat
  /-- ROUTER_STAT, ROUTER_FLITS and CLUS_ABSENT. -/
  dataHolds : Nat
  promoted : Nat
  flits : BitVec 64
  absentCount : Nat
  absentDie : BitVec 4
  absentLclus : BitVec 6
  absentLcore : BitVec 7
  absentWrite : Bool
  absentValid : Bool
  repair : ClusRepair
  deriving DecidableEq, Repr

/-- A cluster after power-on reset. -/
def Cluster.reset : Cluster where
  fifo := []
  highWater := 0
  fullCount := 0
  trapValid := false
  trapMultiple := false
  trapCause := 0
  trapEngine := 0
  trapCore := 0
  trapStamp := 0
  held := []
  heldWait := []
  gateEntries := 0
  gateSlots := 0
  slotsHwm := 0
  heldFull := 0
  droopCount := 0
  droopActive := false
  droopStep := 0
  droopSince := 0
  droopBase := []
  dataHolds := 0
  promoted := 0
  flits := 0
  absentCount := 0
  absentDie := 0
  absentLclus := 0
  absentLcore := 0
  absentWrite := false
  absentValid := false
  repair := ⟨false, 63, .active, 0, 0, [], 0, false⟩

/-! ## Sequencers (chapter 02) -/

/-- SEQ_STAT.STATE. -/
inductive SeqState where
  | idle | loading | checking | running | stopping | halted | aborted | faulted
  deriving DecidableEq, Repr

/-- SEQ_STAT.RESULT. -/
inductive SeqResult where
  | ok | busy | badState | notChecked | overlap | region | loadFault | checkFail | noMassif | badCmd | aborted
  deriving DecidableEq, Repr

/-- SEQ_STAT.HALT_CAUSE. -/
inductive HaltCause where
  | none | programEnd | stop | trap | watchdog | abort | fetchParity
  deriving DecidableEq, Repr

/-- SEQ_STAT.HOLD_CAUSE. -/
inductive HoldCause where
  | none | tree | fetch | ended
  deriving DecidableEq, Repr

/-- An open loop: counter, first body address, end address, total count (R69, R70). -/
structure OpenLoop where
  n : BitVec 2
  start : Nat
  end_ : Nat
  count : Nat
  deriving DecidableEq, Repr

/-- A posted hint (R76): class, first and last-plus-one beat, and the times of the last recomputation (R449). -/
structure Hint where
  cls : BitVec 3
  b0 : Nat
  b1 : Nat
  ts : Int
  te : Int
  deriving DecidableEq, Repr

/-- One sequencer. -/
structure SeqSt where
  state : SeqState
  result : SeqResult
  checked : Bool
  haltCause : HaltCause
  fetchParity : Bool
  wdogExpired : Bool
  hold : HoldCause
  base : BitVec 11
  size : BitVec 12
  entry : BitVec 18
  loadSrc : BitVec 64
  loadCount : BitVec 19
  loadDest : BitVec 18
  checkCode : BitVec 4
  checkAddr : BitVec 18
  checkSlot : BitVec 3
  violations : Nat
  params : Vector (BitVec 64) 8
  /-- The parameter file P0..P7 of the run. -/
  file : Vector (BitVec 64) 8
  mark : BitVec 16
  markBeat : BitVec 48
  fetchAddr : BitVec 18
  wdogLimit : BitVec 6
  wdogAction : Bool
  /-- The state LOAD or CHECK left (R65). -/
  prev : SeqState
  /-- Bundles of the present LOAD copied so far. -/
  loaded : Nat
  /-- The present LOAD has met a condition of R51; a block read of it is on its way; START waits for TXPUTs (R324). -/
  loadFault : Bool
  loadBusy : Bool
  /-- The block of module memory whose read is on its way. -/
  loadBlock : Nat
  /-- That read used a translation that has been invalidated since (R296). -/
  loadOld : Bool
  /-- LOADs begun so far: the answer to a read of an earlier one is not taken (R51). -/
  loadGen : Nat
  startPend : Bool
  /-- Beat of the next bundle, loop counters, open loops innermost first. -/
  nextBeat : BitVec 48
  lcs : Vector (BitVec 32) 4
  loops : List OpenLoop
  /-- HALT has been broadcast, or a clean point reached under STOP (R61, R64). -/
  sentHalt : Bool
  atClean : Bool
  /-- Beats that each of MXE, VXE, OST, TXA and TXB stays occupied after the last broadcast (R62). -/
  occ : Vector Nat 5
  /-- MARK bundles broadcast and not yet issued by every core: beat, immediate (R77). -/
  marks : List (BitVec 48 × BitVec 16)
  hints : List Hint
  /-- Watchdog: MIN_BEAT last seen, the tick it changed, and whether it has acted in this stall (R82). -/
  wdogBeat : BitVec 48
  wdogTick : BitVec 64
  wdogActed : Bool
  deriving DecidableEq, Repr

/-- A sequencer after power-on reset. -/
def SeqSt.reset : SeqSt where
  state := .idle
  result := .ok
  checked := false
  haltCause := .none
  fetchParity := false
  wdogExpired := false
  hold := .ended
  base := 0
  size := 0
  entry := 0
  loadSrc := 0
  loadCount := 0
  loadDest := 0
  checkCode := 0
  checkAddr := 0
  checkSlot := 0
  violations := 0
  params := Vector.replicate 8 0
  file := Vector.replicate 8 0
  mark := 0
  markBeat := 0
  fetchAddr := 0
  wdogLimit := 30
  wdogAction := false
  prev := .idle
  loaded := 0
  loadFault := false
  loadBusy := false
  loadBlock := 0
  loadOld := false
  loadGen := 0
  startPend := false
  nextBeat := 0
  lcs := Vector.replicate 4 0
  loops := []
  sentHalt := false
  atClean := false
  occ := Vector.replicate 5 0
  marks := []
  hints := []
  wdogBeat := 0
  wdogTick := 0
  wdogActed := false

/-! ## Summits (chapter 13) -/

/-- An instance of a summit context (R336). -/
structure SummitInst where
  gen : BitVec 32
  /-- Cores of this die whose arrival for the pending generation has been received. -/
  arrived : List CoreId
  childArr : BitVec 16
  /-- Ticks of the first and last local arrival, and of this die's own departure (R344). -/
  first : BitVec 64
  last : BitVec 64
  sentAt : BitVec 64
  /-- This die's arrival has gone to the parent; it holds a trap-flagged arrival. -/
  sent : Bool
  trap : Bool
  /-- A core of this die made a trap-flagged arrival; the instance is held here (R235, R339). -/
  ownTrap : Bool
  held : Bool
  /-- Merged RATE, RATE_NODE and THROTTLE of the children, and LAST_NODE of the input that completed the merge. -/
  rate : BitVec 12
  rateNode : BitVec 16
  throttle : BitVec 4
  lastNode : BitVec 16
  /-- SUMMIT_SKEW of the last release. -/
  skew : Nat
  wait : Nat
  deriving DecidableEq, Repr

/-- An instance with generation 0 and no arrival. -/
def SummitInst.reset : SummitInst := ⟨0, [], 0, 0, 0, 0, false, false, false, false, 0xFFF, 0, 0, 0, 0, 0⟩

/-- A release on its way down the staircase: context, logical cluster, tick at which the cluster receives it (R341). -/
structure StairItem where
  ctx : BitVec 4
  lclus : BitVec 6
  due : Nat
  /-- The cores that receive it. -/
  cores : List CoreId
  deriving DecidableEq, Repr

/-- SUMMIT_TREE, SUMMIT_CTXn, their status and the instances of a massif. -/
structure SummitSt where
  nodeId : BitVec 16
  parent : BitVec 5
  children : BitVec 16
  follow : Bool
  selCtx : BitVec 4
  selClus : BitVec 6
  /-- SUMMIT_CTXn: SCOPE [1:0], SPREAD [6:2], SCREE [10:7], RAMP [14:11], HOLD [18:15]. -/
  ctxs : Vector (BitVec 19) 16
  held : BitVec 16
  broken : BitVec 16
  genErr : Bool
  consec : Nat
  straggler : Bool
  lastNode : BitVec 16
  rate : BitVec 12
  throttle : BitVec 4
  rateNode : BitVec 16
  followActive : Bool
  /-- Instances by ctx·64 + logical cluster; the one instance of MASSIF and TREE scope at cluster 63. -/
  insts : SMap SummitInst
  stair : List StairItem
  deriving DecidableEq, Repr

/-- Summit state after power-on reset: PARENT 31, HOLD 15. -/
def SummitSt.reset : SummitSt where
  nodeId := 0
  parent := 31
  children := 0
  follow := false
  selCtx := 0
  selClus := 0
  ctxs := Vector.replicate 16 (15 <<< 15)
  held := 0
  broken := 0
  genErr := false
  consec := 0
  straggler := false
  lastNode := 0
  rate := 0
  throttle := 0
  rateNode := 0
  followActive := false
  insts := []
  stair := []

/-! ## Massifs (chapters 06, 09, 10, 11, 12, 14, 18, 20, 21) -/

/-- MASSIF_STAT.STATE. -/
inductive MassifState where
  | none | creating | active | resetting | tearingDown
  deriving DecidableEq, Repr

/-- MASSIF_STAT.RESULT. -/
inductive MassifResult where
  | ok | busy | notReady | badState | empty | range | overlap | badCmd
  deriving DecidableEq, Repr

/-- The registers of a massif outside the sequencer proper. -/
structure MassifSt where
  state : MassifState
  result : MassifResult
  /-- MASSIF_CLUSTERS.MASK, and the clusters the massif keeps since creation (R481). -/
  mask : BitVec 40
  members : BitVec 40
  survived : Nat
  /-- A TEARDOWN waits for the massif reset in progress (R490); a compute reset includes this massif (R488). -/
  tearAfter : Bool
  inCompReset : Bool
  /-- The zero-fills of a teardown are under way (step 4 of R490). -/
  filling : Bool
  /-- ACC_SEED, ACC_MODE, TRAP_MODE as written, and as the run took them (R175, R233). -/
  seed : BitVec 64
  seedMode : Bool
  trapMode : BitVec 2
  runSeed : BitVec 64
  runSeedMode : Bool
  runTrapMode : BitVec 2
  haltPending : Bool
  /-- LEDGE_MODE.CACHE_EN, and whether the run has cache mode (R261); RESIDENT0 and 1; TENANT_KEY (never readable). -/
  cacheEn : Bool
  cacheRun : Bool
  resident : BitVec 96
  tenantKey : BitVec 64
  latchedKey : BitVec 64
  /-- TX_TT_ROOT, TX_MSTAT.ERRORED. -/
  ttValid : Bool
  ttBase : BitVec 28
  txErrored : Bool
  /-- DL_MCTL, DL_MSTAT. -/
  tagMin : BitVec 14
  tagMax : BitVec 14
  missEvent : Bool
  missRaised : Bool
  dlMisses : Nat
  jobTag : BitVec 32
  summit : SummitSt
  /-- EPOCH_MSTAT.HELD_FULL. -/
  heldFull : Bool
  /-- PM_MASSIF.V_REQ. -/
  vReq : BitVec 10
  /-- MASSIF_ENERGY0..5 in units of 1/(36·10^9) nJ (R459); TELEM's increments of the last window. -/
  energy : Vector Nat 6
  energyInc : Vector Nat 6
  deriving DecidableEq, Repr

/-- A massif after power-on reset. -/
def MassifSt.reset : MassifSt where
  state := .none
  result := .ok
  mask := 0
  members := 0
  survived := 0
  tearAfter := false
  inCompReset := false
  filling := false
  seed := 0
  seedMode := false
  trapMode := 0
  runSeed := 0
  runSeedMode := false
  runTrapMode := 0
  haltPending := false
  cacheEn := false
  cacheRun := false
  resident := 0
  tenantKey := 0
  latchedKey := 0
  ttValid := false
  ttBase := 0
  txErrored := false
  tagMin := 0
  tagMax := 8192
  missEvent := false
  missRaised := false
  dlMisses := 0
  jobTag := 0
  summit := SummitSt.reset
  heldFull := false
  vReq := 750
  energy := Vector.replicate 6 0
  energyInc := Vector.replicate 6 0

/-- Sequencer s and massif s. -/
structure Seq where
  seq : SeqSt
  massif : MassifSt
  deriving DecidableEq, Repr

/-- Sequencer and massif after power-on reset. -/
def Seq.reset : Seq := ⟨SeqSt.reset, MassifSt.reset⟩

end Sys2Proof.Machine
end

