-- ==== Sys2Proof/Machine/StateSpine.lean ====
section
/-! DEFINITION. The state of the spine domain: program store, timebase, scrub, translation, tracker (chapters 01, 02, 10, 11,
12), ridge and cols (15, 16), discovery and test (17), power, thermal and bring-up (18, 19), errors, identity, pins (20..23). -/
namespace Sys2Proof.Machine

/-! ## Stores and counters of the die -/

/-- Program store and its page (R48, R53..R55). Words not listed are zero (R479). -/
structure StoreSt where
  words : SMap (BitVec 64)
  addr : BitVec 20
  blocked : Nat
  readParity : Bool
  deriving DecidableEq, Repr

/-- Timebase (R45, R46); nanoseconds of the spine oscillator counted while it holds (R439), and since reset (R412). -/
structure TimeSt where
  count : BitVec 64
  locked : Bool
  aligned : Bool
  lockLost : Bool
  oscNs : Nat
  ranNs : Nat
  deriving DecidableEq, Repr

/-- Scrub registers (R259). -/
structure ScrubSt where
  en : Bool
  interval : BitVec 6
  passes : Nat
  line : BitVec 9
  /-- The present line's reads have been commanded (R259). -/
  offered : Bool
  /-- Timebase count of the last advance of LINE (R259). -/
  since : BitVec 64
  deriving DecidableEq, Repr

/-- A cached translation (R295): level of its leaf, VA base of its page, MPA base, and whether writes are allowed. -/
structure TcEntry where
  massif : Massif
  level : BitVec 2
  va : Nat
  mpa : BitVec 40
  wr : Bool
  deriving DecidableEq, Repr

/-- Who waits for a walk: a stream's request, or a sequencer's LOAD. -/
inductive WalkFor where
  | stream (c : CoreId) (x : Fin 8) (id : Nat)
  | load (s : Massif)
  deriving DecidableEq, Repr

/-- A walk in progress (R293..R295). -/
structure Walk where
  id : Nat
  massif : Massif
  va : Nat
  write : Bool
  level : BitVec 2
  /-- The entry being read. -/
  entry : BitVec 37
  waiters : List (WalkFor × Bool × Nat)
  /-- Begun before an invalidation of every entry, or of the pages of these VAs: it inserts no such entry (R296). -/
  stale : Bool
  notPages : List Nat
  deriving DecidableEq, Repr

/-- Translation cache (R295, R296). -/
structure TcSt where
  entries : List TcEntry
  walks : List Walk
  nextWalk : Nat
  /-- Invalidations in progress: massif, and the page's VA or none for all. -/
  inval : List (Massif × Option Nat)
  hits : BitVec 64
  misses : BitVec 64
  deriving DecidableEq, Repr

/-- Tracker and read tags (R310, R312, R313). -/
structure TrkSt where
  tracked : Nat
  queue : List (CoreId × Fin 8)
  trackedHwm : Nat
  /-- Tags held by each massif. -/
  tags : Vector Nat 4
  tagHwm : Nat
  waits : Nat
  /-- Requests that have come to the read-tag pool (R309). -/
  arrivals : Nat
  ageLimit : BitVec 16
  deriving DecidableEq, Repr

/-- DIE_TRAP_SUM (R238), ERR_DIE and the partner's notification (R507..R509). -/
structure DieErrSt where
  trapValid : Bool
  trapMultiple : Bool
  trapMassif : BitVec 2
  trapCause : BitVec 4
  trapEngine : BitVec 3
  trapClus : BitVec 6
  trapCore : BitVec 7
  trapStamp : BitVec 64
  fatal : Bool
  cause : BitVec 4
  unit : BitVec 4
  pclus : BitVec 6
  /-- The physical cluster of the router whose FIFO, flit or route table has failed, or 63: what crosses it is discarded (R379, R508). -/
  router : BitVec 6
  tcParity : Nat
  time : BitVec 64
  partnerSerial : BitVec 56
  partnerCause : BitVec 4
  partnerValid : Bool
  deriving DecidableEq, Repr

/-- A page's common header (R524): PENDING, ENABLE, WORD, COUNT. -/
structure Evt where
  pending : Bool
  enable : Bool
  word : BitVec 9
  count : Nat
  deriving DecidableEq, Repr

/-- A header that has recorded nothing. -/
def Evt.reset : Evt := ⟨false, true, 0, 0⟩

/-! ## Cols (chapter 16) -/

/-- COL_STAT.STATE (R389). -/
inductive ColState where
  | off | down | training | mgmtOnly | up
  deriving DecidableEq, Repr

/-- Whom a response that a col is owed goes to (R393, R402). -/
inductive Waiting where
  | read (c : CoreId) (x : Fin 8) (id : Nat) (die : BitVec 4) (lclus : BitVec 6) (lcore : BitVec 7)
  | write (ack : AckTo) (die : BitVec 4) (lclus : BitVec 6) (lcore : BitVec 7)
  | walk (id : Nat)
  /-- A sequencer's LOAD: the block read, and which of its LOADs reads it (R51). -/
  | load (s : Massif) (block gen : Nat)
  | reg
  deriving DecidableEq, Repr

/-- A message at a col's egress that has not begun (R393, R399). -/
structure EgressItem where
  msg : Msg
  /-- Who waits for its response. -/
  wait : Option Waiting
  /-- Its due time (R308), and the massif of the core that it comes from (R459). -/
  due : Option Int
  massif : Option Massif
  /-- Where it entered the die, a router, and what spreads it over cols (R426); none for a message of this link alone. -/
  route : Option (Nat × Nat)
  /-- Since when it waits here, and whether it is promoted (R310). -/
  since : BitVec 64
  promoted : Bool
  /-- The col whose register request it answers (R408). -/
  answers : Option Col
  /-- A signal's core, its number there, and whether an epoch's release sends it (R334, R361). -/
  signalOf : Option (CoreId × Nat × Bool)
  deriving DecidableEq, Repr

/-- One col. -/
structure ColSt where
  state : ColState
  autoRetrain : Bool
  disable : Bool
  maxRate : BitVec 2
  maxWidth : Bool
  /-- MAX_RATE and MAX_WIDTH as the present training attempt found them (R410). -/
  tryRate : BitVec 2
  tryWidth : Bool
  rate : BitVec 2
  x32 : Bool
  upper : Bool
  widthLimit : Bool
  /-- The half to which the width limit confines later attempts (R396). -/
  limitUpper : Bool
  downCause : BitVec 4
  /-- Ticks of the mismatches of the last 100 ms. -/
  mismatches : List Nat
  partnerMajor : BitVec 8
  partnerMinor : BitVec 8
  partnerPort : BitVec 4
  partnerKind : BitVec 4
  laneFail : BitVec 64
  crcErrors : Nat
  replays : Nat
  retrains : Nat
  downEvents : Nat
  malformed : Nat
  summitUnmatched : Nat
  signalsDropped : Nat
  absents : Nat
  unknownTag : Nat
  txFlits : BitVec 32
  rxFlits : BitVec 32
  /-- Usable halves of the last lane test; the physical link is up and HELLO sent (R390, R391). -/
  usable : BitVec 2
  linkUp : Bool
  /-- Consecutive failed replays of the present flit (R388). -/
  failedReplays : Nat
  /-- Credits held, by channel (R398); the first CREDIT after HELLO has come. -/
  credits : Vector Nat 6
  advertised : Bool
  /-- Requests sent and not answered, by TAG (R402). -/
  owed : SMap (Option Waiting)
  /-- Messages not yet begun, oldest first. -/
  egress : List EgressItem
  /-- Messages of higher channels sent since a channel has held a ready message (R399). -/
  skips : Vector Nat 6
  /-- Cells filled of the flit in progress; 0 when the next message begins a new flit (R386). -/
  fill : Nat
  /-- Cells filled of the flit last received (R386). -/
  rxFill : Nat
  /-- Register requests held at the ingress (R408). -/
  regHeld : List (Msg × Bool × ItestResult)
  /-- Requests of other endpoints forwarded through this col and not yet answered (R393, R427). -/
  forwarded : List Msg
  /-- Part of a message has arrived (R393). -/
  partialIn : Bool
  /-- What this end has sent, oldest first. -/
  wire : List Msg
  /-- What this end has sent on the sideband, oldest first (R415). -/
  side : List ClockMsg
  /-- Clock tree: the partner's REQ is held, RCK is driven, the partner's offer (R414, R415). -/
  reqHeld : Bool
  drivesRck : Bool
  offer : Option (BitVec 4 × BitVec 56)
  /-- The partner's POSITION, and whether this end has sent its own (R419). -/
  position : Option PositionArgs
  positionSent : Bool
  /-- The child behind this col has sent END, with its count (R420). -/
  childEnd : Option (BitVec 8)
  deriving DecidableEq, Repr

/-- A col after power-on reset. -/
def ColSt.reset : ColSt where
  state := .down
  autoRetrain := true
  disable := false
  maxRate := 0
  maxWidth := false
  tryRate := 0
  tryWidth := false
  rate := 0
  x32 := false
  upper := false
  widthLimit := false
  limitUpper := false
  downCause := 0
  mismatches := []
  partnerMajor := 0
  partnerMinor := 0
  partnerPort := 0
  partnerKind := 0
  laneFail := 0
  crcErrors := 0
  replays := 0
  retrains := 0
  downEvents := 0
  malformed := 0
  summitUnmatched := 0
  signalsDropped := 0
  absents := 0
  unknownTag := 0
  txFlits := 0
  rxFlits := 0
  usable := 0
  linkUp := false
  failedReplays := 0
  credits := Vector.replicate 6 0
  advertised := false
  owed := []
  egress := []
  skips := Vector.replicate 6 0
  fill := 0
  rxFill := 0
  regHeld := []
  forwarded := []
  partialIn := false
  wire := []
  side := []
  reqHeld := false
  drivesRck := false
  offer := none
  position := none
  positionSent := false
  childEnd := none

/-- The ridge page (chapter 15). -/
structure RidgeSt where
  unroutable : Bool
  dieAbsent : Nat
  en : BitVec 42
  /-- Routes have been set (step SPINE). -/
  routed : Bool
  selSrc : BitVec 6
  selDst : BitVec 6
  deriving DecidableEq, Repr

/-! ## Discovery and package test (chapter 17) -/

/-- Discovery, clock tree and alignment. -/
structure DiscSt where
  result : BitVec 4
  crown : Bool
  holdover : Bool
  id : BitVec 4
  idValid : Bool
  /-- The col of DISC_STAT.CLOCK_COL, which reads 0xF for none. -/
  clockCol : Option Col
  depth : BitVec 3
  dies : BitVec 4
  hubs : BitVec 4
  incompat : BitVec 8
  minStepping : BitVec 8
  negotiated : BitVec 32
  rtt : BitVec 32
  offset : BitVec 32
  routes : Vector RouteEntry 12
  /-- This die's hop count (15: none) and the crown serial it follows (R413). -/
  hop : BitVec 4
  crownSerial : BitVec 56
  /-- The 50 µs window of the first offer is open (R414). -/
  window : Bool
  /-- The old clock col, to be released before a new one is requested (R415). -/
  oldCol : Option Col
  started : Bool
  sentReport : Bool
  sentEnd : Bool
  /-- Reports held: by the crown die all (R421), by another die those of its subtree. -/
  reports : List ReportArgs
  assigned : Bool
  /-- INCOMPAT bits that this die has determined itself (R430). -/
  incompatKnown : BitVec 8
  moduleMajor : BitVec 8
  /-- Alignment: outstanding t1, exchanges made, and the one kept: round trip, doubled offset (R424). -/
  t1 : Option (BitVec 64)
  exchanges : Nat
  best : Option (Int × Int)
  /-- DONE has been received, or sent by the crown die. -/
  done : Bool
  /-- DONE has been passed on (R422). -/
  passed : Bool
  deriving DecidableEq, Repr

/-- Interconnect test (R433); `sent` counts the bits that the transmitter has sent on each enabled lane since START. -/
structure ItestSt where
  col : BitVec 4
  pattern : BitVec 3
  tx : Bool
  rx : Bool
  rate : BitVec 2
  /-- 0 IDLE, 1 RUNNING, 2 STOPPED. -/
  state : BitVec 2
  refused : Bool
  sync : Bool
  errors : Nat
  lanes : BitVec 64
  aux : BitVec 10
  sent : Nat
  deriving DecidableEq, Repr

/-- The TAP (R434, R435): the instruction register and what it last captured, the bypass bit, the boundary register as last captured and
as it drives, and whether the BIST instrument last accessed reads busy (R480). -/
structure JtagSt where
  ir : BitVec 8
  irCapture : BitVec 8
  bypassBit : Bool
  captured : BoundaryView
  drives : Boundary
  busy : Bool
  /-- What the selected data register has last captured: the word of IDCODE, what a bridge read returned, or an instrument's data. -/
  bridge : BitVec 64
  /-- Whether the BIST instrument last accessed has passed (R493). -/
  passed : Bool
  /-- The IEEE 1500 instruction and data registers of the engines, and what the data register last captured (R434). -/
  wrapInstr : List Bool
  wrapData : List Bool
  wrapSeen : List Bool
  deriving DecidableEq, Repr

/-! ## Power and thermal (chapters 18, 23) -/

/-- One quadrant of the core rail (R436..R456, R538..R540). -/
structure QuadSt where
  target : BitVec 10
  readback : BitVec 10
  /-- The latest AVSBus readback, sampled every 1,024 ticks (R438, R539). -/
  latest : BitVec 10
  /-- Thermal voltage notches and pace k_therm (R456). -/
  thermV : Nat
  thermPace : Nat
  boost : Nat
  /-- A droop crossing has happened in the present window, and the boost of this window is taken (R453). -/
  crossed : Bool
  /-- The target changed in the present window; in the last one. -/
  changed : Bool
  changedLast : Bool
  crossedLast : Bool
  /-- Consecutive failed frames, RAIL_FAIL (R540). -/
  failed : Nat
  railFail : Bool
  deriving DecidableEq, Repr

/-- A quadrant after power-on reset: no notch, full pace. -/
def QuadSt.reset : QuadSt := ⟨0, 0, 0, 0, 32, 0, false, false, false, false, 0, false⟩

/-- The power manager's page. -/
structure PmSt where
  cap : BitVec 11
  prio : BitVec 3
  capEn : Bool
  vFloor : BitVec 10
  hintEn : Bool
  hintLead : BitVec 12
  paceFloor : BitVec 4
  boostEn : Bool
  droopTh : BitVec 8
  overCap : Bool
  /-- PM_POWER and PM_WINDOW. -/
  power : BitVec 64
  window : BitVec 48
  windowValid : Bool
  quads : Vector QuadSt 4
  /-- Voltage notches and budget pace of the cap, link pace (R445). -/
  capV : Nat
  kPace : Nat
  linkJ : Nat
  weightSel : BitVec 6
  classSel : BitVec 3
  /-- Link energy by class 0..6, in units of 1/(36·10^9) nJ (R460). -/
  classEnergy : Vector Nat 7
  telemEn : Bool
  telemDst : BitVec 4
  telemPeriod : BitVec 8
  telemPower : Bool
  telemEnergy : Bool
  /-- Stamping points 0..41 clusters, 42..83 routers, 84..99 cols, 100 the die-level port (R440). -/
  stamps : SMap StampSt
  /-- AVS_STAT, the slot of the cycle, and target changes not yet written (R539). -/
  failedFrames : Nat
  frames : BitVec 32
  slot : BitVec 3
  /-- The quadrant that the next Voltage read, and the next Status read, is for (R539, R540). -/
  readQ : Fin 4
  statusQ : Fin 4
  /-- Sequence number of the window in which the last publication took place (R441); the timebase's numbers of the window that runs and of
  the one before it (R439). -/
  published : Nat
  label : Nat
  labelLast : Nat
  writes : List (Fin 4 × BitVec 10)
  /-- ELEC_STAT's brown-out fields. -/
  boRail : BitVec 4
  boValid : Bool
  boCount : Nat
  deriving DecidableEq, Repr

/-- Thermal page (R455..R458). -/
structure ThermSt where
  warn : BitVec 8
  throt : BitVec 8
  trip : BitVec 8
  hyst : BitVec 4
  /-- Last readings, coded (T + 64)·4; sensors excluded; sensors at TRIP in the last sample. -/
  temps : Vector (BitVec 10) 64
  failed : BitVec 64
  atTrip : BitVec 64
  warned : Bool
  tripped : Bool
  tripSeen : Bool
  tripCount : Nat
  sel : BitVec 6
  deriving DecidableEq, Repr

/-! ## Bring-up, repair, identity (chapters 19, 20, 22, 23) -/

/-- Fuses, as step FUSE reads them (R463, R474). -/
structure FuseSt where
  variant : BitVec 2
  stepping : BitVec 8
  mfr : BitVec 11
  serial : BitVec 56
  /-- Bits 0 and 1 of the feature mask; the others read 0 (R528). -/
  features : BitVec 2
  badRouters : BitVec 42
  badClus : BitVec 42
  offClus : BitVec 42
  /-- Fused-bad cores by cluster. -/
  badCores : SMap (BitVec 68)
  weights : SMap (BitVec 32)
  charMin : BitVec 12
  debugLock : Bool
  deriving DecidableEq, Repr

/-- A point of the characterisation in progress (R471, R472): the highest rate that has passed, the lowest that has failed, at the rate
under search the consecutive correct runs and consecutive discarded runs, the steps of the bisection made, and T_c as a
code when the point began. -/
structure CharPoint where
  best : Nat
  worst : Nat
  passes : Nat
  discards : Nat
  steps : Nat
  temp : Int
  deriving DecidableEq, Repr
/-- A point that has not begun. -/
def CharPoint.reset : CharPoint := ⟨0, 2601, 0, 0, 0, 0⟩

/-- Bring-up page, repair summary, compute reset and isolation. -/
structure BringSt where
  ctlLevel : BitVec 2
  step : BitVec 4
  sub : BitVec 4
  fail : BitVec 4
  level : BitVec 2
  warm : Bool
  refused : Bool
  degraded : Bool
  ignoredReset : Bool
  readyEvent : Bool
  /-- READY has been reached since the bring-up began (R480). -/
  reached : Bool
  /-- Nanoseconds since the bring-up began, on the spine oscillator; ELAPSED shows its milliseconds. -/
  elapsedNs : Nat
  active : BitVec 6
  good : BitVec 6
  failedCores : Nat
  spared : BitVec 4
  disagree : Nat
  laneMaps : BitVec 8
  selClus : BitVec 6
  selCore : BitVec 7
  tMax : BitVec 10
  guard : BitVec 7
  disClus : BitVec 6
  disCore : BitVec 7
  disState : BitVec 4
  disValid : Bool
  lmap : Vector (BitVec 6) 40
  /-- Waves begun (R466); place of the present target among those of the step (R467). -/
  waves : Nat
  place : Nat
  /-- Findings of LBIST, kept until REPAIR has recorded the lane maps (R164); clusters and cores that the present step has failed so far. -/
  lbist : List (CoreId × LbistFinding)
  storeBad : List PClus
  sramBad : List CoreId
  /-- Characterisation points begun, by 4·(68·cluster + core) + place of the voltage (R471). -/
  points : SMap CharPoint
  /-- COMP_RESET, ISO_STAT. -/
  compBusy : Bool
  compCount : Nat
  teardowns : Nat
  debugRefused : Nat
  deriving DecidableEq, Repr

/-- REG_STAT and EVT_NOTIFY of the die identity page; whether EVT_SUM0.ANY stood at 1 at the last update (R526). -/
structure IdentSt where
  refusedWr : Nat
  ignored : Nat
  firstAddr : BitVec 26
  firstWrite : Bool
  firstValid : Bool
  notifyEn : Bool
  notifyDst : BitVec 4
  notifyAddr : BitVec 23
  sent : Nat
  any : Bool
  deriving DecidableEq, Repr

/-- Power and reset pins (R529..R537, R544, R545). -/
structure PinSt where
  /-- VDD_AON is present. -/
  aon : Bool
  /-- VDD_IO is present: it is not once a brown-out has found it out of its bounds (R537, R542; log entry 141). -/
  io : Bool
  /-- PORST_N low has put the die in reset; a brown-out holds it. -/
  porst : Bool
  brownOut : Bool
  crownN : Bool
  pwrgd : Bool
  deriving DecidableEq, Repr

/-! ## Traffic on the ridge network -/

/-- What a packet carries. -/
inductive NetItem where
  /-- A write or a read for a core of this die. -/
  | land (w : LandWrite)
  | read (r : ReadReq)
  /-- A message for a col's egress. -/
  | out (c : Col) (e : EgressItem)
  /-- What is taken at once where it leaves the network: its class (R370), the port by which it leaves, and its core's massif. -/
  | pass (cls : Nat) (out : Nat) (m : Option Massif)
  deriving DecidableEq, Repr

/-- A packet in transit on the ridge network: it waits in a FIFO of an input port of a router (R371). -/
structure Packet where
  what : NetItem
  flits : Nat
  due : Option Int
  /-- Routers still to pass, the present one first; the last is its target's (R374). None when there is no route. -/
  path : List Nat
  /-- The router at which it changes lane, and its lane (false 0, true 1). -/
  via : Option Nat
  lane : Bool
  /-- Its input port at the present router: a neighbour's number, 42 for the cluster port, 43 for the col's, 44 for the die-level port. -/
  inp : Nat
  /-- Since when it waits at its output port, whether it is promoted there (R310), and its place in the order of arrival. -/
  since : BitVec 64
  promoted : Bool
  arrival : Nat
  /-- Flits of it that have left the present router. -/
  sent : Nat
  deriving DecidableEq, Repr

/-! ## Reset values -/

/-- The fuses of a typical good GTS-F40 die of stepping B0. DESIGN CHOICE (log entry 6): the spec leaves fused values to the die. -/
def FuseSt.reset : FuseSt where
  variant := 0
  stepping := 0x10
  mfr := 0
  serial := 0
  features := 3
  badRouters := 0
  badClus := 0
  offClus := 0
  badCores := []
  weights := [(0x00, 1472), (0x01, 1120), (0x02, 224), (0x03, 352), (0x04, 144), (0x05, 96), (0x06, 224), (0x07, 256),
    (0x08, 320), (0x09, 128), (0x0A, 96), (0x0B, 9600), (0x0C, 6400), (0x0D, 4800), (0x0E, 40)] ++
    (List.range 42).map (fun c => (0x10 + c, 4750)) ++ [(0x3A, 25000)]
  charMin := 1600
  debugLock := false

/-- Timebase after power-on reset. -/
def TimeSt.reset : TimeSt := ⟨0, false, false, false, 0, 0⟩

/-- Discovery after power-on reset of a die that samples CROWN_N at the given level. -/
def DiscSt.reset (crown : Bool) : DiscSt where
  result := 0
  crown := crown
  holdover := false
  id := 0
  idValid := false
  clockCol := none
  depth := 0
  dies := 0
  hubs := 0
  incompat := 0
  minStepping := 0
  negotiated := 0
  rtt := 0
  offset := 0
  routes := Vector.replicate 12 ⟨0, 0, 0, 0, false⟩
  hop := 15
  crownSerial := 0
  window := false
  oldCol := none
  started := false
  sentReport := false
  sentEnd := false
  reports := []
  assigned := false
  incompatKnown := 0
  moduleMajor := 0
  t1 := none
  exchanges := 0
  best := none
  done := false
  passed := false

/-- The power manager after power-on reset. -/
def PmSt.reset : PmSt where
  cap := 900
  prio := 0
  capEn := true
  vFloor := 650
  hintEn := true
  hintLead := 2000
  paceFloor := 4
  boostEn := true
  droopTh := 40
  overCap := false
  power := 0
  window := 0
  windowValid := false
  quads := Vector.replicate 4 QuadSt.reset
  capV := 0
  kPace := 32
  linkJ := 16
  weightSel := 0
  classSel := 0
  classEnergy := Vector.replicate 7 0
  telemEn := false
  telemDst := 0
  telemPeriod := 244
  telemPower := true
  telemEnergy := true
  stamps := []
  failedFrames := 0
  frames := 0
  slot := 0
  readQ := 0
  statusQ := 0
  published := 0
  label := 0
  labelLast := 0
  writes := []
  boRail := 0
  boValid := false
  boCount := 0

/-- Thermal page after power-on reset. -/
def ThermSt.reset : ThermSt where
  warn := 95
  throt := 105
  trip := 120
  hyst := 3
  temps := Vector.replicate 64 0
  failed := 0
  atTrip := 0
  warned := false
  tripped := false
  tripSeen := false
  tripCount := 0
  sel := 0

/-- Bring-up page after power-on reset: step RAILS, level FULL. -/
def BringSt.reset : BringSt where
  ctlLevel := 0
  step := 1
  sub := 0
  fail := 0
  level := 0
  warm := false
  refused := false
  degraded := false
  ignoredReset := false
  readyEvent := false
  reached := false
  elapsedNs := 0
  active := 0
  good := 0
  failedCores := 0
  spared := 0
  disagree := 0
  laneMaps := 0
  selClus := 0
  selCore := 0
  tMax := 0
  guard := 0
  disClus := 0
  disCore := 0
  disState := 0
  disValid := false
  lmap := Vector.replicate 40 63
  waves := 0
  place := 0
  lbist := []
  storeBad := []
  sramBad := []
  points := []
  compBusy := false
  compCount := 0
  teardowns := 0
  debugRefused := 0

/-- Interconnect test after power-on reset. -/
def ItestSt.reset : ItestSt := ⟨0, 0, false, false, 0, 0, false, false, 0, 0, 0, 0⟩
/-- The TAP after TRST_N. -/
def JtagSt.reset : JtagSt := ⟨2, 0, false, ⟨Boundary.idle, false, false, false⟩, Boundary.idle, false, 0, false, [], [], []⟩
/-- Die trap summary and errors after power-on reset. -/
def DieErrSt.reset : DieErrSt := ⟨false, false, 0, 0, 0, 0, 0, 0, false, 0, 0, 63, 63, 0, 0, 0, 0, false⟩
/-- Program store after power-on reset. -/
def StoreSt.reset : StoreSt := ⟨[], 0, 0, false⟩
/-- Scrub after power-on reset. -/
def ScrubSt.reset : ScrubSt := ⟨true, 16, 0, 0, false, 0⟩
/-- Translation cache after power-on reset. -/
def TcSt.reset : TcSt := ⟨[], [], 0, [], 0, 0⟩
/-- Tracker after power-on reset. -/
def TrkSt.reset : TrkSt := ⟨0, [], 0, Vector.replicate 4 0, 0, 0, 0, 2048⟩
/-- Ridge page after power-on reset. -/
def RidgeSt.reset : RidgeSt := ⟨false, 0, 0, false, 0, 0⟩
/-- Identity page after power-on reset. -/
def IdentSt.reset : IdentSt := ⟨0, 0, 0, false, false, false, 0, 0, 0, false⟩

end Sys2Proof.Machine
end

