-- ==== Sys2Proof/Machine/State.lean ====
section
/-! DEFINITION. The state of one Gretis die, the two reasons a command could stop, and the state right after power-on reset. -/
namespace Sys2Proof.Machine

/-- Why the block could stop with a fault. No command stops: every event has the effect the spec gives it. -/
inductive Fault where
  /-- Raised by no command (safe): the spec gives the die no state in which it stops answering. -/
  | stuck
  deriving DecidableEq, Repr

/-- Why a command could be refused. -/
inductive Refusal where
  /-- Raised by an arm of exec whose command has no meaning yet (safe). -/
  | notModelled (mnemonic : String)
  deriving DecidableEq, Repr

/-- The die. -/
structure State where
  /-- Commands that wait, first in, first out. -/
  pending : List Instr
  /-- Cores by 68·cluster + core, physical numbers. -/
  cores : SMap Core
  /-- Physical clusters. -/
  clusters : SMap Cluster
  /-- Sequencers and massifs 0..3. -/
  seqs : Vector Seq 4
  store : StoreSt
  tb : TimeSt
  scrub : ScrubSt
  tc : TcSt
  trk : TrkSt
  err : DieErrSt
  /-- Common headers by page number (register address bits [25:12]). -/
  evts : SMap Evt
  cols : Vector ColSt 16
  ridge : RidgeSt
  disc : DiscSt
  itest : ItestSt
  jtag : JtagSt
  pm : PmSt
  therm : ThermSt
  fuse : FuseSt
  bring : BringSt
  ident : IdentSt
  pins : PinSt
  /-- Packets in transit on the ridge network, in the order in which they entered it. -/
  net : List Packet
  /-- Arrivals at input ports so far; and transfers of an output port since a class that waits there was last granted, by
  (router·64 + port)·8 + class (R371). -/
  netNext : Nat
  netWait : SMap Nat
  deriving DecidableEq, Repr

/-- The die right after the release of power-on reset, its queue empty. -/
def State.reset : State where
  pending := []
  cores := []
  clusters := []
  seqs := Vector.replicate 4 Seq.reset
  store := StoreSt.reset
  tb := TimeSt.reset
  scrub := ScrubSt.reset
  tc := TcSt.reset
  trk := TrkSt.reset
  err := DieErrSt.reset
  evts := []
  cols := Vector.replicate 16 ColSt.reset
  ridge := RidgeSt.reset
  disc := DiscSt.reset true
  itest := ItestSt.reset
  jtag := JtagSt.reset
  pm := PmSt.reset
  therm := ThermSt.reset
  fuse := FuseSt.reset
  bring := BringSt.reset
  ident := IdentSt.reset
  pins := ⟨true, true, false, false, false, false⟩
  net := []
  netNext := 0
  netWait := []

end Sys2Proof.Machine
end

