-- ==== Sys2Proof/Machine/Ops.lean ====
section
/-! DEFINITION. Named operations over the die: the tables of cores, clusters and sequencers, logical and physical numbers
(R20), the massif a core serves (R481), events (R525), activity counts (R440), and the conditions under which the die acts. -/
namespace Sys2Proof.Machine

/-! ## Tables -/

/-- The key of a core. -/
def coreKey (c : CoreId) : Nat := 68 * c.clus.val + c.core.val
/-- A core. -/
def getCore (s : State) (c : CoreId) : Core := smGet Core.reset s.cores (coreKey c)
/-- A core replaced. -/
def setCore (s : State) (c : CoreId) (k : Core) : State := { s with cores := smSet Core.reset s.cores (coreKey c) k }
/-- A core changed. -/
def modCore (c : CoreId) (f : Core → Core) (s : State) : State := setCore s c (f (getCore s c))
/-- A cluster. -/
def getClus (s : State) (p : PClus) : Cluster := smGet Cluster.reset s.clusters p.val
/-- A cluster replaced. -/
def setClus (s : State) (p : PClus) (k : Cluster) : State := { s with clusters := smSet Cluster.reset s.clusters p.val k }
/-- A cluster changed. -/
def modClus (p : PClus) (f : Cluster → Cluster) (s : State) : State := setClus s p (f (getClus s p))
/-- A sequencer. -/
def getSeq (s : State) (m : Massif) : SeqSt := (s.seqs.get m).seq
/-- A massif. -/
def getMassif (s : State) (m : Massif) : MassifSt := (s.seqs.get m).massif
/-- A sequencer changed. -/
def modSeq (m : Massif) (f : SeqSt → SeqSt) (s : State) : State :=
  { s with seqs := s.seqs.set m { s.seqs.get m with seq := f (s.seqs.get m).seq } }
/-- A massif changed. -/
def modMassif (m : Massif) (f : MassifSt → MassifSt) (s : State) : State :=
  { s with seqs := s.seqs.set m { s.seqs.get m with massif := f (s.seqs.get m).massif } }
/-- Summit state of a massif changed. -/
def modSummit (m : Massif) (f : SummitSt → SummitSt) (s : State) : State :=
  modMassif m (fun k => { k with summit := f k.summit }) s
/-- A col. -/
def getCol (s : State) (c : Col) : ColSt := s.cols.get c
/-- A col changed. -/
def modCol (c : Col) (f : ColSt → ColSt) (s : State) : State := { s with cols := s.cols.set c (f (s.cols.get c)) }

/-- All physical clusters, cores of a cluster, cols, massifs. -/
def allClus : List PClus := List.finRange 42
def allPCores : List PCore := List.finRange 68
def allCols : List Col := List.finRange 16
def allMassifs : List Massif := List.finRange 4

/-! ## When the die acts -/

/-- The die has power and is out of power-on reset (R535, R537). -/
def awake (s : State) : Bool := s.pins.aon && !s.pins.porst && !s.pins.brownOut
/-- The effect of a command on a die that acts; the die is unchanged otherwise (log entry 2). -/
def whenAwake (s : State) (f : State → State) : Host.Outcome State Fault Refusal := .next (if awake s then f s else s)
/-- Bring-up has reached READY (R463). -/
def isReady (s : State) : Bool := s.bring.step == 0xA

/-! ## Identity -/

/-- Lines of every ledge (R8, R239). -/
def dieLines (s : State) : Nat := if s.fuse.variant == 2 then 256 else 384
/-- The variant's cluster count (R9). -/
def variantClusters (s : State) : Nat := if s.fuse.variant == 1 then 32 else 40
/-- Cols that are not fused off (R9). -/
def colMask (s : State) : BitVec 16 := if s.fuse.variant == 3 then 0x0FFF else 0xFFFF
/-- FEAT_MX6: clear when either DIE_CAP or the negotiated mask has it clear (R86, R111, R429, R528). -/
def featMx6 (s : State) : Bool := s.disc.negotiated.getLsbD 0 && s.fuse.features.getLsbD 0
/-- FEAT_EPOCH, by the same two. -/
def featEpoch (s : State) : Bool := s.disc.negotiated.getLsbD 1 && s.fuse.features.getLsbD 1

/-- The physical cluster of a logical one. -/
def physClus (s : State) (l : Nat) : Option PClus :=
  if h : l < 40 then
    let p := (s.bring.lmap.get ⟨l, h⟩).toNat
    if hp : p < 42 then some ⟨p, hp⟩ else none
  else none
/-- Physical cores that are ACTIVE in a cluster, ascending. -/
def activeCores (k : Cluster) : List PCore := allPCores.filter (fun q => k.repair.active.getLsbD q.val)
/-- The logical number of a physical core: its rank among the active ones. -/
def logCore (k : Cluster) (q : PCore) : Nat := ((activeCores k).filter (fun r => r.val < q.val)).length
/-- The core of a logical pair, when it exists. -/
def physCore (s : State) (lclus lcore : Nat) : Option CoreId :=
  match physClus s lclus with
  | none => none
  | some p => ((activeCores (getClus s p))[lcore]?).map (fun q => ⟨p, q⟩)

/-- The massif state in which its clusters belong to it (R481, R482). -/
def massifHolds (k : MassifSt) : Bool := k.state != .none
/-- The massif whose member a physical cluster is. -/
def massifOfClus (s : State) (p : PClus) : Option Massif :=
  let l := (getClus s p).repair.lclus.toNat
  allMassifs.find? (fun m => massifHolds (getMassif s m) && l < 40 && (getMassif s m).members.getLsbD l)
/-- The massif a core serves: an active core of a member cluster. -/
def massifOf (s : State) (c : CoreId) : Option Massif :=
  if (getClus s c.clus).repair.active.getLsbD c.core.val then massifOfClus s c.clus else none
/-- The logical clusters of a massif, ascending. -/
def memberClus (k : MassifSt) : List Nat := (List.range 40).filter (fun l => k.members.getLsbD l)
/-- The physical clusters of a massif. -/
def massifClus (s : State) (m : Massif) : List PClus := (memberClus (getMassif s m)).filterMap (physClus s)
/-- The active cores of a massif. -/
def massifCores (s : State) (m : Massif) : List CoreId :=
  (massifClus s m).flatMap (fun p => (activeCores (getClus s p)).map (fun q => ⟨p, q⟩))
/-- MCLUS_IDX of a physical cluster in its massif (R74). -/
def mclusIdx (s : State) (m : Massif) (p : PClus) : Nat :=
  let l := (getClus s p).repair.lclus.toNat
  ((memberClus (getMassif s m)).filter (fun k => k < l)).length

/-- What the operations of a core take from outside the core. -/
def coreEnv (s : State) (c : CoreId) (lcs : List Nat) (faults : List ReadFault) : Env :=
  let k := getClus s c.clus
  match massifOf s c with
  | some m =>
    let ms := getMassif s m
    { lines := dieLines s, trapMode := ms.runTrapMode, seed := ms.runSeed, seedLocal := ms.runSeedMode, mx6 := featMx6 s,
      coreIdx := logCore k c.core, clusIdx := k.repair.lclus.toNat, mclusIdx := mclusIdx s m c.clus,
      mclusCount := (memberClus ms).length, dieIdx := s.disc.id.toNat, massifIdx := m.val, lcs := lcs, faults := faults }
  | none =>
    { lines := dieLines s, trapMode := 0, seed := 0, seedLocal := false, mx6 := featMx6 s, coreIdx := logCore k c.core,
      clusIdx := k.repair.lclus.toNat, mclusIdx := 0, mclusCount := 0, dieIdx := s.disc.id.toNat, massifIdx := 0, lcs := lcs,
      faults := faults }

/-! ## Pages and events -/

/-- Page numbers of R520. -/
def pageSeq (m : Massif) : Nat := 4 + m.val
def pageCol (c : Col) : Nat := 0x10 + c.val
def pageClus (p : PClus) : Nat := 0x400 + 0x100 * p.val
def pageCoreA (c : CoreId) : Nat := pageClus c.clus + 0x10 + 2 * c.core.val
def pageCoreB (c : CoreId) : Nat := pageCoreA c + 1

/-- An event raised in a page's header, by the register at an offset (R525). -/
def raiseEvt (page off : Nat) (s : State) : State :=
  let e := smGet Evt.reset s.evts page
  let e' := { e with pending := true, count := satInc 32 e.count, word := if e.pending then e.word else BitVec.ofNat 9 (off / 8) }
  { s with evts := smSet Evt.reset s.evts page e' }

/-! ## Activity counts (R440, R442) -/

/-- n events of a code counted at a stamping point, with a class and a massif (4 for none). -/
def countAt (pt code cls : Nat) (m : Option Massif) (n : Nat) (s : State) : State :=
  if n = 0 then s
  else
    let k := smGet StampSt.reset s.pm.stamps pt
    let key := code * 64 + cls * 8 + (match m with | some m => m.val | none => 4)
    { s with pm := { s.pm with stamps := smSet StampSt.reset s.pm.stamps pt { k with cur := smSet 0 k.cur key (smGet 0 k.cur key + n) } } }
/-- n events of a code in a core's cluster. -/
def countCore (c : CoreId) (code n : Nat) (s : State) : State := countAt c.clus.val code 0 (massifOfClus s c.clus) n s

/-- The number of the present window in the order of windows: those of the timebase, and those that the oscillator times while
the timebase holds (R439). -/
def windowNow (s : State) : Nat := s.tb.count.toNat / 4096 + s.tb.oscNs / 4096
/-- The present timebase count. -/
def now (s : State) : Nat := s.tb.count.toNat

end Sys2Proof.Machine
end

