-- ==== Sys2Proof/Machine/Network.lean ====
section
/-! DEFINITION. The ridge network and the cols as carriers: mesh and routes (R367..R376), message form and malformed
messages (R402..R405), the col a message leaves by (R426), credits and tags at an egress (R398, R399, R402). -/
namespace Sys2Proof.Machine

/-! ## Mesh and routes -/

/-- Mesh position of a physical cluster (R367). -/
def meshX (p : Nat) : Nat := p % 7
def meshY (p : Nat) : Nat := p / 7
/-- Numbers from a to b, both included, in either direction. -/
def walkTo (a b : Nat) : List Nat := if a ≤ b then (List.range (b - a + 1)).map (a + ·) else (List.range (a - b + 1)).map (a - ·)
/-- Routers of the X-then-Y path, both ends included. -/
def xyPath (a b : Nat) : List Nat :=
  (walkTo (meshX a) (meshX b)).map (fun x => 7 * meshY a + x) ++ ((walkTo (meshY a) (meshY b)).drop 1).map (fun y => 7 * y + meshX b)
/-- Hops of an X-then-Y path. -/
def hopsOf (a b : Nat) : Nat := (xyPath a b).length - 1
/-- No router of the path is disabled. -/
def pathClear (en : BitVec 42) (l : List Nat) : Bool := l.all (fun p => en.getLsbD p)

/-- A route: NONE, DIRECT, or VIA w, with its hops (R374, R375). -/
inductive Route where
  | none
  | direct (hops : Nat)
  | via (w hops : Nat)
  deriving DecidableEq, Repr

/-- The route of an ordered pair of routers (R375). -/
def routeOf (en : BitVec 42) (a b : Nat) : Route :=
  if a = b || a ≥ 42 || b ≥ 42 || !en.getLsbD a || !en.getLsbD b then .none
  else if pathClear en (xyPath a b) then .direct (hopsOf a b)
  else
    let ws := (List.range 42).filter (fun w => en.getLsbD w && w != a && w != b && pathClear en (xyPath a w) && pathClear en (xyPath w b))
    match ws.foldl (fun (best : Option (Nat × Nat)) w =>
      let h := hopsOf a w + hopsOf w b
      match best with
      | none => some (w, h)
      | some (_, h') => if h < h' then some (w, h) else best) none with
    | none => .none
    | some (w, h) => .via w h
/-- Hops of a route. -/
def routeHops : Route → Nat
  | .none => 0
  | .direct h => h
  | .via _ h => h
/-- Routers a packet passes, both ends included. -/
def routePath (en : BitVec 42) (a b : Nat) : List Nat :=
  if a = b then [a]
  else match routeOf en a b with
    | .none => []
    | .direct _ => xyPath a b
    | .via w _ => xyPath a w ++ (xyPath w b).drop 1

/-- The router a col attaches to (R368). -/
def colRouter (c : Col) : Nat := #v[1, 2, 4, 5, 13, 20, 27, 34, 40, 39, 37, 36, 28, 21, 14, 7].get c
/-- The router of the die-level port (R368). -/
def diePort : Nat := 3

/-- Flits of a packet with a payload of n bytes: the header carries the first 64 (R369). -/
def packetFlits (n : Nat) : Nat := if n ≤ 64 then 1 else 1 + (n - 64 + 127) / 128
/-- Flits leave router r by an output port; over a channel of the mesh they count as forwarded by one hop (R369, R442). -/
def flitsOut (r : Nat) (mesh : Bool) (cls : Nat) (m : Option Massif) (flits : Nat) (s : State) : State :=
  if h : r < 42 then
    let s := modClus ⟨r, h⟩ (fun k => { k with flits := k.flits + BitVec.ofNat 64 flits }) s
    if mesh then countAt (42 + r) 0x0A cls m flits s else s
  else s
/-- A unit of the spine has failed parity (R495, R508), by its ERR_DIE.UNIT code. -/
def failedUnit (s : State) (u : BitVec 4) : Bool := s.err.fatal && s.err.cause == 3 && s.err.unit == u
/-- A router or its route table has failed parity: what crosses it is discarded (R508). -/
def failedRouter (s : State) (r : Nat) : Bool := (failedUnit s 1 || failedUnit s 2) && r == s.err.router.toNat
/-- Nothing passes from router a to router b: the way crosses a router that has failed (R508), or, once routes are set, there is none
since one of the two is disabled (R376; for the die-level port, DEDUCED, log entry 121). -/
def crossesFailed (s : State) (a b : Nat) : Bool :=
  (routePath s.ridge.en a b).any (failedRouter s) || (s.ridge.routed && !(s.ridge.en.getLsbD a && s.ridge.en.getLsbD b))

/-! ## Message form (R402..R405) -/

/-- The channel of a type; link messages have none (R403, R404). -/
def bodyVc : MsgBody → Option Nat
  | .idle | .credit _ | .hello _ | .linkDown _ => none
  | .summit _ | .csig _ => some 0
  | .rdata _ | .wack => some 1
  | .lread _ | .mread _ => some 2
  | .lwrite _ | .mwrite _ => some 3
  | .walkRd _ | .walkRsp _ | .regRd _ | .regWr _ _ | .regRsp _ | .disc _ => some 4
  | .telem _ => some 5
  | .other _ => none
/-- Payload cells of a DISC operation (R419). -/
def discCells : DiscOp → Nat
  | .position a => if a.hub then 0 else 1
  | .report _ => 8
  | .routes _ _ => 3
  | .alignRsp _ _ => 1
  | _ => 0
/-- Payload cells of a message (R403). -/
def bodyCells : MsgBody → Nat
  | .telem a => (a.payload.length + 15) / 16
  | .lwrite a => (a.cnt1.toNat + 16) / 16 + (if a.mask.isSome then (a.cnt1.toNat + 128) / 128 else 0)
  | .mwrite a => 16 + (if a.mask.isSome then 2 else 0)
  | .rdata bs => (bs.length + 15) / 16
  | .disc op => discCells op
  | _ => 0
/-- Payload bytes that a message carries across the ridge, masks apart (R369). -/
def bodyBytes : MsgBody → Nat
  | .telem a => a.payload.length
  | .lwrite a => a.cnt1.toNat + 1
  | .mwrite _ => 256
  | .rdata bs => bs.length
  | _ => 0
/-- Ridge class of a message (R370). -/
def bodyClass (b : MsgBody) : Nat :=
  match b with
  | .rdata _ | .wack | .walkRsp _ | .regRsp _ => 1
  | .lread _ | .mread _ | .walkRd _ | .regRd _ | .regWr _ _ => 2
  | .lwrite _ | .mwrite _ => 3
  | .telem _ => 4
  | _ => 0
/-- LEN of a message: its cells after cell 0 (R402). R461 gives TELEM's by its payload cells (log entry 76). -/
def bodyLen : MsgBody → Nat
  | .telem a => bodyCells (.telem a)
  | b => if (bodyVc b).isNone then 0 else 1 + bodyCells b
/-- Cells of a message by its header; TELEM has one that its LEN does not count. -/
def msgCells (m : Msg) : Nat := 1 + m.hdr.len.toNat + (match m.body with | .telem _ => 1 | _ => 0)
/-- The channel that a received message's cells took: its TYPE's, and a reserved TYPE's by the VC field. The TYPEs 0x00..0x07 are of link
messages, which enter no channel (R404). -/
def msgVc (m : Msg) : Option Nat :=
  match m.body with
  | .other t => if 8 ≤ t.toNat && m.hdr.vc.toNat < 6 then some m.hdr.vc.toNat else none
  | b => bodyVc b
/-- Link-partner code 0xF is allowed in DISC and in register messages only (R401). -/
def allowsPartner : MsgBody → Bool
  | .disc _ | .regRd _ | .regWr _ _ | .regRsp _ => true
  | _ => false
/-- The message is a request or a write, which expects a response. -/
def isRequest : MsgBody → Bool
  | .lread _ | .mread _ | .lwrite _ | .mwrite _ | .walkRd _ | .regRd _ | .regWr _ _ => true
  | _ => false
/-- A message is a write. -/
def isWriteMsg : MsgBody → Bool
  | .lwrite _ | .mwrite _ => true
  | _ => false
/-- Reserved endpoint codes (R401). -/
def badCode (e : BitVec 4) : Bool := 0xC ≤ e.toNat && e.toNat ≤ 0xE
/-- Whether a receiver in a state finds a message malformed (R405). -/
def malformed (st : ColState) (m : Msg) : Bool :=
  let h := m.hdr
  let vc := (bodyVc m.body).getD 0
  h.rsvd || h.vc.toNat != vc || h.len.toNat != bodyLen m.body || badCode h.src || badCode h.dst ||
    ((h.src == 0xF || h.dst == 0xF) && !(allowsPartner m.body && h.src == 0xF && h.dst == 0xF)) ||
    (match m.body with
      | .lwrite a => a.data.length != a.cnt1.toNat + 1 || (match a.mask with | some k => k.length != a.cnt1.toNat + 1 | none => false)
      | .mwrite a => a.data.length != 256 || (match a.mask with | some k => k.length != 256 | none => false)
      | .rdata bs => bs.length == 0 || bs.length > 1024
      | .telem a => (a.kind == 0 && a.payload.length != 16) || (a.kind == 1 && a.payload.length != 96)
      | .disc (.reserved _) | .other _ => true
      | _ => false) ||
    (st == .mgmtOnly && vc != 4)

/-- The own endpoint code (0xF before discovery has assigned one). -/
def ownCode (s : State) : BitVec 4 := if s.disc.idValid then s.disc.id else 0xF

/-- The header of a message the die sends; LEN and VC follow from the body, SLACK is set when it is sent (R402). -/
def mkHdr (s : State) (dst : BitVec 4) (tag : BitVec 14) (status : BitVec 3) (job : BitVec 32) (b : MsgBody) : MsgHdr where
  vc := BitVec.ofNat 3 ((bodyVc b).getD 0)
  len := BitVec.ofNat 7 (bodyLen b)
  host := false
  src := if dst == 0xF then 0xF else ownCode s
  dst := dst
  tag := tag
  slack := 0
  status := status
  nodue := true
  job := job
  rsvd := false
  joins := false

/-! ## Which col (R425, R426) -/

/-- Cols of a route entry, in preference order. -/
def entryCols (e : RouteEntry) : List Col := (List.range (min 4 e.count.toNat)).map (fun j => (bitsAt e.cols (4 * j) 4).toFin)
/-- Entries shared. -/
def entrySpread (e : RouteEntry) : Nat := min (max 1 e.spread.toNat) (min 4 e.count.toNat)
/-- A col is UP; UP or MGMT_ONLY. -/
def colUp (s : State) (c : Col) : Bool := (getCol s c).state == .up
def colMgmt (s : State) (c : Col) : Bool := (getCol s c).state == .up || (getCol s c).state == .mgmtOnly
/-- The route entry of an endpoint code 0x0..0xB. -/
def routeEntry (s : State) (dst : BitVec 4) : Option RouteEntry :=
  if h : dst.toNat < 12 then some (s.disc.routes.get ⟨dst.toNat, h⟩) else none

/-- The col a message for an endpoint takes: its channel, the physical cluster it entered at, and the logical core or
MPA bits [11:8] of a REQ or DATA message (R426). -/
def egressCol (s : State) (dst : BitVec 4) (vc src mix : Nat) : Option Col :=
  match routeEntry s dst with
  | none => none
  | some e =>
    if vc = 4 then
      let c : Col := e.mcol.toFin
      if e.mvalid && colMgmt s c then some c else none
    else
      let cols := entryCols e
      let spread := (cols.take (entrySpread e)).filter (colUp s)
      if (vc = 2 || vc = 3) && !spread.isEmpty then spread[(src + mix) % spread.length]?
      else cols.find? (colUp s)

/-! ## Egress (R386, R398, R399, R402) -/

/-- SLACK of a message sent now (R308). -/
def slackOf (s : State) (due : Int) : BitVec 20 :=
  let d := due - (now s : Int)
  BitVec.ofInt 20 (if d > 524287 then 524287 else if d < -524288 then -524288 else d)
/-- The due time a receiver sets (R308). -/
def dueOf (s : State) (h : MsgHdr) : Option Int := if h.nodue then none else some ((now s : Int) + h.slack.toInt - 32)

/-- Energy class of a channel's col flits (R460). -/
def vcClass (vc : Nat) : Nat := if vc = 4 then 5 else if vc = 5 then 4 else vc
/-- Flits of a message that begins at cell 0 of a flit (R386). -/
def msgFlits (m : Msg) : Nat := (msgCells m + 14) / 15

/-- Flits that a message begins, after so many cells of the flit before it (R386). -/
def flitsBegun (fill cells : Nat) : Nat := (fill + cells + 14) / 15 - (if fill = 0 then 0 else 1)
/-- Cells sent: they go on in the flit in progress, or begin a new one, and the flits they begin are counted (R386, R410, R442). -/
def putCells (c : Col) (cells cls : Nat) (m : Option Massif) (s : State) : State :=
  let fill := (getCol s c).fill
  let flits := flitsBegun fill cells
  countAt (84 + c.val) 0x0B cls m flits
    (modCol c (fun k => { k with txFlits := k.txFlits + BitVec.ofNat 32 flits, fill := (fill + cells) % 15 }) s)
/-- Cells received: those of a message that does not join the flit of the message before it begin a flit (R386, R410, R442). -/
def takeCells (c : Col) (joins : Bool) (cells cls : Nat) (s : State) : State :=
  let fill := if joins then (getCol s c).rxFill else 0
  let flits := flitsBegun fill cells
  countAt (84 + c.val) 0x0C cls none flits
    (modCol c (fun k => { k with rxFlits := k.rxFlits + BitVec.ofNat 32 flits, rxFill := (fill + cells) % 15, failedReplays := 0 }) s)
/-- DISC's ALIGN_REQ and ALIGN_RSP carry the times of their departure at the PHY (R424). -/
def stampSent (now : BitVec 64) : MsgBody → MsgBody
  | .disc (.alignReq _) => .disc (.alignReq now)
  | .disc (.alignRsp t2 _) => .disc (.alignRsp t2 now)
  | b => b
/-- This end's own stamp of an ALIGN_REQ as it departs (R424). -/
def alignStamp (b : MsgBody) (s : State) : State :=
  match b with
  | .disc (.alignReq _) => { s with disc := { s.disc with t1 := some s.tb.count } }
  | _ => s
/-- A message put on a col's wire, its flits charged to the massif of the core it comes from. -/
def putWire (c : Col) (m : Msg) (src : Option Massif) (s : State) : State :=
  putCells c (msgCells m) (vcClass m.hdr.vc.toNat) src (modCol c (fun k => { k with
    wire := k.wire ++ [⟨{ m.hdr with joins := k.fill != 0 }, m.body⟩] }) s)
/-- A link message put on the wire (R404). -/
def putLink (c : Col) (b : MsgBody) (s : State) : State :=
  let h : MsgHdr := ⟨0, 0, false, 0, 0, 0, 0, 0, false, 0, false, false⟩
  modCol c (fun k => { k with wire := k.wire ++ [⟨h, b⟩] }) s
/-- A link message sent; it needs no credit. It begins a flit, the egress being idle (R386). Its cell is charged to class 6, since it enters
no channel (DESIGN CHOICE, log entry 123). -/
def sendLink (c : Col) (b : MsgBody) (s : State) : State := putCells c 1 6 none (modCol c (fun k => { k with fill := 0 }) (putLink c b s))

/-- The lowest TAG free at this col, and free at every col where one is (R402). -/
def freeTag (s : State) (c : Col) : Option (BitVec 14) :=
  let used (k : ColSt) (t : Nat) : Bool := (smGet none k.owed t).isSome
  let n := allCols.foldl (fun a d => a + (getCol s d).owed.length) 0
  match ((List.range (min (n + 1) 16383)).map (· + 1)).find? (fun t => allCols.all (fun d => !used (getCol s d) t)) with
  | some t => some (BitVec.ofNat 14 t)
  | none => (((List.range 16383).map (· + 1)).find? (fun t => !used (getCol s c) t)).map (BitVec.ofNat 14)

/-- The order in which channels are served (R399). -/
def vcOrder : List Nat := [0, 4, 1, 2, 3, 5]

/-- A message of the die's own that expects a response needs a free TAG; a forwarded one keeps its TAG (R402, R427). -/
def needsTag (w : Option Waiting) : Bool := w.isSome

/-- The number of an acknowledgement's write, and the core that waits for it. -/
def ackCore : AckTo → Option (CoreId × Nat)
  | .put c _ id => some (c, id)
  | .stream c _ id => some (c, id)
  | .release c id _ => some (c, id)
  | _ => none
/-- A write or a signal of a core of this die at an egress: its core, and the core or block that it is for. -/
def egressTarget (e : EgressItem) : Option (CoreId × BitVec 4 × Nat × Nat) :=
  match e.wait, e.msg.body with
  | none, .csig b => e.signalOf.map (fun k => (k.1, e.msg.hdr.dst, b.lclus.toNat, b.lcore.toNat))
  | some (.write a _ _ _), .lwrite b => (ackCore a).map (fun k => (k.1, e.msg.hdr.dst, b.lclus.toNat, b.lcore.toNat))
  | some (.write a _ _ _), .mwrite b => (ackCore a).map (fun k => (k.1, e.msg.hdr.dst, 64, b.block.toNat))
  | _, _ => none
/-- A released item of a core. -/
def egressRelease (e : EgressItem) : Bool :=
  (match e.wait with | some (.write (.release _ _ _) _ _ _) => true | _ => false) || (match e.signalOf with | some (_, _, r) => r | none => false)
/-- A core's signal has left this die, or has been dropped (R334). -/
def signalGone (e : Option (CoreId × Nat × Bool)) (s : State) : State :=
  match e with
  | some (c, n, _) => modCore c (fun k => { k with xfer := { k.xfer with outSignals := k.xfer.outSignals.erase n } }) s
  | none => s
/-- A write or a signal at an egress follows the released items of its core for the same target that stand before it (R361). -/
def behindRelease (l : List EgressItem) (i : Nat) (e : EgressItem) : Bool :=
  (egressTarget e).isSome && (l.take i).any (fun f => egressRelease f && egressTarget f == egressTarget e)

/-- What waits at a point of arbitration is served in this order: promoted ones first, the longest waiting of them foremost, then by
due time; equals in the order of arrival at the point (R309, R310). -/
def servedBefore (p q : Bool) (sp sq : BitVec 64) (dp dq : Option Int) (ap aq : Nat) : Bool :=
  if p != q then p
  else if p && sp != sq then sp.toNat < sq.toNat
  else if p || dp = dq then ap < aq
  else match dp, dq with
    | some x, some y => x < y
    | some _, none => true
    | none, _ => false
/-- The place in the egress of the next message of a channel: in due-time order with age promotion in REQ and DATA, else the
oldest (R309, R310, R399). -/
def egressHead (vc : Nat) (l : List EgressItem) : Option Nat :=
  let idx := (List.range l.length).filter (fun i => match l[i]? with | some e => e.msg.hdr.vc.toNat == vc && !behindRelease l i e | none => false)
  if vc = 2 || vc = 3 then
    idx.foldl (fun best i =>
      match best with
      | none => some i
      | some b => match l[i]?, l[b]? with
        | some e, some f => if servedBefore e.promoted f.promoted e.since f.since e.due f.due i b then some i else some b
        | _, _ => some b) none
  else idx.head?

/-- Sends the next message of a channel when credits, the port's state and a TAG allow it. -/
def pumpVc (c : Col) (vc : Nat) (s : State) : Option State :=
  let k := getCol s c
  match egressHead vc k.egress with
  | none => none
  | some i =>
    match k.egress[i]? with
    | none => none
    | some e =>
      let cells := msgCells e.msg
      let ok := (k.state == .up || (k.state == .mgmtOnly && vc == 4)) && k.credits.getD vc 0 ≥ cells
      let tag := if needsTag e.wait then freeTag s c else some e.msg.hdr.tag
      match ok, tag with
      | true, some t =>
        let h := { e.msg.hdr with tag := t }
        let h := match e.due with | some d => { h with nodue := false, slack := slackOf s d } | none => { h with nodue := true, slack := 0 }
        some (putWire c ⟨h, stampSent s.tb.count e.msg.body⟩ e.massif (alignStamp e.msg.body (signalGone e.signalOf (modCol c (fun k => { k with
          egress := k.egress.eraseIdx i
          credits := if hv : vc < 6 then k.credits.set vc (k.credits.getD vc 0 - cells) else k.credits
          owed := match e.wait with | some w => smSet none k.owed t.toNat (some w) | none => k.owed }) s))))
      | _, _ => none

/-- Channels whose next message can be sent, in the order in which they are served, each with the state after it. -/
def pumpReady (c : Col) (s : State) : List (Nat × State) := vcOrder.filterMap (fun vc => (pumpVc c vc s).map (fun t => (vc, t)))
/-- The counts of R399 after a message of channel vc: the lower channels of those that were ready have waited once more. -/
def skipNote (ready : List Nat) (vc : Nat) (l : Vector Nat 6) : Vector Nat 6 :=
  let rank (u : Nat) : Nat := (vcOrder.findIdx? (· == u)).getD 6
  Vector.ofFn (fun u => if u.val = vc || !ready.contains u.val then 0 else if rank vc < rank u.val then l.get u + 1 else l.get u)
/-- Sends all that can be sent, n messages at most: the first channel that has waited through 32 messages of higher ones, else the
first that can send (R399). -/
def pump (c : Col) : Nat → State → State
  | 0, s => s
  | n + 1, s =>
    let l := pumpReady c s
    let skips := (getCol s c).skips
    match (l.find? (fun e => 32 ≤ skips.toList.getD e.1 0)).or l.head? with
    | some (vc, t) => pump c n (modCol c (fun k => { k with skips := skipNote (l.map (·.1)) vc k.skips }) t)
    | none => s
/-- What can be sent is sent; the egress was idle, so that it begins a new flit (R386). -/
def pumpAll (c : Col) (s : State) : State := pump c ((getCol s c).egress.length + 1) (modCol c (fun k => { k with fill := 0 }) s)

/-- A message queued at a col's egress, and what can be sent sent. -/
def enqueue (c : Col) (e : EgressItem) (s : State) : State :=
  pumpAll c (modCol c (fun k => { k with egress := k.egress ++ [{ e with since := s.tb.count, promoted := false }] }) s)
/-- A message of this link alone queued (R401, R418, R337). -/
def enqueueLink (c : Col) (m : Msg) (w : Option Waiting) (due : Option Int) (s : State) : State :=
  enqueue c ⟨m, w, due, none, none, 0, false, none, none⟩ s

/-! ## Packets in transit (R370..R374, R309, R310) -/

/-- Port numbers of a router besides its neighbours'. -/
def portCluster : Nat := 42
def portCol : Nat := 43
def portDie : Nat := 44
/-- The port of a router at which something enters or leaves: the die-level port's, the cluster's for a core or a cluster, else the col's. -/
def portOf (cluster : Bool) (r : Nat) : Nat := if cluster then portCluster else if r = diePort then portDie else portCol
/-- Class of a packet (R370). -/
def netClass (p : Packet) : Nat :=
  match p.what with
  | .land _ => 3
  | .read _ => 2
  | .pass cls _ _ => cls
  | .out _ e => bodyClass e.msg.body
/-- The massif of this die that a packet comes from. -/
def netMassif (p : Packet) : Option Massif :=
  match p.what with
  | .land w => w.srcMassif
  | .read r => r.srcMassif
  | .pass _ _ m => m
  | .out _ e => e.massif
/-- The port by which a packet leaves the network. -/
def netLast (p : Packet) : Nat := match p.what with | .land _ | .read _ => portCluster | .pass _ out _ => out | .out _ _ => portCol
/-- The output port a packet asks for. -/
def netOut (p : Packet) : Nat := match p.path with | _ :: n :: _ => n | _ => netLast p
/-- A packet enters the network at a router's port, on lane 0 (R374). -/
def netPut (src dst inp : Nat) (flits : Nat) (due : Option Int) (what : NetItem) (s : State) : State :=
  let via := match routeOf s.ridge.en src dst with | .via w _ => some w | _ => none
  { s with
    net := s.net ++ [⟨what, flits, due, routePath s.ridge.en src dst, via, false, inp, s.tb.count, false, s.netNext, 0⟩]
    netNext := s.netNext + 1 }
/-- Two packets wait in one FIFO: of an input port, a class and a lane (R371). -/
def sameFifo (p q : Packet) : Bool := p.path.head? == q.path.head? && p.inp == q.inp && netClass p == netClass q && p.lane == q.lane
/-- The head of the FIFO in which a packet waits. -/
def fifoHead (l : List Packet) (p : Packet) : Packet := l.foldl (fun h q => if sameFifo q p && q.arrival < h.arrival then q else h) p
/-- Heads of FIFOs that ask for an output port of router r. -/
def portHeads (l : List Packet) (r out : Nat) : List Packet :=
  l.filter (fun p => p.path.head? == some r && netOut p == out && (fifoHead l p).arrival == p.arrival)
/-- Of the heads of one class and lane, the one whose flits are leaving keeps the port until its last (R371). -/
def portOpen (hs : List Packet) : List Packet :=
  hs.filter (fun p => p.sent > 0 || !hs.any (fun q => q.sent > 0 && netClass q == netClass p && q.lane == p.lane))
/-- Key of a class's count at an output port. -/
def waitKey (r out cls : Nat) : Nat := (r * 64 + out) * 8 + cls
/-- The packet to which an output port grants its next transfer, among the heads that can move: of a class that has waited through 32
transfers, else of the highest class; within REQ and DATA by R309 and R310, within the others in arrival order (R371). -/
def portGrant (s : State) (can : Packet → Bool) (r out : Nat) : Option Packet :=
  let hs := portOpen ((portHeads s.net r out).filter can)
  let cls := [0, 1, 2, 3, 4].filter (fun k => hs.any (fun p => netClass p == k))
  match (cls.find? (fun k => 32 ≤ smGet 0 s.netWait (waitKey r out k))).or cls.head? with
  | none => none
  | some k => (hs.filter (fun p => netClass p == k)).foldl (fun best p => match best with
      | none => some p
      | some b => if servedBefore p.promoted b.promoted p.since b.since p.due b.due p.arrival b.arrival then some p else some b) none
/-- Transfers of an output port to a packet are counted for the other classes that wait there, and its own has been granted (R371). -/
def noteGrant (can : Packet → Bool) (g : Packet) (flits : Nat) (s : State) : State :=
  let r := g.path.headD 0
  let out := netOut g
  let waits (k : Nat) : Bool := ((portHeads s.net r out).filter can).any (fun p => netClass p == k && p.arrival != g.arrival)
  let note (m : SMap Nat) (k : Nat) : SMap Nat :=
    smSet 0 m (waitKey r out k) (if k = netClass g || !waits k then 0 else smGet 0 m (waitKey r out k) + flits)
  flitsOut r (2 ≤ g.path.length) (netClass g) (netMassif g) flits { s with netWait := [0, 1, 2, 3, 4].foldl note s.netWait }
/-- A packet whose last flit leaves a router counts there when it was promoted (R310). -/
def notePromoted (g : Packet) (s : State) : State :=
  let r := g.path.headD 0
  if h : r < 42 then (if g.promoted then modClus ⟨r, h⟩ (fun k => { k with promoted := satInc 32 k.promoted }) s else s) else s
/-- A granted packet leaves the network whole by its cluster's port, as its command has it (log entry 122). -/
def netMove (can : Packet → Bool) (g : Packet) (s : State) : State :=
  let s := notePromoted g (noteGrant can g g.flits s)
  { s with net := s.net.erase g }
/-- One flit of a granted packet is transferred. With its last the packet is at the next router, on lane 1 from the router at which it
changes lane (R374), or it has left the network; one for a col is then at its egress. -/
def netFlit (can : Packet → Bool) (g : Packet) (s : State) : State :=
  let r := g.path.headD 0
  let s := noteGrant can g 1 s
  if g.sent + 1 < g.flits then { s with net := s.net.map (fun p => if p = g then { p with sent := p.sent + 1 } else p) }
  else
    let s := notePromoted g s
    if 2 ≤ g.path.length then { s with
      net := s.net.map (fun p => if p = g then { p with
        path := p.path.drop 1, inp := r, lane := p.lane || p.via == some r, since := s.tb.count, promoted := false, arrival := s.netNext
        sent := 0 } else p)
      netNext := s.netNext + 1 }
    else
      let s := { s with net := s.net.erase g }
      match g.what with
      | .out c e => enqueue c e s
      | _ => s
/-- A packet that leaves by its cluster's port with its own command only: a landing or a read for a core. -/
def netHeld (p : Packet) : Bool := (match p.what with | .land _ | .read _ => true | _ => false) && netOut p == portCluster
/-- The packet of an arrival number travels as far as arbitration lets it: whatever its FIFOs and ports serve before it goes on first. The
answer says whether its target's cluster port grants a packet that leaves there with its command, and under which arrival number it then
waits. Nothing else moves: which of those packets travel when is the commands' (log entry 122). -/
def netDrive (can : State → Packet → Bool) : Nat → Nat → State → State × Bool × Nat
  | a, 0, s => (s, false, a)
  | a, f + 1, s =>
    match s.net.find? (fun p => p.arrival == a) with
    | none => (s, false, a)
    | some p =>
      let h := fifoHead s.net p
      match h.path.head? with
      | none => (s, false, a)
      | some r =>
        match portGrant s (can s) r (netOut h) with
        | none => (s, false, a)
        | some g =>
          if netHeld g then (s, g.arrival == p.arrival, a)
          else netDrive can (if g.arrival == a && g.flits ≤ g.sent + 1 then s.netNext else a) f (netFlit (can s) g s)
/-- Transfers that the packets in transit have before them. -/
def netFuel (s : State) : Nat := s.net.foldl (fun a p => a + p.flits * p.path.length + 1) 1
/-- What can move without a command: all but what is held for one at its cluster's port. -/
def netFree (_ : State) (p : Packet) : Bool := !netHeld p
/-- Messages on their way to a col go on when what stood before them has gone (R371): one after another, n at most. -/
def netSettle : Nat → State → State
  | 0, s => s
  | n + 1, s =>
    match s.net.findSome? (fun p => match p.what with
        | .out _ _ => let t := (netDrive netFree p.arrival (netFuel s) s).1; if t.net == s.net then none else some t
        | _ => none) with
    | some t => netSettle n t
    | none => s
/-- A packet that has just entered travels to where it leaves the network, or as far as it can. -/
def netCross (src dst inp flits : Nat) (due : Option Int) (what : NetItem) (s : State) : State :=
  let t := netPut src dst inp flits due what s
  let t := (netDrive netFree s.netNext (netFuel t) t).1
  netSettle (netFuel t) t
/-- A packet crosses the ridge from a port of router a to a port of router b, and what it brings is taken there at once: a packet of class
SIGNAL, RSP or BG, which endpoints accept without condition (R373), or a request for a block of the die-level port. One without a route is
lost. -/
def ridgePass (a b out cls : Nat) (m : Option Massif) (flits : Nat) (s : State) : State :=
  if crossesFailed s a b then s
  else
    let s := netCross a b (portOf m.isSome a) flits none (.pass cls out m) s
    { s with net := s.net.filter (fun p => match p.what with | .pass _ _ _ => false | _ => true) }
/-- Such a packet for a cluster, or a core of it. -/
def ridgeMove (a b cls : Nat) (m : Option Massif) (flits : Nat) (s : State) : State := ridgePass a b portCluster cls m flits s
/-- Such a packet for a block of the die-level port. -/
def ridgeDie (a cls : Nat) (m : Option Massif) (flits : Nat) (s : State) : State := ridgePass a diePort portDie cls m flits s

/-- A message for which no col is available is answered, or dropped, at the col it would have taken first (R393, R426; which one is a
DESIGN CHOICE, log entry 124). -/
def noCol (dst : BitVec 4) (b : MsgBody) (s : State) : State :=
  let vc := (bodyVc b).getD 0
  match (routeEntry s dst).bind (fun e => if vc = 4 then (if e.mvalid then some (e.mcol.toFin : Col) else none) else (entryCols e).head?) with
  | none => s
  | some c =>
    if isRequest b then modCol c (fun k => { k with absents := satInc 16 k.absents }) s
    else if vc = 0 then modCol c (fun k => { k with signalsDropped := satInc 16 k.signalsDropped }) s
    else s
/-- A message taken across the ridge to a col's egress (R370, R371). -/
def toCol (c : Col) (e : EgressItem) (src : Nat) (s : State) : State :=
  netCross src (colRouter c) (portOf e.massif.isSome src) (packetFlits (bodyBytes e.msg.body)) e.due (.out c e) s
/-- A message for an endpoint goes from a router of this die to the egress of the col that it takes; false when no col is available (R426). -/
def sendItem (dst : BitVec 4) (e : EgressItem) (src mix : Nat) (s : State) : State × Bool :=
  match (egressCol s dst ((bodyVc e.msg.body).getD 0) src mix).filter (fun c => !crossesFailed s src (colRouter c)) with
  | none => (noCol dst e.msg.body s, false)
  | some c => (toCol c e src s, true)
/-- A message for an endpoint, from a router of this die; false when no col is available (R426). -/
def sendTo (dst : BitVec 4) (b : MsgBody) (tag : BitVec 14) (status : BitVec 3) (job : BitVec 32) (src mix : Nat)
    (m : Option Massif) (w : Option Waiting) (due : Option Int) (answers : Option Col) (s : State) : State × Bool :=
  sendItem dst ⟨⟨mkHdr s dst tag status job b, b⟩, w, due, m, some (src, mix), 0, false, answers, none⟩ src mix s
/-- A core's CSIG for another die, with its number (R334). -/
def sendSig (dst : BitVec 4) (b : MsgBody) (job : BitVec 32) (src : Nat) (m : Option Massif) (n : CoreId × Nat × Bool) (s : State) :
    State × Bool :=
  sendItem dst ⟨⟨mkHdr s dst 0 0 job b, b⟩, none, none, m, some (src, 0), 0, false, none, some n⟩ src 0 s

/-- A response to an endpoint's request, with the JOB_TAG of the massif whose core sends it (R402); dropped when no col is available. -/
def respond (dst : BitVec 4) (b : MsgBody) (tag : BitVec 14) (status : BitVec 3) (src : Nat) (m : Option Massif) (due : Option Int)
    (answers : Option Col) (s : State) : State :=
  (sendTo dst b tag status (match m with | some m => (getMassif s m).jobTag | none => 0) src 0 m none due answers s).1

/-- The credits of a message given back to the partner (R398). -/
def returnCredit (c : Col) (m : Msg) (s : State) : State :=
  match msgVc m with
  | none => s
  | some vc => sendLink c (.credit ((Vector.replicate 6 0).setIfInBounds vc (BitVec.ofNat 16 (msgCells m)))) s

end Sys2Proof.Machine
end

