-- ==== Sys2Proof/Machine/Cairns.lean ====
section
/-! DEFINITION. Cairns and landings (chapter 13): counts (R321), windows (R330), acceptance (R326, R327), absent targets
(R380) and the record of absent answers (R383). -/
namespace Sys2Proof.Machine

/-! ## Counts and windows -/

/-- n added to cairn k of a core (R321). -/
def cairnAdd (k n : Nat) (c : CairnSt) : CairnSt :=
  let v := smGet 0 c.counts k + n
  if v < 2 ^ 32 then { c with counts := smSet 0 c.counts k v }
  else { c with counts := smSet 0 c.counts k (2 ^ 32 - 1), ovf := true }

/-- The window of cairn k is open. -/
def cairnOpen (c : CairnSt) (k : Nat) : Bool := !smGet false c.closed k

/-- A signal that the window refuses (R330). -/
def cairnLate (k : Nat) (c : CairnSt) : CairnSt :=
  let c := { c with late := smSet 0 c.late k (satInc 16 (smGet 0 c.late k)), lateAny := true }
  if c.firstLateValid then c else { c with firstLate := BitVec.ofNat 6 k, firstLateValid := true }

/-- A signal meets the window of cairn k of core t (R330). -/
def windowSignal (t : CoreId) (k : Nat) (s : State) : State :=
  let c := (getCore s t).cairn
  if cairnOpen c k then modCore t (fun q => { q with cairn := cairnAdd k 1 q.cairn }) s
  else
    let s' := modCore t (fun q => { q with cairn := cairnLate k q.cairn }) s
    if c.lateAny then s' else raiseEvt (pageCoreB t) 0x610 s'

/-! ## Acceptance (R326..R328) -/

/-- The core exists, is out of reset and belongs to a massif (R380, rows 2 and 3). -/
def present (s : State) (t : CoreId) : Bool := (getCore s t).presence == .on && (massifOf s t).isSome

/-- A sender's write or signal is accepted at t: same massif on this die; equal job tags that are not 0 between dies. -/
def accepts (s : State) (t : CoreId) (srcMassif : Option Massif) (job : BitVec 32) (host : Bool) : Bool :=
  host ||
    (match srcMassif, massifOf s t with
    | some m, some k => m == k
    | none, some k => job == (getMassif s k).jobTag && job != 0
    | _, none => false)

/-- A refused landing or signal recorded at the target (R327). -/
def landRefuse (t : CoreId) (die : BitVec 4) (s : State) : State :=
  modCore t (fun q =>
    let c := { q.cairn with dropCount := satInc 32 q.cairn.dropCount }
    { q with cairn := if c.dropValid then c else { c with dropDie := die, dropValid := true } }) s

/-- A signal message reaches core t of this die (R326, R330). -/
def signalCore (t : CoreId) (k : BitVec 6) (die : BitVec 4) (srcMassif : Option Massif) (job : BitVec 32) (s : State) : State :=
  if !present s t then s
  else if accepts s t srcMassif job false then windowSignal t k.toNat s
  else landRefuse t die s

/-! ## Absent answers (R383) -/

/-- An ABSENT answer received by a core of cluster p, for a target. -/
def noteAbsent (p : PClus) (die : BitVec 4) (lclus : BitVec 6) (lcore : BitVec 7) (write : Bool) (s : State) : State :=
  modClus p (fun k =>
    let k := { k with absentCount := satInc 32 k.absentCount }
    if k.absentValid then k
    else { k with absentDie := die, absentLclus := lclus, absentLcore := lcore, absentWrite := write, absentValid := true }) s

/-- An ABSENT answer received by a block of the die itself. -/
def noteDieAbsent (s : State) : State := { s with ridge := { s.ridge with dieAbsent := satInc 32 s.ridge.dieAbsent } }

end Sys2Proof.Machine
end

