-- ==== Sys2Proof/Machine/Ceiling.lean ====
section
/-! DEFINITION. Voltage targets and speed ceilings (chapter 01: R37, R39; chapter 18: R436, R448..R454; chapter 19: R467): the
quadrant a cluster lies in, demands and guards, quad_target, pm_limit and the effective ceiling of a core. -/
namespace Sys2Proof.Machine

/-- Quadrant of a physical cluster (R436). -/
def quadOf (p : Nat) : Fin 4 := if meshY p < 3 then (if meshX p < 4 then 0 else 1) else (if meshX p < 4 then 2 else 3)
/-- Physical clusters of a quadrant. -/
def quadClus (q : Fin 4) : List PClus := allClus.filter (fun p => quadOf p.val == q)

/-- The quadrant voltage of R37: the lower of the target and the last readback (R438). -/
def quadVoltage (s : State) (q : Fin 4) : Nat := min (s.pm.quads.get q).target.toNat (s.pm.quads.get q).readback.toNat

/-- interp() over the four characterised points, rounded down (R37). -/
def interpCeil (c : Vector (BitVec 16) 4) (mv : Nat) : Nat :=
  let at_ (i : Nat) : Int := ((c.getD i 0).toNat : Int)
  let line (i lo : Nat) : Nat := (at_ i + ((at_ (i + 1) - at_ i) * ((mv : Int) - lo)).fdiv 100).toNat
  if mv ≤ 550 then (at_ 0).toNat
  else if mv ≤ 650 then line 0 550
  else if mv ≤ 750 then line 1 650
  else if mv ≤ 850 then line 2 750
  else (at_ 3).toNat

/-- CORE_CEIL.CHAR of a core. -/
def coreChar (s : State) (c : CoreId) : Nat := interpCeil (getCore s c).issue.charCeil (quadVoltage s (quadOf c.clus.val))

/-- Eighths of the halved ceiling that the droop clamp leaves: 4, 5, 6, 7 at its steps; none when it is off (R452, R453). -/
def clampEighths (k : Cluster) : Option Nat := if k.droopActive then some (4 + k.droopStep.toNat) else none

/-- The memory test holds its arrays, at pace 0 (R469). -/
def retentionHold (s : State) : Bool := s.bring.step == 7 && s.bring.sub == 15
/-- pm_limit() of R451. -/
def pmLimit (s : State) (c : CoreId) : Nat :=
  let q := s.pm.quads.get (quadOf c.clus.val)
  let k := min s.pm.kPace q.thermPace
  let v := if k < 32 then coreChar s c * k / 32 else 0xFFF
  let cl := getClus s c.clus
  let v := match clampEighths cl with
    | some e => min v (smGet 0 cl.droopBase c.core.val * e / 8)
    | none => v
  if s.therm.tripped || retentionHold s then 0 else v

/-- CORE_CEIL.EFFECTIVE (R37). A derate of more than the interpolated value leaves 0 (DESIGN CHOICE, log entry 128). -/
def effective (s : State) (c : CoreId) : Nat :=
  let i := (getCore s c).issue
  min (min (coreChar s c - 4 * i.ageDerate.toNat) (pmLimit s c)) (max i.hostLimit.toNat 250)

/-- EFFECTIVE, or what stands for it while it reads 0 (R307). -/
def rateOf (s : State) (c : CoreId) : Nat :=
  let e := effective s c
  if e = 0 then (getCore s c).xfer.dlCeil else e

/-! ## Demand and target -/

/-- The sequencer of a massif is in RUNNING or STOPPING. -/
def running (s : State) (m : Massif) : Bool := (getSeq s m).state == .running || (getSeq s m).state == .stopping

/-- v_f of R448: the lowest 5 mV step from 550 at which every core of the massif in the quadrant reaches the follow rate. -/
def followVolt (s : State) (m : Massif) (q : Fin 4) : Nat :=
  let cs := (massifCores s m).filter (fun c => quadOf c.clus.val == q)
  let rate := (getMassif s m).summit.rate.toNat
  let ok (v : Nat) : Bool := cs.all (fun c =>
    interpCeil (getCore s c).issue.charCeil v - 4 * (getCore s c).issue.ageDerate.toNat ≥ rate)
  (((List.range 61).map (fun i => 550 + 5 * i)).find? ok).getD 850

/-- V_REQ as it acts: rounded down to 5 mV and clamped. -/
def vReqMv (k : MassifSt) : Nat := max 550 (min 850 (k.vReq.toNat / 5 * 5))
/-- demand(m) in a quadrant (R448). -/
def demand (s : State) (m : Massif) (q : Fin 4) : Nat :=
  let k := getMassif s m
  if running s m then
    if k.summit.followActive then min (vReqMv k) (followVolt s m q) else vReqMv k
  else 550

/-- The guard of a hint class (R449). -/
def classGuard (c : BitVec 3) : Int := match c.toNat with | 0 => 20 | 1 => 10 | 2 => 5 | 3 => 0 | 4 => -15 | _ => -25

/-- guard(m): the greatest guard of the hints in force (R449). -/
def guardOf (s : State) (m : Massif) : Int :=
  if !s.pm.hintEn then 0
  else
    let t : Int := now s
    let fs := ((getSeq s m).hints.filter (fun h => h.ts - (s.pm.hintLead.toNat : Int) ≤ t && t < h.te)).map (fun h => classGuard h.cls)
    match fs with
    | [] => 0
    | g :: gs => gs.foldl max g

/-- V_FLOOR as it acts: rounded down to 5 mV and clamped. -/
def vFloorMv (s : State) : Nat := max 550 (min 850 (s.pm.vFloor.toNat / 5 * 5))
/-- Massifs with an active cluster in a quadrant. -/
def quadMassifs (s : State) (q : Fin 4) : List Massif :=
  allMassifs.filter (fun m => (massifClus s m).any (fun p => quadOf p.val == q))
/-- d of R450: massifs that are not running ask for nothing. -/
def quadDemand (s : State) (q : Fin 4) : Int :=
  ((quadMassifs s q).filter (running s)).foldl (fun d m => max d ((demand s m q : Int) + guardOf s m)) 550
/-- t of R450 before the boost. -/
def quadUnboosted (s : State) (q : Fin 4) : Int :=
  let d := quadDemand s q
  let cap : Nat := if (quadMassifs s q).any (running s) then s.pm.capV else 0
  let t := max (d - 5 * cap) (min d (vFloorMv s))
  min t (d - 5 * (s.pm.quads.get q).thermV)

/-- The targets of a bring-up step in turn, in mV, each with SUB (R467..R471). The retention pauses follow the marches, each a target of
its own at 550 mV (R467, R469; that they come after the last march is a DESIGN CHOICE, log entry 35). -/
def stepTargets (level : BitVec 2) (step : Nat) : List (Nat × BitVec 4) :=
  match step with
  | 6 => if level == 1 then [(750, 0)] else [(550, 0), (850, 1)]
  | 7 => if level == 1 then (750, 0) :: List.replicate 2 (550, 15) else [(550, 0), (750, 1), (850, 2)] ++ List.replicate 4 (550, 15)
  | 8 => [(550, 0), (650, 1), (750, 2), (850, 3)]
  | _ => [(750, 0)]
/-- A quadrant holds a powered cluster. -/
def quadPowered (s : State) (q : Fin 4) : Bool := (quadClus q).any (fun p => (getClus s p).repair.powered)
/-- bringup_voltage (R467). RAILS writes every quadrant (chapter 23). -/
def bringupVoltage (s : State) (q : Fin 4) : Nat :=
  let step := s.bring.step.toNat
  if step = 1 then 750
  else if !quadPowered s q then 550
  else ((stepTargets s.bring.level step)[s.bring.place]?.map (·.1)).getD 750

/-- The bring-up sequence is in progress (steps 0x1..0x9). -/
def bringingUp (s : State) : Bool := 1 ≤ s.bring.step.toNat && s.bring.step.toNat ≤ 9

/-- quad_target() of R450. -/
def quadTarget (s : State) (q : Fin 4) : Nat :=
  if s.therm.tripped then 550
  else if bringingUp s then bringupVoltage s q
  else
    let t := quadUnboosted s q + 5 * (s.pm.quads.get q).boost
    let t := t.fdiv 5 * 5
    (if t < 550 then 550 else if t > 850 then 850 else t).toNat

/-- One quadrant's target evaluated; a change is queued for the AVSBus (R539) and marks the window (R446). -/
def retargetQuad (s : State) (q : Fin 4) : State :=
  let k := s.pm.quads.get q
  let t := BitVec.ofNat 10 (quadTarget s q)
  if t == k.target then s
  else { s with pm := { s.pm with
    quads := s.pm.quads.set q { k with target := t, changed := true }
    writes := s.pm.writes.filter (fun w => w.1 != q) ++ [(q, t)] } }
/-- Every quadrant's target evaluated. -/
def retarget (s : State) : State := (List.finRange 4).foldl retargetQuad s

/-! ## Throttle level (R454) -/

/-- The throttle level of a quadrant. -/
def quadThrottle (s : State) (q : Fin 4) : Nat :=
  let k := min s.pm.kPace (s.pm.quads.get q).thermPace
  if k < 32 then 8 + min 7 ((32 - k) / 4)
  else
    let x := quadDemand s q - quadUnboosted s q
    if x ≤ 0 then 0 else min 7 ((x.toNat + 19) / 20)
/-- The die's level: the greatest over quadrants that hold an active cluster. -/
def dieThrottle (s : State) : Nat :=
  (List.finRange 4).foldl (fun a q =>
    if (quadClus q).any (fun p => (getClus s p).repair.state == .active && (getClus s p).repair.lclus.toNat < 40) then max a (quadThrottle s q) else a) 0

/-! ## Due times (R307) -/

/-- What due_time() takes at a moment: the timebase, the core's beat, and the ceiling. -/
def duePoint (s : State) (c : CoreId) : Nat × BitVec 48 × Nat := (now s, (getCore s c).issue.beat, rateOf s c)
/-- due_time(): the timebase tick at which a core reaches a deadline beat, as computed at a moment. -/
def dueFrom (p : Nat × BitVec 48 × Nat) (d : BitVec 48) : Int := (p.1 : Int) + ((d - p.2.1).toInt * 1000).tdiv p.2.2
/-- The due time of a deadline beat, computed now. -/
def dueTime (s : State) (c : CoreId) (d : BitVec 48) : Int := dueFrom (duePoint s c) d

end Sys2Proof.Machine
end

