-- ==== Sys2Proof/Machine/Runs.lean ====
section
/-! DEFINITION. The beginning of a run: what START does once every TXPUT of the massif has been acknowledged (R59, R99, R175,
R209, R226, R232, R233, R238, R265, R268, R324, R348, R504). -/
namespace Sys2Proof.Machine

/-- A core's issue state at START (R59). -/
def startIssue (i : IssueSt) : IssueSt :=
  { i with
    beat := 0, wrapped := false, waitCause := .fifoEmpty, waitUnits := 0, halted := false, ofs := Vector.replicate 32 0, pfs := 1
    guards := 0x3F, ext := none, ended := false }
/-- A core's ledge at START: records cleared, tags invalid, and the zero-fill of R268 queued when cache mode ends. -/
def startLedge (lines : Nat) (cacheWas cacheEn : Bool) (l : LedgeSt) : LedgeSt :=
  let zero := if cacheWas && !cacheEn then (List.range 128).map (fun i => (BgReq.zero (lines - 128 + i), 1)) else []
  { l with
    bg := l.bg ++ zero, outOfRange := false, cacheRegion := false, oorAddr := 0, oorRegion := false, oorReq := 0, oorValid := false
    oorCount := 0, tags := [], fills := l.fills.map (fun f => { f with stale := true }), hits := 0, misses := 0, cacheActive := cacheEn }
/-- A handle's records at START. -/
def startStream (x : Stream) : Stream :=
  { x with errored := false, fcode := 0, fwrite := false, flevel := 0, fvalid := false, fchunk := 0, fva := 0, fidx := [0, 0, 0, 0, 0], fdesc := 0 }
/-- A core's transfer counters at START. -/
def startXfer (x : XferSt) : XferSt :=
  { x with
    streams := x.streams.map startStream, chunksSig := 0, absentPuts := 0, faults := 0, cancelBytes := 0, misses := 0, lateMax := 0
    dlCeil := 250 }
/-- A core's cairns at START (R324); arrivals stand (R336), those withheld among them whose bundles have issued. -/
def startCairn (c : CairnSt) : CairnSt :=
  { c with
    counts := [], closed := [], late := [], lateAny := false, ovf := false, swaitEmpty := false, disabledCtx := false, firstLate := 0
    firstLateValid := false, dropCount := 0, dropDie := 0, dropValid := false, waitKind := 0, waitIdx := 0, waitNeed := 0, made := 0
    released := 0, scree := 0, arrivals := c.arrivals.map (fun a => (a.1, a.2.map (fun r => { r with waiting := false })))
    withheld := (c.withheld.map (fun e => (e.1, e.2.filter (fun w => !w.2.2)))).filter (fun e => !e.2.isEmpty) }
/-- A core's recovery state at START: the hard-error record and everything in flight cleared, CORE_RERUN kept. -/
def startErr (e : ErrSt) : ErrSt := { ErrSt.reset with reruns := e.reruns, gateDropped := e.gateDropped }

/-- A core at START. -/
def startCore (lines : Nat) (cacheWas cacheEn : Bool) (k : Core) : Core :=
  { k with
    issue := startIssue k.issue
    mxe := { MxeSt.reset with laneColumn := k.mxe.laneColumn, laneBit := k.mxe.laneBit, laneValid := k.mxe.laneValid }
    ost := OstSt.reset
    vxe := { VxeSt.reset with selVreg := k.vxe.selVreg, selWord := k.vxe.selWord }
    trap := TrapSt.reset
    ledge := startLedge lines cacheWas cacheEn k.ledge
    xfer := startXfer k.xfer
    cairn := startCairn k.cairn
    epoch := { EpochSt.reset with next := k.epoch.next }
    err := startErr k.err }

/-- A cluster at the START of its massif: an empty FIFO and a cleared trap summary (R238). -/
def startClus (k : Cluster) : Cluster :=
  { k with
    fifo := [], trapValid := false, trapMultiple := false, trapCause := 0, trapEngine := 0, trapCore := 0, trapStamp := 0 }

/-- The sequencer at START (R59). -/
def startSeq (tick : BitVec 64) (q : SeqSt) : SeqSt :=
  { q with
    state := .running, result := .ok, haltCause := .none, wdogExpired := false, hold := .none, file := q.params, mark := 0, markBeat := 0
    fetchAddr := q.entry, startPend := false, nextBeat := 0, lcs := Vector.replicate 4 0, loops := [], sentHalt := false
    atClean := false, occ := Vector.replicate 5 0, marks := [], wdogBeat := 0, wdogTick := tick, wdogActed := false }
/-- The massif at START: what the run takes from its registers (R175, R233, R261). -/
def startMassif (k : MassifSt) : MassifSt :=
  { k with
    runSeed := k.seed, runSeedMode := k.seedMode, runTrapMode := k.trapMode, haltPending := false, cacheRun := k.cacheEn
    txErrored := false, missRaised := false, dlMisses := 0, heldFull := false }

/-- No TXPUT or released item of the massif's cores waits for its acknowledgement (R324). -/
def putsAcked (s : State) (m : Massif) : Bool := (massifCores s m).all (fun c => (getCore s c).xfer.outWrites.isEmpty)

/-- The zero-fill commands of a START that ends cache mode, one to each cluster of the massif (R268, R370; log entry 125). -/
def startFills (m : Massif) (s : State) : State :=
  let k := getMassif s m
  if k.cacheRun && !k.cacheEn then (massifClus s m).foldl (fun s p => ridgeMove diePort p.val 4 none 1 s) s else s
/-- A run begins. -/
def startRun (m : Massif) (s : State) : State :=
  let cs := massifCores s m
  let ps := massifClus s m
  let lines := dieLines s
  let was := (getMassif s m).cacheRun
  let en := (getMassif s m).cacheEn
  let s := modMassif m startMassif (modSeq m (startSeq s.tb.count) (startFills m s))
  let s := cs.foldl (fun s c => modCore c (startCore lines was en) s) s
  let s := ps.foldl (fun s p => modClus p startClus s) s
  retarget s

/-- A region as half-open block numbers. -/
def regionOf (q : SeqSt) : Nat × Nat := (q.base.toNat, q.base.toNat + q.size.toNat)
/-- The region overlaps another bound region (R50). -/
def regionOverlap (s : State) (m : Massif) : Bool :=
  let (a, b) := regionOf (getSeq s m)
  allMassifs.any (fun k => k != m && (getSeq s k).size != 0 && (let (c, d) := regionOf (getSeq s k); a < d && c < b))
/-- The tests of R547 for a command: entry (CHECK, START), destination (LOAD), CHECKED (START). -/
def seqTests (s : State) (m : Massif) (entry dest checked : Bool) : Option SeqResult :=
  let q := getSeq s m
  if q.size == 0 || q.base.toNat + q.size.toNat > 2048 then some .region
  else if regionOverlap s m then some .overlap
  else if entry && 128 * q.size.toNat ≤ q.entry.toNat then some .region
  else if dest && (q.loadCount == 0 || 128 * q.size.toNat < q.loadDest.toNat + q.loadCount.toNat) then some .region
  else if checked && !q.checked then some .notChecked
  else none

/-- A START that waits for acknowledgements proceeds once the last has come (R324). Its region, its entry and CHECKED are tested again
then, since registers and the store may have been written in the meantime (DESIGN CHOICE, log entry 34). -/
def startIfAcked (m : Massif) (s : State) : State :=
  if (getSeq s m).startPend && putsAcked s m then
    match seqTests s m true false true with
    | some r => modSeq m (fun q => { q with startPend := false, result := r }) s
    | none => startRun m s
  else s

end Sys2Proof.Machine
end

