-- ==== Sys2Proof/Machine/Streams.lean ====
section
/-! DEFINITION. Streams (chapters 11, 12, 14): the state of a handle, where writes go and what a held-write store does with
them (R350..R356), signals in chunk order (R290), how a stream stops, ends and drains (R297, R301, R302), and descriptor
execution (R277, R278, R305). -/
namespace Sys2Proof.Machine

/-! ## Access -/

/-- A stream of a core, read and changed. -/
def getStream (s : State) (c : CoreId) (x : Fin 8) : Stream := (getCore s c).xfer.streams.get x
def modXfer (c : CoreId) (f : XferSt → XferSt) (s : State) : State := modCore c (fun k => { k with xfer := f k.xfer }) s
def modStream (c : CoreId) (x : Fin 8) (f : Stream → Stream) (s : State) : State :=
  modXfer c (fun q => { q with streams := q.streams.set x (f (q.streams.get x)) }) s
def modLedge (c : CoreId) (f : LedgeSt → LedgeSt) (s : State) : State := modCore c (fun k => { k with ledge := f k.ledge }) s
/-- One ledge cycle of descriptor decoding (R274). -/
def decodeCycle (c : CoreId) (s : State) : State := modXfer c (fun f => { f with decodeA := f.decodeA - 1, decodeB := f.decodeB - 1 }) s
/-- A released item is numbered; it has landed or been dropped (R366). -/
def relNumber (c : CoreId) (n : Nat) (s : State) : State :=
  modCore c (fun k => { k with
    xfer := { k.xfer with nextWrite := n + 1, outWrites := k.xfer.outWrites ++ [n] }, epoch := { k.epoch with relOut := k.epoch.relOut ++ [n] } }) s
def relDone (c : CoreId) (n : Nat) (s : State) : State :=
  modCore c (fun k => { k with epoch := { k.epoch with relOut := k.epoch.relOut.filter (· != n) } }) s
/-- A run of a chunk changed. -/
def modChunk (c : CoreId) (x : Fin 8) (n : Nat) (f : ChunkRun → ChunkRun) (s : State) : State :=
  modStream c x (fun q => { q with chunks := q.chunks.map (fun r => if r.num = n then f r else r) }) s
/-- A request changed. -/
def modReq (c : CoreId) (x : Fin 8) (id : Nat) (f : TxReq → TxReq) (s : State) : State :=
  modStream c x (fun q => { q with reqs := q.reqs.map (fun r => if r.id = id then f r else r) }) s
/-- A background request posted at a core's ledge. -/
def postBg (c : CoreId) (b : BgReq) (slots : Nat) (s : State) : State := modLedge c (fun l => { l with bg := l.bg ++ [(b, slots)] }) s

/-- A die code names this die. -/
def ownDie (s : State) (die : Nat) : Bool := die == 15 || (s.disc.idValid && die == s.disc.id.toNat)
/-- The die's own code in records and messages (R3). -/
def dieCode (s : State) : BitVec 4 := ownCode s
/-- The core of this die that a ledge unit names, when it exists. -/
def unitCore (s : State) : XUnit → Option CoreId
  | .mem _ => none
  | .led die lc lk _ => if ownDie s die then physCore s lc lk else none
/-- A unit lies in the core's own ledge. -/
def unitOwn (s : State) (c : CoreId) (u : XUnit) : Bool := unitCore s u == some c
/-- JOB_TAG of the massif a core serves. -/
def coreJob (s : State) (c : CoreId) : BitVec 32 := match massifOf s c with | some m => (getMassif s m).jobTag | none => 0

/-- The lowest chunk that has been stopped. -/
def stopChunk (q : Stream) : Option ChunkRun := q.chunks.find? (fun r => r.fault.isSome)
/-- Chunk n is at or after the stop: nothing more of it is issued (R297). -/
def stopped (q : Stream) (n : Nat) : Bool := match stopChunk q with | some r => r.num ≤ n | none => false

/-- Deadline of chunk n of the descriptor in execution (R305). -/
def curDeadline (d : CurDesc) (n : Nat) : Option (BitVec 48) := d.base.map (fun b => b + BitVec.ofNat 48 ((n - d.first) * d.per))
/-- Deadline of a chunk that has not signalled. -/
def chunkDeadline (q : Stream) (n : Nat) : Option (BitVec 48) :=
  match q.chunks.find? (fun r => r.num = n) with
  | some r => r.deadline
  | none => match q.cur with
    | some d => if d.first ≤ n && n < d.first + d.count then curDeadline d n else none
    | none => none
/-- From what a stream's due times follow at present; an untracked stream has none (R307, R312). -/
def dueNow (s : State) (c : CoreId) (q : Stream) : Option (Nat × BitVec 48 × Nat) := if q.tracked then some (duePoint s c) else none
/-- The due time of a deadline (R307). -/
def streamDue (s : State) (c : CoreId) (q : Stream) (d : Option (BitVec 48)) : Option Int :=
  (dueNow s c q).bind (fun p => d.map (dueFrom p))

/-- A rerun is under way at a core: its bundle has effects that are still to come. -/
def rerunning (s : State) (c : CoreId) : Bool := !(getCore s c).err.rerun.isEmpty

/-! ## Held-write stores (R354..R356) -/

/-- Slots and entries in use. -/
def storeSlots (k : Cluster) : Nat := k.held.foldl (fun a h => if h.counted then a + h.slots else a) 0
def storeEntries (k : Cluster) : Nat := (k.held.filter (·.counted)).length
/-- An item of so many slots fits. -/
def storeFits (k : Cluster) (entries slots : Nat) : Bool := storeSlots k + k.gateSlots + slots ≤ 768 && storeEntries k + k.gateEntries + entries ≤ 1024
/-- It is a waiter's turn: space is granted in request order (R356). -/
def storeTurn (k : Cluster) (w : HeldWaiter) : Bool := match k.heldWait with | [] => true | h :: _ => h == w
/-- A waiter leaves the queue. -/
def storeUnwait (p : PClus) (w : HeldWaiter) (s : State) : State := modClus p (fun k => { k with heldWait := k.heldWait.filter (· != w) }) s
/-- An item placed last in placement order. -/
def placeHeld (p : PClus) (h : HeldItem) (s : State) : State :=
  let s := modClus p (fun k =>
    let k := { k with held := k.held ++ [h] }
    { k with slotsHwm := max k.slotsHwm (storeSlots k) }) s
  countAt p.val 0x09 0 (massifOfClus s p) h.slots s
/-- A request that found no space at its first attempt waits, and is counted (HW_STORE_STAT.FULL_COUNT, EPOCH_MSTAT.HELD_FULL). -/
def noteFull (p : PClus) (w : HeldWaiter) (s : State) : State :=
  let s := modClus p (fun k => { k with heldFull := satInc 15 k.heldFull, heldWait := k.heldWait ++ [w] }) s
  match massifOfClus s p with
  | some m => modMassif m (fun k => { k with heldFull := true }) s
  | none => s
/-- What has become of an epoch, through the merges it took part in (R359). -/
def epochFate (e : EpochSt) : Nat → Nat → EpochFate × Nat
  | 0, n => (.opened, n)
  | f + 1, n => match smGet .opened e.fate n with
    | .merged k => epochFate e f k
    | v => (v, n)
/-- The fate of the epoch that an item belongs to. -/
def fateNow (s : State) (c : CoreId) (n : Nat) : EpochFate × Nat := let e := (getCore s c).epoch; epochFate e (e.fate.length + 1) n
/-- Words of 64 bytes that a mask touches. -/
def maskWords (mask : List Nat) : Nat := ((mask.map (· / 64)).eraseDups).length

/-! ## Sending -/

/-- Masked bytes as a run of n bytes from an offset, with the mask when it has holes. -/
def runBytes (bytes : Mem) (lo n : Nat) : List Byte := memRead bytes lo n
def runMask (mask : List Nat) (lo n : Nat) : Option (List Bool) :=
  let l := (List.range n).map (fun i => mask.contains (lo + i))
  if l.all id then none else some l

/-- A write leaves core c: onto the ridge for a core of this die, or to a col. The answer is false when it is absent at once (R380). -/
def sendOut (c : CoreId) (w : OutWrite) (s : State) : State × Bool :=
  let m := massifOf s c
  let job := coreJob s c
  if 8 ≤ w.die.toNat && w.die.toNat < 12 then
    let block := BitVec.ofNat 32 (w.off / 256)
    sendTo w.die (.mwrite ⟨block, memRead w.bytes 0 256, runMask w.mask 0 256⟩) 0 0 job c.clus.val (w.off / 256 % 16) m
      (some (.write w.ack w.die 0 0)) w.due none s
  else if ownDie s w.die.toNat then
    match (physCore s w.lclus.toNat w.lcore.toNat).filter (fun t => !crossesFailed s c.clus.val t.clus.val) with
    | none => (s, false)
    | some t =>
      (netPut c.clus.val t.clus.val portCluster (packetFlits w.len) w.due (.land ⟨t, w.bytes, w.mask, dieCode s, m, job, false, w.sig, w.ack, false⟩) s, true)
  else
    sendTo w.die (.lwrite ⟨w.lclus, w.lcore, BitVec.ofNat 19 w.off, BitVec.ofNat 10 (w.len - 1), w.sig.isSome, w.sig.getD 0,
      runBytes w.bytes w.off w.len, runMask w.mask w.off w.len⟩) 0 0 job c.clus.val w.lcore.toNat m (some (.write w.ack w.die w.lclus w.lcore)) w.due none s

/-- A signal leaves core c for a core of this or another die (R290, R326); one for another die counts among the core's writes, under number
n, until it has left this die (R334). -/
def sendSignal (c : CoreId) (die : BitVec 4) (lclus : BitVec 6) (lcore : BitVec 7) (k : BitVec 6) (n : Nat) (released : Bool) (s : State) : State :=
  let m := massifOf s c
  if ownDie s die.toNat then
    match physCore s lclus.toNat lcore.toNat with
    | none => s
    | some t =>
      if crossesFailed s c.clus.val t.clus.val then s
      else signalCore t k (dieCode s) m (coreJob s c) (ridgeMove c.clus.val t.clus.val 0 m 1 s)
  else
    let s := modXfer c (fun f => { f with outSignals := f.outSignals ++ [n] }) s
    match sendSig die (.csig ⟨lclus, lcore, k⟩) (coreJob s c) c.clus.val m (c, n, released) s with
    | (s, true) => s
    | (s, false) => signalGone (some (c, n, released)) s

/-- The core has released items that have not left its cluster: later writes wait behind them (R361). -/
def hasReleased (s : State) (c : CoreId) : Bool := (getClus s c.clus).held.any (fun h => h.core == c.core && h.released)

/-! ## Signals of chunks (R290, R351, R354) -/

/-- The targets of a chunk's signal: die code, logical cluster and core. -/
def chunkTargets (s : State) (c : CoreId) (d : List Byte) : List (BitVec 4 × BitVec 6 × BitVec 7) :=
  let k := getClus s c.clus
  let own : BitVec 4 × BitVec 6 × BitVec 7 := (15, k.repair.lclus, BitVec.ofNat 7 (logCore k c.core))
  let dst : BitVec 4 × BitVec 6 × BitVec 7 := match addrUnit (descDst d) with
    | some (.led die lc lk _, _) => (if ownDie s die then 15 else BitVec.ofNat 4 die, BitVec.ofNat 6 lc, BitVec.ofNat 7 lk)
    | _ => own
  match descSigTo d with
  | 0 => []
  | 1 => [dst]
  | 2 => [own]
  | _ => if dst = own then [own] else [dst, own]
/-- A chunk of a stream in an epoch is held when some write of it goes anywhere but to the core's own ledge. -/
def chunkHeld (s : State) (c : CoreId) (q : Stream) (r : ChunkRun) : Bool :=
  q.epoch.isSome && (chunkRequests r.desc r.q true).1.any (fun p => !unitOwn s c p.u)

/-- A chunk counted as signalled: CHUNKS, and LATE_MAX of a chunk that had missed (R314). -/
def countSignal (c : CoreId) (x : Fin 8) (r : ChunkRun) (s : State) : State :=
  modXfer c (fun q =>
    let late := match (q.streams.get x).missed.find? (fun e => e.1 = r.num) with
      | some e => (s.tb.count - e.2).toNat
      | none => 0
    { q with
      chunksSig := satInc 32 q.chunksSig
      lateMax := max q.lateMax (min late (2 ^ 32 - 1))
      streams := q.streams.set x { q.streams.get x with
        nextSignal := r.num + 1
        chunks := (q.streams.get x).chunks.filter (fun e => e.num != r.num)
        missed := (q.streams.get x).missed.filter (fun e => e.1 != r.num) } }) s

/-- Due times of the unsignalled chunks of some of a core's streams recomputed (R307). -/
def dueStreams (c : CoreId) (xs : List (Fin 8)) (s : State) : State :=
  let e := effective s c
  let s := if e = 0 then s else modXfer c (fun f => { f with dlCeil := e }) s
  xs.foldl (fun s x => modStream c x (fun q => { q with
    chunks := q.chunks.map (fun r => { r with due := streamDue s c q r.deadline })
    cur := q.cur.map (fun d => { d with dueAt := dueNow s c q }) }) s) s
/-- Those of every stream of the engine that runs stream x: one of its chunks is now its stream's lowest, or the stream resumes (R307). -/
def dueEngine (c : CoreId) (x : Fin 8) (s : State) : State :=
  dueStreams c ((List.finRange 8).filter (fun y => x.val / 4 = y.val / 4)) s
/-- Those of both engines. -/
def dueAll (c : CoreId) (s : State) : State := dueStreams c (List.finRange 8) s

/-- The next chunk in order signals, when it has landed and its held signals find entries; none when it cannot. -/
def signalNext (c : CoreId) (x : Fin 8) (s : State) : Option State :=
  let q := getStream s c x
  match q.chunks.find? (fun r => r.num = q.nextSignal) with
  | none => none
  | some r =>
    if !r.landed || r.fault.isSome then none
    else
      let ts := chunkTargets s c r.desc
      let k := descCairn r.desc
      let done (s : State) : State := dueEngine c x (countSignal c x r s)
      if chunkHeld s c q r then
        match fateNow s c (q.epoch.getD 0) with
        | (.discarded, _) => some (done s)
        | (f, e) =>
          let w := HeldWaiter.signal c.core x
          -- a chunk without a signal needs no entry, and waits for none (R354)
          if ts.isEmpty then some (done s)
          else if !(storeFits (getClus s c.clus) ts.length 0 && storeTurn (getClus s c.clus) w) then
            if (getClus s c.clus).heldWait.contains w then none else some (noteFull c.clus w s)
          else
            let rel := f == .released
            some (done (ts.foldl (fun s t =>
              let n := if rel then (getCore s c).xfer.nextWrite else 0
              let s := if rel then relNumber c n s else s
              placeHeld c.clus ⟨c.core, e, some (x, r.num), true, 0, 0, .signal t.1 t.2.1 t.2.2 k, rel, true, n, none, false⟩ s)
              (storeUnwait c.clus w s)))
      else some (done (ts.foldl (fun s t => sendSignal c t.1 t.2.1 t.2.2 k r.wid false s) s))

/-- Chunks signal in order, n at most. -/
def signalAll (c : CoreId) (x : Fin 8) : Nat → State → State
  | 0, s => s
  | n + 1, s => match signalNext c x s with
    | some s' => if (getStream s' c x).nextSignal = (getStream s c x).nextSignal then s' else signalAll c x n s'
    | none => s

/-! ## How a stream ends -/

/-- The tracker entry given back, and the place in the admission queue (R312). -/
def trackerLeave (c : CoreId) (x : Fin 8) (s : State) : State :=
  let t := (getStream s c x).tracked
  let s := { s with trk := { s.trk with
    tracked := if t then s.trk.tracked - 1 else s.trk.tracked
    queue := s.trk.queue.filter (fun e => e != (c, x)) } }
  modStream c x (fun q => { q with tracked := false }) s

/-- Items that a stream has placed stay in the store when it ends; nothing withdraws them any more (R301, R365). -/
def itemsSettle (c : CoreId) (x : Fin 8) (s : State) : State :=
  modClus c.clus (fun k => { k with held := k.held.map (fun h =>
    if h.core == c.core && (match h.stream with | some (y, _) => y == x | none => false) then { h with live := false } else h) }) s
/-- The handle returns to IDLE (R273); its last record stays. -/
def streamIdle (c : CoreId) (x : Fin 8) (s : State) : State :=
  let s := itemsSettle c x (trackerLeave c x s)
  let burstOf (b : BgReq) : Bool := match b with | .txrBurst y _ _ => y == x | _ => false
  let s := modCore c (fun k => { k with
    ledge := { k.ledge with bg := k.ledge.bg.filter (fun e => !burstOf e.1) }
    err := { k.err with gate := k.err.gate.filter (fun g => g.2 != .stream x) } }) s
  modStream c x (fun q => { q with
    st := .idle, burst := [], burstOff := 0, fetching := false, ended := false, cur := none, chunks := [], nextChunk := 0, nextSignal := 0
    reqs := [], listErr := none, missed := [], epoch := none, gated := false }) s

/-- The restart point of a chunk: its first element's index vector, zeros for a REPACK (R297). -/
def restartIndex (r : ChunkRun) : List Nat :=
  if descKind r.desc = 1 then copyIndex r.desc (chunkElems r.desc r.q).1 else [0, 0, 0, 0, 0]

/-- The record of a fault or error (R297, R301). -/
def streamRecord (c : CoreId) (x : Fin 8) (code : BitVec 4) (wr : Bool) (level : BitVec 2) (chunk : Nat) (va : Nat) (ix : List Nat)
    (desc : Nat) (s : State) : State :=
  modStream c x (fun q => { q with
    fcode := code, fwrite := wr, flevel := level, fvalid := true, fchunk := chunk % 2 ^ 32, fva := BitVec.ofNat 64 va, fidx := ix
    fdesc := BitVec.ofNat 19 desc }) s

/-- A stream ends in error (R301). -/
def streamError (c : CoreId) (x : Fin 8) (code : BitVec 4) (wr : Bool) (chunk : Nat) (ix : List Nat) (desc : Nat) (s : State) : State :=
  let s := streamRecord c x code wr 0 chunk 0 ix desc s
  let s := modStream c x (fun q => { q with errored := true }) s
  let s := match massifOf s c with
    | some m => modMassif m (fun k => { k with txErrored := true }) s
    | none => s
  streamIdle c x (raiseEvt (pageCoreB c) 0x510 s)

/-- Items of a chunk of the stream in flight, and of its later chunks, withdrawn from the store (R365). -/
def withdraw (c : CoreId) (x : Fin 8) (n : Nat) (s : State) : State :=
  modClus c.clus (fun k => { k with held := k.held.filter (fun h =>
    !(h.core == c.core && h.live && !h.released && (match h.stream with | some (y, m) => y == x && n ≤ m | none => false))) }) s

/-- Bytes of the requests a cancelled stream had issued for chunks that never signalled (R550). -/
def cancelCount (q : Stream) : Nat := q.chunks.foldl (fun a r => r.issued.foldl (fun a e => a + e.2.2) a) 0

/-- Requests of a stream that wait and have not been issued end, from chunk n on; a read tag is held from the issue on, so none is given
back. Of chunk n itself those numbered below `first` that still wait for their translation stay until it has answered: one of them may
be the first of the chunk to fault (R297). -/
def dropWaiting (c : CoreId) (x : Fin 8) (n first : Nat) (s : State) : State :=
  let reqs := (getStream s c x).reqs
  let keep (r : TxReq) : Bool := r.stage = 3 || r.chunk < n || (r.chunk = n && r.stage = 0 && r.id < first)
  -- a cache fill that another lookup waits for goes on; any other ends with its request
  let waited (r : TxReq) : Bool := r.fill && (getCore s c).ledge.fills.any (fun f => f.owner = r.id &&
    f.waiters.any (fun w => w.1 != x || reqs.any (fun e => e.id = w.2 && keep e)))
  let gone := (reqs.filter (fun r => r.fill && !keep r && !waited r)).map (·.id)
  let s := modLedge c (fun l => { l with fills := l.fills.filter (fun f => !gone.contains f.owner) }) s
  let s := modStream c x (fun q => { q with reqs := q.reqs.filter (fun r => keep r || waited r) }) s
  let live (id : Nat) : Bool := (getStream s c x).reqs.any (fun r => r.id = id)
  modClus c.clus (fun k => { k with heldWait := k.heldWait.filter (fun w => match w with
    | .req q y id => !(q == c.core && y == x && !live id)
    | _ => true) }) s

/-- TXCANCEL acts on a stream in flight (R300, R302). -/
def streamCancel (c : CoreId) (x : Fin 8) (s : State) : State :=
  let q := getStream s c x
  if q.st == .run || q.st == .faulted then
    let n := cancelCount q
    let s := dropWaiting c x 0 0 s
    let s := storeUnwait c.clus (.signal c.core x) s
    let s := countCore c 0x0E n (modXfer c (fun f => { f with cancelBytes := f.cancelBytes + n }) s)
    let s := modStream c x (fun q => { q with st := .cancelling }) s
    if (getStream s c x).reqs.isEmpty then streamIdle c x s else s
  else s

/-- After a change: chunks that may signal do, and a stream that has nothing left to do ends (R273, R301, R302). -/
def settle (c : CoreId) (x : Fin 8) (s : State) : State :=
  let q := getStream s c x
  if q.st == .cancelling then (if q.reqs.isEmpty then streamIdle c x s else s)
  else if q.st == .run then
    let s := signalAll c x (q.chunks.length + 1) s
    let q := getStream s c x
    match stopChunk q with
    | some r =>
      if q.reqs.isEmpty && q.nextSignal = r.num then
        match r.fault with
        | some (code, wr, _, _) => if 8 ≤ code.toNat then streamError c x code wr r.num (restartIndex r) r.off (withdraw c x r.num s) else s
        | none => s
      else s
    | none =>
      if q.reqs.isEmpty && q.chunks.isEmpty && q.cur.isNone then
        match q.listErr with
        | some (code, n, off) => streamError c x code false n [0, 0, 0, 0, 0] off s
        | none => if q.ended then streamIdle c x s else s
      else s
  else s

/-- A chunk stops at a fault or an error of its request `id`: the first in issue order stands (R297, R301). -/
def chunkStop (c : CoreId) (x : Fin 8) (n id : Nat) (code : BitVec 4) (wr : Bool) (level : BitVec 2) (va : Nat) (s : State) : State :=
  let s := modChunk c x n (fun r => if r.fault.isSome && r.faultId ≤ id then r else { r with fault := some (code, wr, level, va), faultId := id }) s
  settle c x (dropWaiting c x n id s)

/-! ## Descriptors (R277, R278, R305, R314) -/

/-- A chunk misses its deadline, once (R314). -/
def noteMiss (c : CoreId) (x : Fin 8) (n : Nat) (s : State) : State :=
  if (getStream s c x).missed.any (fun e => e.1 = n) then s
  else
    let s := modXfer c (fun f => { f with misses := satInc 32 f.misses }) (modStream c x (fun q => { q with missed := q.missed ++ [(n, s.tb.count)] }) s)
    match massifOf s c with
    | none => s
    | some m =>
      let k := getMassif s m
      let s := modMassif m (fun k => { k with dlMisses := satInc 32 k.dlMisses, missRaised := k.missRaised || k.missEvent }) s
      if k.missEvent && !k.missRaised then raiseEvt (pageSeq m) 0x208 s else s
/-- Chunks of the descriptor in execution whose deadline beat has issued already miss at once (DEDUCED, log entry 44). -/
def missPast (c : CoreId) (x : Fin 8) (s : State) : State :=
  match (getStream s c x).cur with
  | none => s
  | some d =>
    let b := (getCore s c).issue.beat
    ((List.range d.count).filter (fun j => match curDeadline d (d.first + j) with | some e => (e - b).toInt < 0 | none => false)).foldl
      (fun s j => noteMiss c x (d.first + j) s) s

/-- The next descriptor in the burst is taken up, when the last has no further chunk. -/
def nextDescriptor (c : CoreId) (x : Fin 8) (s : State) : State :=
  let q := getStream s c x
  if q.st != .run || q.gated || q.cur.isSome || q.ended || q.listErr.isSome || (stopChunk q).isSome || q.burst.length < 64 then s
  else
    let d := q.burst.take 64
    let off := q.burstOff
    let rest := q.burst.drop 64
    let bad (s : State) : State := settle c x (modStream c x (fun q => { q with listErr := some (8, q.nextChunk, off) }) s)
    let kind := descKind d
    if kind = 0 then settle c x (modStream c x (fun q => { q with ended := true, burst := [] }) s)
    else if kind = 3 then
      postBg c (.txrBurst x (descLink d) 0) 1 (modStream c x (fun q => { q with burst := [], burstOff := descLink d, fetching := true }) s)
    else if (kind = 1 && copyOk d) || (kind = 2 && repackOk (featMx6 s) d) then
      let dl := descDl d
      let n := descChunks d
      let base : Option (BitVec 48) := if dl / 2 ^ 14 = 0 then none
        else some ((if dl / 2 ^ 14 = 1 then q.goBeat else q.anchor) + BitVec.ofNat 48 (dlFirst dl))
      let s := modStream c x (fun q => { q with
        cur := some ⟨d, off, q.nextChunk, n, base, dlPer dl, dueNow s c q⟩
        anchor := match base with | some b => b + BitVec.ofNat 48 ((n - 1) * dlPer dl) | none => q.anchor
        burst := rest, burstOff := (off + 64) % 2 ^ 19 }) s
      let s := missPast c x s
      if rest.length < 64 then
        postBg c (.txrBurst x ((off + 64) % 2 ^ 19) 0) 1 (modStream c x (fun q => { q with burst := [], fetching := true }) s)
      else s
    else bad s

/-- A chunk of the descriptor in execution begins (R289), with the due time that it has had since the descriptor was decoded, or since
the last recomputation (R307). -/
def beginChunk (c : CoreId) (x : Fin 8) (s : State) : State :=
  let q := getStream s c x
  match q.cur with
  | none => s
  | some d =>
    let n := q.nextChunk
    let dl := curDeadline d n
    let r : ChunkRun := ⟨n, n - d.first, d.desc, d.off, 0, [], [], 0, 0, false, dl, d.dueAt.bind (fun p => dl.map (dueFrom p)), none, 0, [], 0⟩
    nextDescriptor c x (modStream c x (fun q => { q with
      chunks := q.chunks ++ [r]
      nextChunk := n + 1
      cur := if n + 1 < d.first + d.count then some d else none }) s)

end Sys2Proof.Machine
end

