-- ==== Sys2Proof/Machine/Translation.lean ====
section
/-! DEFINITION. Module-memory translation (R293..R296) and the program loader (R51, R53, R54): lookups, walks, the loader's
block reads, and writes of the program store. -/
namespace Sys2Proof.Machine

/-! ## The translation cache -/

/-- Page size of a leaf's level (R293). -/
def pageSize (level : BitVec 2) : Nat := match level.toNat with | 1 => 2 ^ 30 | 2 => 2 ^ 21 | _ => 2 ^ 16
/-- A VA lies in an entry's page. -/
def tcCovers (e : TcEntry) (m : Massif) (va : Nat) : Bool := e.massif == m && va / pageSize e.level == e.va / pageSize e.level
/-- The cached entry of a VA. -/
def tcFind (s : State) (m : Massif) (va : Nat) : Option TcEntry := s.tc.entries.find? (fun e => tcCovers e m va)
/-- An entry inserted; beyond 32,768 the oldest goes (replacement is not visible, R295). -/
def tcInsert (e : TcEntry) (s : State) : State :=
  { s with tc := { s.tc with entries := ((s.tc.entries.filter (fun f => !tcCovers f e.massif e.va)) ++ [e]).reverse.take 32768 |>.reverse } }
/-- The module physical address a leaf gives a VA. -/
def tcMpa (e : TcEntry) (va : Nat) : BitVec 40 := e.mpa + BitVec.ofNat 40 (va % pageSize e.level)

/-- Index of a VA at a level. -/
def walkIndex (level : BitVec 2) (va : Nat) : Nat :=
  match level.toNat with | 0 => va / 2 ^ 39 % 512 | 1 => va / 2 ^ 30 % 512 | 2 => va / 2 ^ 21 % 512 | _ => va / 2 ^ 16 % 32
/-- MPA bits [39:3] of an entry of a table (its base in MPA bits [39:12]). -/
def walkEntry (base : BitVec 28) (level : BitVec 2) (va : Nat) : BitVec 37 := BitVec.ofNat 37 (base.toNat * 512 + walkIndex level va)
/-- The hub an MPA lies in, as an endpoint code (R294, R401). -/
def mpaHub (mpa : Nat) : BitVec 4 := BitVec.ofNat 4 (8 + mpa / 2 ^ 38 % 4)

/-- The read of a walk's entry sent to its hub on MGMT; false when no col is available. -/
def walkSend (id : Nat) (m : Massif) (entry : BitVec 37) (s : State) : State × Bool :=
  sendTo (mpaHub (entry.toNat * 8)) (.walkRd entry) 0 0 (getMassif s m).jobTag diePort 0 none (some (.walk id)) none none s

/-- Two VAs are walked alike down to the entry of a level. -/
def walkSame (level : BitVec 2) (a b : Nat) : Bool :=
  let k := match level.toNat with | 0 => 39 | 1 => 30 | 2 => 21 | _ => 16
  a / 2 ^ k == b / 2 ^ k

/-- What a lookup answers. -/
inductive Xlat where
  | ok (mpa : BitVec 40)
  | fault (code : BitVec 4) (level : BitVec 2)
  | error
  | walking
  deriving DecidableEq, Repr

/-- A VA looked up for a massif; on a miss a walk is joined or begun on behalf of w (R293..R295). A walk is joined as long as it has only
read entries that the VA's own walk would read: whether both lie in one page is known at its leaf alone (DEDUCED, log entry 120). -/
def translate (m : Massif) (va : Nat) (write : Bool) (w : WalkFor) (s : State) : State × Xlat :=
  match tcFind s m va with
  | some e =>
    let s := { s with tc := { s.tc with hits := s.tc.hits + 1 } }
    if write && !e.wr then (s, .fault 2 e.level) else (s, .ok (tcMpa e va))
  | none =>
    let s := { s with tc := { s.tc with misses := s.tc.misses + 1 } }
    match s.tc.walks.find? (fun k => k.massif == m && walkSame k.level k.va va && !k.stale && k.notPages.isEmpty) with
    | some k =>
      ({ s with tc := { s.tc with walks := s.tc.walks.map (fun j => if j.id = k.id then { j with waiters := j.waiters ++ [(w, write, va)] } else j) } }, .walking)
    | none =>
      let k := getMassif s m
      if !k.ttValid then (s, .fault 1 0)
      else
        let entry := walkEntry k.ttBase 0 va
        let id := s.tc.nextWalk
        let s := { s with tc := { s.tc with nextWalk := id + 1 } }
        match walkSend id m entry s with
        | (s, false) => (noteDieAbsent s, .error)
        | (s, true) => ({ s with tc := { s.tc with walks := s.tc.walks ++ [⟨id, m, va, write, 0, entry, [(w, write, va)], false, []⟩] } }, .walking)

/-- What a walk's entry says at its level (R294). -/
inductive WalkSays where
  | next (base : BitVec 28)
  | leaf (base : BitVec 40) (wr : Bool)
  | fault (code : BitVec 4)
  deriving DecidableEq, Repr
def walkSays (level : BitVec 2) (e : BitVec 64) : WalkSays :=
  let leaf := e.getLsbD 1
  let addr := bitsAt e 12 28
  let low := match level.toNat with | 1 => 18 | 2 => 9 | _ => 4
  if !e.getLsbD 0 then .fault 1
  else if bitsAt e 3 9 != 0 || bitsAt e 40 24 != 0 || (leaf && level == 0) || (!leaf && level == 3) ||
      (leaf && addr.toNat % 2 ^ low != 0) then .fault 3
  else if leaf then .leaf (addr ++ 0#12) (e.getLsbD 2) else .next addr

/-! ## The program store (R53, R54) -/

/-- The region's sequencer uses it (R53). -/
def regionInUse (q : SeqSt) : Bool := q.state == .loading || q.state == .checking || q.state == .running || q.state == .stopping
/-- A store word lies in a region. -/
def wordInRegion (q : SeqSt) (w : Nat) : Bool := let (a, b) := regionOf q; a * 512 ≤ w && w < b * 512
/-- A store word written: every sequencer whose region holds it loses CHECKED when the word changes (R54). -/
def storeWrite (w : Nat) (v : BitVec 64) (s : State) : State :=
  if smGet 0 s.store.words w == v then s
  else
    let s := { s with store := { s.store with words := smSet 0 s.store.words w v } }
    allMassifs.foldl (fun s m => if wordInRegion (getSeq s m) w then modSeq m (fun q => { q with checked := false }) s else s) s

/-! ## The loader (R51) -/

/-- Address of the next bundle to copy. DESIGN CHOICE (log entry 110): the loader reads SEQ_LOAD_SRC and SEQ_LOAD_CTL as they stand, so that
a write while LOADING redirects the rest of the load. -/
def loadAddr (q : SeqSt) : Nat := q.loadSrc.toNat + 32 * q.loaded
/-- The load has met a condition of R51. -/
def loadFail (m : Massif) (s : State) : State := modSeq m (fun q => { q with loadFault := true, loadBusy := false }) s
/-- A translated block read sent to its hub; `old` says that an invalidation has overtaken its translation (R296). -/
def loadRead (m : Massif) (mpa : BitVec 40) (old : Bool) (s : State) : State :=
  let block := mpa.toNat / 256
  match sendTo (mpaHub mpa.toNat) (.mread (BitVec.ofNat 32 block)) 0 0 (getMassif s m).jobTag diePort (block % 16) none
      (some (.load m block (getSeq s m).loadGen)) none none s with
  | (s, true) => modSeq m (fun q => { q with loadBusy := true, loadBlock := block, loadOld := old }) s
  | (s, false) => loadFail m (noteDieAbsent s)
/-- The next block of a load: nothing when every bundle has been copied. -/
def loadNext (m : Massif) (s : State) : State :=
  let q := getSeq s m
  if q.state != .loading || q.loadFault || q.loaded ≥ q.loadCount.toNat then s
  else
    let a := loadAddr q
    if a ≥ 2 ^ 48 || a % 32 != 0 then loadFail m s
    else
      match translate m a false (.load m) s with
      | (s, .ok mpa) => loadRead m mpa false s
      | (s, .walking) => modSeq m (fun q => { q with loadBusy := true }) s
      | (s, _) => loadFail m s
/-- A block has come: its bundles are stored, and the next block is asked for. One that an earlier LOAD had asked for is not taken. -/
def loadData (m : Massif) (block gen : Nat) (status : BitVec 3) (bytes : List Byte) (s : State) : State :=
  let q := getSeq s m
  if q.state != .loading || !q.loadBusy || q.loadBlock != block || q.loadGen != gen then s
  else if status != 0 then loadFail m s
  else
    let off := loadAddr q % 256
    let n := min ((256 - off) / 32) (q.loadCount.toNat - q.loaded)
    let w0 := (q.base.toNat * 128 + q.loadDest.toNat + q.loaded) * 4
    let s := (List.range (4 * n)).foldl (fun s i =>
      storeWrite (w0 + i) (BitVec.ofNat 64 (leNat ((bytes.drop (off + 8 * i)).take 8))) s) s
    loadNext m (modSeq m (fun q => { q with loaded := q.loaded + n, loadBusy := false }) s)

end Sys2Proof.Machine
end

