-- ==== Sys2Proof/Machine/Requests.lean ====
section
/-! DEFINITION. Requests of streams (R282..R303, R309..R314): how one is formed, translated, tagged, held or sent, and what
its answer does; acknowledgements of writes; background accesses of a ledge (R250..R258). -/
namespace Sys2Proof.Machine

/-! ## Specs -/

/-- The chunk a request belongs to. -/
def reqChunk (q : Stream) (r : TxReq) : Option ChunkRun := q.chunks.find? (fun k => k.num = r.chunk)
/-- The request as formed. -/
def reqSpec (q : Stream) (r : TxReq) : Option ReqSpec := (reqChunk q r).bind (fun k => (chunkRequests k.desc k.q r.write).1[r.idx]?)
/-- The request of a number. -/
def findReq (q : Stream) (id : Nat) : Option TxReq := q.reqs.find? (fun r => r.id = id)
/-- The VA of a module-memory request. -/
def specVa (p : ReqSpec) : Nat := match p.u with | .mem b => b * 256 | .led _ _ _ line => line * 1024
/-- Bytes a request moves, each once (R550). -/
def specMoves (k : ChunkRun) (write : Bool) (p : ReqSpec) : Nat :=
  match p.u with
  | .mem _ => if write then (specMask p).length else 256
  | .led _ _ _ _ => if !write && descKind k.desc = 1 && copyShape k.desc != 0 then 1024 else (specMask p).length
/-- The bytes of a write request, by place in its unit. -/
def specData (k : ChunkRun) (p : ReqSpec) : Mem :=
  let buf := if descKind k.desc = 1 then k.buf else repImage k.desc k.buf
  p.pieces.foldl (fun m e => (List.range e.len).foldl (fun m i => memSet m (e.off + i) (memGet buf (e.pos + i))) m) []
/-- A write's source bytes have all come. -/
def writeReady (k : ChunkRun) (p : ReqSpec) : Bool :=
  let (rs, bad) := chunkRequests k.desc k.q false
  if descKind k.desc = 1 then
    let upto := rs.foldl (fun a r => r.pieces.foldl (fun a e => max a (e.pos + e.len)) a) 0
    p.pieces.all (fun w => w.pos + w.len ≤ upto) &&
      (List.range rs.length).all (fun i => k.rdDone.contains i ||
        !((rs.getD i ⟨.mem 0, []⟩).pieces.any (fun e => p.pieces.any (fun w => e.pos < w.pos + w.len && w.pos < e.pos + e.len))))
  else !bad && k.rdDone.length = rs.length
/-- Every request of a chunk exists and has completed. -/
def chunkLanded (k : ChunkRun) : Bool :=
  let (rs, rb) := chunkRequests k.desc k.q false
  let (ws, wb) := chunkRequests k.desc k.q true
  !rb && !wb && k.rdDone.length = rs.length && k.wrDone = ws.length
/-- A shaped source. -/
def chunkShape (k : ChunkRun) : BitVec 4 := if descKind k.desc = 1 then copyShape k.desc else 0
def chunkStride (k : ChunkRun) : BitVec 13 := if descKind k.desc = 1 then copyStride k.desc else 0

/-- A request counted once as issued (R550). -/
def noteIssued (c : CoreId) (x : Fin 8) (r : TxReq) (n : Nat) (s : State) : State :=
  modChunk c x r.chunk (fun k =>
    if k.issued.any (fun e => e.1 == r.write && e.2.1 == r.idx) then k else { k with issued := k.issued ++ [(r.write, r.idx, n)] }) s

/-! ## Tags (R313) -/

/-- Tags in use on the die. -/
def tagsInUse (s : State) : Nat := s.trk.tags.toList.foldl (· + ·) 0
/-- TAG_MAX and TAG_MIN as they act. -/
def tagMax (k : MassifSt) : Nat := if k.tagMax == 0 || k.tagMax.toNat > 8192 then 8192 else k.tagMax.toNat
def tagMin (k : MassifSt) : Nat := min (min k.tagMin.toNat 8192) (tagMax k)
/-- Effective TAG_MIN of each massif: honoured in massif order until the pool is exhausted. -/
def effTagMin (s : State) (m : Massif) : Nat :=
  let live := allMassifs.filter (fun k => massifHolds (getMassif s k))
  let before := (live.filter (fun k => k < m)).foldl (fun a k => a + tagMin (getMassif s k)) 0
  if live.contains m then min (tagMin (getMassif s m)) (8192 - before) else 0
/-- A tag taken for a massif. -/
def tagTake (m : Massif) (s : State) : State :=
  let s := { s with trk := { s.trk with tags := s.trk.tags.set m (s.trk.tags.get m + 1) } }
  { s with trk := { s.trk with tagHwm := max s.trk.tagHwm (tagsInUse s) } }
/-- A tag given back. -/
def tagGive (m : Massif) (s : State) : State := { s with trk := { s.trk with tags := s.trk.tags.set m (s.trk.tags.get m - 1) } }
/-- The massif whose tag a core's request holds. -/
def tagMassif (s : State) (c : CoreId) : Massif := (massifOf s c).getD 0

/-! ## Answers to reads and writes -/

/-- A remote read sent: to a core of this die, or to another die; false when it is absent at once. -/
def sendRead (c : CoreId) (x : Fin 8) (id : Nat) (k : ChunkRun) (p : ReqSpec) (due : Option Int) (s : State) : State × Bool :=
  let m := massifOf s c
  match p.u with
  | .mem _ => (s, false)
  | .led die lc lk line =>
    let shape := chunkShape k
    let lo := if shape != 0 then (p.pieces.map (·.off)).headD 0 else specLow p
    let n := if shape != 0 then 1024 else specHigh p - lo
    if ownDie s die then
      match (physCore s lc lk).filter (fun t => !crossesFailed s c.clus.val t.clus.val) with
      | none => (s, false)
      | some t =>
        (netPut c.clus.val t.clus.val portCluster 1 due (.read ⟨t, line * 1024 + lo, n, shape, chunkStride k, m, .stream c x id, 0, false⟩) s, true)
    else
      let die4 := BitVec.ofNat 4 die
      sendTo die4 (.lread ⟨BitVec.ofNat 6 lc, BitVec.ofNat 7 lk, BitVec.ofNat 19 (line * 1024 + lo), BitVec.ofNat 10 (n - 1), shape, chunkStride k⟩)
        0 0 (coreJob s c) c.clus.val lk m (some (.read c x id die4 (BitVec.ofNat 6 lc) (BitVec.ofNat 7 lk))) due none s

/-- The target a request names, for the record of an absent answer: the hub of its block, or a core. A hub's module memory has no cluster
and no core, and both are recorded as 0 (DESIGN CHOICE, log entry 138). -/
def specTarget (s : State) (mpa : Option (BitVec 40)) : ReqSpec → BitVec 4 × BitVec 6 × BitVec 7
  | ⟨.mem _, _⟩ => (mpaHub (mpa.getD 0).toNat, 0, 0)
  | ⟨.led die lc lk _, _⟩ => (if ownDie s die then dieCode s else BitVec.ofNat 4 die, BitVec.ofNat 6 lc, BitVec.ofNat 7 lk)

/-- An ABSENT answer to a stream's request, counted whatever the stream still does with it (R383). -/
def absentStream (c : CoreId) (x : Fin 8) (id : Nat) (status : BitVec 3) (write : Bool) (s : State) : State :=
  if status != 1 then s
  else match findReq (getStream s c x) id with
    | none => s
    | some r =>
      let t := match reqSpec (getStream s c x) r with | some p => specTarget s r.mpa p | none => (15, 0, 0)
      noteAbsent c.clus t.1 t.2.1 t.2.2 write s

/-- A chunk whose last request has completed has landed. -/
def landCheck (c : CoreId) (x : Fin 8) (n : Nat) (s : State) : State :=
  settle c x (modChunk c x n (fun k => if chunkLanded k then { k with landed := true } else k) s)

/-- The code of an error status (R301, R381, R406). -/
def statusError (status : BitVec 3) : BitVec 4 := match status.toNat with | 2 => 0xB | 3 => 0xA | 4 => 0xE | _ => 0xD

/-- Source bytes put in their places. The answer's first byte stands at place lo of the unit. -/
def storeSource (k : ChunkRun) (p : ReqSpec) (lo : Nat) (bytes : List Byte) : Mem :=
  p.pieces.foldl (fun m e => memWrite m e.pos ((bytes.drop (e.off - lo)).take e.len)) k.buf

/-- What a stream does with the answer to one of its reads (R290, R297, R301, R302). -/
def readEnd (c : CoreId) (x : Fin 8) (id : Nat) (status : BitVec 3) (bytes : List Byte) (s : State) : State :=
  let q := getStream s c x
  match findReq q id with
  | none => s
  | some r =>
    let drop (s : State) : State :=
      let s := if r.tag then tagGive (tagMassif s c) s else s
      modStream c x (fun q => { q with reqs := q.reqs.filter (fun e => e.id != id) }) s
    match reqChunk q r, reqSpec q r with
    | some k, some p =>
      if q.st != .run || stopped q r.chunk then settle c x (drop s)
      else if status == 2 && r.tries = 0 then
        let s := modReq c x id (fun r => { r with tries := 1 }) s
        if unitOwn s c p.u then postBg c (.txrSrc x id) (shapeSlots (chunkShape k) (chunkStride k) (((p.pieces.map (·.off)).headD 0) + specVa p)) s
        else match sendRead c x id k p k.due s with
          | (s, true) => s
          | (s, false) => chunkStop c x r.chunk id 0xD false 0 0 (drop (absentStream c x id 1 false s))
      else if status != 0 then chunkStop c x r.chunk id (statusError status) false 0 0 (drop s)
      else
        let lo := match p.u with | .mem _ => 0 | .led _ _ _ _ => if chunkShape k != 0 then (p.pieces.map (·.off)).headD 0 else specLow p
        let s := modChunk c x r.chunk (fun k => { k with buf := storeSource k p lo bytes, rdDone := k.rdDone ++ [r.idx] }) (drop s)
        landCheck c x r.chunk s
    | _, _ => settle c x (drop s)
/-- The answer to a read of a stream. -/
def readDone (c : CoreId) (x : Fin 8) (id : Nat) (status : BitVec 3) (bytes : List Byte) (s : State) : State :=
  readEnd c x id status bytes (absentStream c x id status false s)

/-- The answer to a write of a stream. -/
def writeDone (c : CoreId) (x : Fin 8) (id : Nat) (status : BitVec 3) (s : State) : State :=
  let s := absentStream c x id status true (modXfer c (fun f => { f with outWrites := f.outWrites.filter (· != id) }) s)
  let q := getStream s c x
  match findReq q id with
  | none => s
  | some r =>
    let s := modStream c x (fun q => { q with reqs := q.reqs.filter (fun e => e.id != id) }) s
    if q.st != .run then settle c x s
    else if status == 1 || status == 4 then chunkStop c x r.chunk id (statusError status) true 0 0 s
    else landCheck c x r.chunk (modChunk c x r.chunk (fun k => { k with wrDone := k.wrDone + 1 }) s)

/-- A TXPUT's entry of the outbound queue frees (R274). -/
def queueFree (c : CoreId) (eng : Bool) (s : State) : State :=
  modXfer c (fun f => if eng then { f with queueB := f.queueB - 1 } else { f with queueA := f.queueA - 1 }) s
/-- A START that waits for TXPUTs may go on. -/
def afterAck (c : CoreId) (s : State) : State := match massifOf s c with | some m => startIfAcked m s | none => s

/-- A released item answered as absent or in error (R360). -/
def releaseError (c : CoreId) (s : State) : State :=
  let first := (getCore s c).epoch.relErrors = 0
  let s := modCore c (fun k => { k with epoch := { k.epoch with relErrors := satInc 16 k.epoch.relErrors } }) s
  if first then raiseEvt (pageCoreB c) 0x680 s else s

/-- The acknowledgement of a write to a core of this die crosses the ridge (R369, R370). -/
def ackMove (a : AckTo) (die : BitVec 4) (lclus : BitVec 6) (lcore : BitVec 7) (s : State) : State :=
  match ackCore a, physCore s lclus.toNat lcore.toNat with
  | some (c, _), some t => if ownDie s die.toNat then ridgeMove t.clus.val c.clus.val 1 (massifOf s t) 1 s else s
  | _, _ => s
/-- A write's acknowledgement reaches whoever waits for it. -/
def deliverAck (a : AckTo) (status : BitVec 3) (die : BitVec 4) (lclus : BitVec 6) (lcore : BitVec 7) (s : State) : State :=
  let s := ackMove a die lclus lcore s
  match a with
  | .none => s
  | .put c eng id =>
    let s := queueFree c eng (modXfer c (fun f => { f with outWrites := f.outWrites.filter (· != id) }) s)
    let s := if status == 1 then
        noteAbsent c.clus die lclus lcore true (modXfer c (fun f => { f with absentPuts := satInc 16 f.absentPuts }) s)
      else s
    afterAck c s
  | .stream c x id => writeDone c x id status s
  | .release c id put =>
    let s := relDone c id (modXfer c (fun f => { f with
      outWrites := f.outWrites.filter (· != id), memOut := f.memOut.filter (fun e => e.1 != id) }) s)
    let s := if status == 1 then noteAbsent c.clus die lclus lcore true s else s
    let s := if status == 1 || status == 4 then
        (if put then modXfer c (fun f => { f with absentPuts := satInc 16 f.absentPuts }) s else releaseError c s)
      else s
    afterAck c s
  | .col die' tag due => respond die' .wack tag status (((physClus s lclus.toNat).map (·.val)).getD diePort)
    ((physCore s lclus.toNat lcore.toNat).bind (massifOf s)) due none s

/-- A write leaves, and is acknowledged at once when it is absent. -/
def sendOrAck (c : CoreId) (w : OutWrite) (s : State) : State :=
  match sendOut c w s with
  | (s, true) => s
  | (s, false) => deliverAck w.ack 1 (if ownDie s w.die.toNat then dieCode s else w.die) w.lclus w.lcore s

/-! ## Issue of a request -/

/-- A module-memory read goes out with its tag. -/
def memReadSend (c : CoreId) (x : Fin 8) (id : Nat) (s : State) : State :=
  let q := getStream s c x
  match findReq q id with
  | none => s
  | some r =>
    match r.mpa, reqChunk q r with
    | some mpa, some k =>
      let m := tagMassif s c
      let block := mpa.toNat / 256
      let s := tagTake m (modReq c x id (fun r => { r with stage := 3, tag := true }) s)
      let s := noteIssued c x r 256 s
      match sendTo (mpaHub mpa.toNat) (.mread (BitVec.ofNat 32 block)) 0 0 (coreJob s c) c.clus.val (block % 16) (massifOf s c)
          (some (.read c x id (mpaHub mpa.toNat) 0 0)) k.due none s with
      | (s, true) => s
      | (s, false) => readDone c x id 1 [] s
    | _, _ => s

/-- A module-memory read that waits for a tag (R313). -/
structure TagWait where
  core : CoreId
  x : Fin 8
  id : Nat
  massif : Massif
  due : Option Int
  since : BitVec 64
  promoted : Bool
  arrival : Nat
  deriving DecidableEq, Repr
/-- Cores with a record in the table. -/
def liveCores (s : State) : List CoreId :=
  s.cores.filterMap (fun e => if h : e.1 / 68 < 42 then some ⟨⟨e.1 / 68, h⟩, ⟨e.1 % 68, Nat.mod_lt _ (by decide)⟩⟩ else none)
/-- A write of the stream that an earlier place in the order holds waits for space in the store: what is later waits behind it (R356). -/
def behindSpace (q : Stream) (id : Nat) : Bool := q.reqs.any (fun r => r.stage = 2 && r.id < id)
/-- The head waiting request of every stream. -/
def tagWaits (s : State) : List TagWait :=
  (liveCores s).flatMap (fun c => (List.finRange 8).filterMap (fun x =>
    let q := getStream s c x
    ((q.reqs.find? (fun r => r.stage = 1)).filter (fun r => !behindSpace q r.id)).map (fun r =>
      ⟨c, x, r.id, tagMassif s c, (reqChunk q r).bind (·.due), r.since, r.promoted, r.arrival⟩)))
/-- a is granted before b. -/
def tagBefore (a b : TagWait) : Bool := servedBefore a.promoted b.promoted a.since b.since a.due b.due a.arrival b.arrival
/-- The request the die grants next. -/
def tagChoice (s : State) : Option TagWait :=
  let cs := (tagWaits s).filter (fun w => s.trk.tags.get w.massif < tagMax (getMassif s w.massif))
  let low := cs.filter (fun w => s.trk.tags.get w.massif < effTagMin s w.massif)
  let cs := if low.isEmpty then cs else low
  cs.foldl (fun best w => match best with | none => some w | some b => if tagBefore w b then some w else some b) none
/-- A translated module-memory read comes to the tag pool: it takes a free tag when it is the request that the die grants next, or waits
(R313). Its wait counts from here, also behind an earlier request of its stream (DESIGN CHOICE, log entry 117). WAITS counts the request
that is the first of its stream and is not granted here, whatever keeps it back, and no other (DESIGN CHOICE, log entry 133). -/
def memReadReady (c : CoreId) (x : Fin 8) (id : Nat) (mpa : BitVec 40) (s : State) : State :=
  let first := (getStream s c x).reqs.all (fun r => r.stage != 1)
  let n := s.trk.arrivals
  let s := modReq c x id (fun r => { r with mpa := some mpa, stage := 1, since := s.tb.count, arrival := n })
    { s with trk := { s.trk with arrivals := n + 1 } }
  let granted := tagsInUse s < 8192 && (match tagChoice s with | some w => w.core == c && w.x == x && w.id == id | none => false)
  if granted then memReadSend c x id s
  else if first then { s with trk := { s.trk with waits := satInc 32 s.trk.waits } }
  else s

/-- The destination of a write as an outbound write: module memory by its MPA, or a ledge. -/
def specOut (s : State) (k : ChunkRun) (p : ReqSpec) (mpa : Option (BitVec 40)) (ack : AckTo) (due : Option Int) : OutWrite :=
  let data := specData k p
  let mask := specMask p
  match p.u with
  | .mem _ => ⟨mpaHub (mpa.getD 0).toNat, 0, 0, (mpa.getD 0).toNat / 256 * 256, 256, data, mask, none, ack, due⟩
  | .led die lc lk line =>
    ⟨if ownDie s die then 15 else BitVec.ofNat 4 die, BitVec.ofNat 6 lc, BitVec.ofNat 7 lk, line * 1024 + specLow p, specHigh p - specLow p,
      data.map (fun e => (line * 1024 + e.1, e.2)), mask.map (line * 1024 + ·), none, ack, due⟩

/-- A released signal for a core waits in its own cluster's store, or a write of its own that follows one (R361). -/
def ownBehind (s : State) (c : CoreId) : Bool :=
  (getClus s c.clus).held.any (fun h => h.core == c.core && h.released && (match h.what with
    | .signal die lclus lcore _ => ownDie s die.toNat && physCore s lclus.toNat lcore.toNat == some c
    | .own _ _ _ _ => true
    | .write _ => false))
/-- A write request whose address is known is placed in the store, or goes out (R350, R361, R365). One to the core's own ledge is posted
there, behind the released signals for the core (R361). -/
def writeGo (c : CoreId) (x : Fin 8) (id : Nat) (mpa : Option (BitVec 40)) (s : State) : State :=
  let q := getStream s c x
  match findReq q id with
  | none => s
  | some r =>
    match reqChunk q r, reqSpec q r with
    | some k, some p =>
      let n := specMoves k true p
      let va := specVa p
      let isMem := match p.u with | .mem _ => true | _ => false
      let drop (s : State) : State := if isMem then modLedge c (cacheDrop va) s else s
      let nid := (getCore s c).xfer.nextWrite
      let number (s : State) : State := modXfer c (fun f => { f with nextWrite := nid + 1, outWrites := f.outWrites ++ [nid] })
        (modChunk c x r.chunk (fun k => { k with wid := max k.wid nid }) (modReq c x id (fun r => { r with id := nid, stage := 3, mpa := mpa }) s))
      if unitOwn s c p.u then
        let w := specOut s k p none .none none
        let s := number (noteIssued c x r n s)
        if ownBehind s c then placeHeld c.clus ⟨c.core, 0, none, false, 0, 0, .own x nid w.bytes w.mask, true, false, nid, none, false⟩ s
        else postBg c (.txw x nid w.bytes w.mask) 1 s
      else
        match q.epoch with
        | some e =>
          match fateNow s c e with
          | (.discarded, _) =>
            let s := countCore c 0x0E n (modCore c (fun h => { h with epoch := { h.epoch with discBytes := h.epoch.discBytes + n } }) s)
            landCheck c x r.chunk (modChunk c x r.chunk (fun k => { k with wrDone := k.wrDone + 1 })
              (modStream c x (fun q => { q with reqs := q.reqs.filter (fun h => h.id != id) }) s))
          | (f, e) =>
            let slots := maskWords (specMask p)
            let w := HeldWaiter.req c.core x id
            if !(storeFits (getClus s c.clus) 1 slots && storeTurn (getClus s c.clus) w) then
              let s := modReq c x id (fun r => { r with stage := 2, mpa := mpa }) s
              if (getClus s c.clus).heldWait.contains w then s else noteFull c.clus w s
            else
              let rel := f == .released
              let ack : AckTo := if rel then .release c nid false else .none
              let s := if rel then relNumber c nid s else s
              let s := placeHeld c.clus ⟨c.core, e, some (x, r.chunk), true, slots, n, .write (specOut s k p mpa ack k.due), rel, true,
                if rel then nid else 0, if isMem then some va else none, r.stale⟩ (drop (noteIssued c x r n s))
              let s := storeUnwait c.clus w s
              landCheck c x r.chunk (modChunk c x r.chunk (fun k => { k with wrDone := k.wrDone + 1 })
                (modStream c x (fun q => { q with reqs := q.reqs.filter (fun h => h.id != id) }) s))
        | none =>
          let w := specOut s k p mpa (.stream c x nid) k.due
          let s := drop (number (noteIssued c x r n s))
          if hasReleased s c then placeHeld c.clus ⟨c.core, 0, none, false, 0, 0, .write w, true, false, nid, none, false⟩ s
          else sendOrAck c w s
    | _, _ => s

/-- A cache fill that ends without its block: the lookups that waited for it stop as its own request did. -/
def fillStop (c : CoreId) (r : TxReq) (code : BitVec 4) (level : BitVec 2) (va : Nat) (s : State) : State :=
  if !r.fill then s
  else
    let ws := match (getCore s c).ledge.fills.find? (fun f => f.owner = r.id) with | some f => f.waiters | none => []
    ws.foldl (fun s w => match findReq (getStream s c w.1) w.2 with
      | some e => chunkStop c w.1 e.chunk e.id code false level va
          (modStream c w.1 (fun q => { q with reqs := q.reqs.filter (fun g => g.id != w.2) }) s)
      | none => s) (modLedge c (fun l => { l with fills := l.fills.filter (fun f => f.owner != r.id) }) s)

/-- Other lookups wait for the block that a request reads. -/
def fillWaited (s : State) (c : CoreId) (r : TxReq) : Bool :=
  r.fill && (getCore s c).ledge.fills.any (fun f => f.owner = r.id && !f.waiters.isEmpty)
/-- A request's translation has an answer. One whose chunk has stopped meanwhile is not issued (R297), unless others wait for its block. -/
def xlatDone (c : CoreId) (x : Fin 8) (id : Nat) (a : Xlat) (s : State) : State :=
  let q := getStream s c x
  match findReq q id with
  | none => s
  | some r =>
    if r.stage != 0 then s
    else
      let drop (s : State) : State := modStream c x (fun q => { q with reqs := q.reqs.filter (fun e => e.id != id) }) s
      let va := match reqSpec q r with | some p => specVa p | none => 0
      match a with
      | .ok mpa =>
        if (q.st != .run || stopped q r.chunk) && !fillWaited s c r then
          settle c x (drop (modLedge c (fun l => { l with fills := l.fills.filter (fun f => f.owner != id) }) s))
        else if r.write then writeGo c x id (some mpa) s else memReadReady c x id mpa s
      | .fault code level => fillStop c r code level va (chunkStop c x r.chunk id code r.write level va (drop s))
      | .error => fillStop c r 0xE 0 0 (chunkStop c x r.chunk id 0xE r.write 0 0 (drop s))
      | .walking => s

/-- A module-memory request is looked up (R295). -/
def memRequest (c : CoreId) (x : Fin 8) (id : Nat) (va : Nat) (write : Bool) (s : State) : State :=
  let (s, a) := translate (tagMassif s c) va write (.stream c x id) s
  xlatDone c x id a s

/-- A read marked for the cache is looked up there first (R263): a block that is there, or on its way, serves it, whatever other agents have
written to module memory since (R266). -/
def cacheRequest (c : CoreId) (x : Fin 8) (id : Nat) (va : Nat) (s : State) : State :=
  let l := (getCore s c).ledge
  let issued (s : State) : State := match findReq (getStream s c x) id with | some r => noteIssued c x r 256 s | none => s
  match cacheFind va l with
  | some i => postBg c (.txrHit x id i) 1 (modReq c x id (fun r => { r with stage := 3 }) (issued s))
  | none =>
    if l.fills.any (fun f => f.block = va / 256 && !f.stale) then
      modLedge c (fun l => { l with fills := l.fills.map (fun f =>
        if f.block = va / 256 && !f.stale then { f with waiters := f.waiters ++ [(x, id)] } else f) }) (issued s)
    else
      let s := modLedge c (fun l => { l with misses := satInc 32 l.misses, fills := l.fills ++ [⟨id, va / 256, false, []⟩] }) s
      memRequest c x id va false (modReq c x id (fun r => { r with fill := true }) s)

/-- A formed request takes its first step. -/
def requestGo (c : CoreId) (x : Fin 8) (r : TxReq) (k : ChunkRun) (p : ReqSpec) (s : State) : State :=
  match p.u with
  | .mem b =>
    if !r.write && descCache k.desc && (getCore s c).ledge.cacheActive then cacheRequest c x r.id (b * 256) s
    else memRequest c x r.id (b * 256) r.write s
  | .led _ _ _ _ =>
    if r.write then writeGo c x r.id none s
    else
      let s := modReq c x r.id (fun r => { r with stage := 3 }) (noteIssued c x r (specMoves k false p) s)
      if unitOwn s c p.u then
        let a := specVa p + (p.pieces.map (·.off)).headD 0
        if shapeBad (chunkShape k) (chunkStride k) false then readDone c x r.id 3 [] s
        else postBg c (.txrSrc x r.id) (shapeSlots (chunkShape k) (chunkStride k) a) s
      else match sendRead c x r.id k p k.due s with
        | (s, true) => s
        | (s, false) => readDone c x r.id 1 [] s

/-- What a chunk has next of a kind: a request, or a refused address. -/
inductive NextReq where
  | spec (p : ReqSpec)
  | bad
  | nothing
  deriving DecidableEq, Repr
def chunkNext (k : ChunkRun) (write : Bool) : NextReq :=
  let (l, bad) := chunkRequests k.desc k.q write
  let i := if write then k.wrNext else k.rdNext
  match l[i]? with
  | some p => .spec p
  | none => if bad && i = l.length then .bad else .nothing

/-- The next request of a chunk is formed. -/
def formOne (c : CoreId) (x : Fin 8) (k : ChunkRun) (write : Bool) (s : State) : State :=
  match chunkNext k write with
  | .nothing => s
  | .bad => chunkStop c x k.num (getCore s c).xfer.nextWrite 9 (badWrite k.desc k.q) 0 0 s
  | .spec p =>
    if write && !writeReady k p then s
    else
      let id := (getCore s c).xfer.nextWrite
      let i := if write then k.wrNext else k.rdNext
      let r : TxReq := ⟨id, k.num, write, i, specVa p, none, 0, false, false, 0, false, s.tb.count, false, 0⟩
      let s := modXfer c (fun f => { f with nextWrite := id + 1 }) s
      let s := modStream c x (fun q => { q with reqs := q.reqs ++ [r] }) s
      let s := modChunk c x k.num (fun k => if write then { k with wrNext := i + 1 } else { k with rdNext := i + 1 }) s
      requestGo c x r k p s

/-- The first chunk, before any stop, with a next request of a kind. -/
def nextChunkOf (q : Stream) (write : Bool) : Option ChunkRun :=
  q.chunks.find? (fun k => !stopped q k.num && chunkNext k write != .nothing)

/-- A stream forms and issues its next request (R282, R289, R356). -/
def transferNext (c : CoreId) (x : Fin 8) (write : Bool) (s : State) : State :=
  let q := getStream s c x
  if q.st != .run || q.gated || q.reqs.any (fun r => r.stage = 2) || (getClus s c.clus).heldWait.contains (.signal c.core x) then s
  else match nextChunkOf q write with
    | some k => formOne c x k write s
    | none =>
      if write || (stopChunk q).isSome || q.cur.isNone then s
      else
        let s := beginChunk c x s
        match nextChunkOf (getStream s c x) false with
        | some k => formOne c x k false s
        | none => s

/-! ## Background accesses (R250..R258, R267) -/

/-- The kind of a request, as its requester code (chapter 10). -/
def bgKind : BgReq → BitVec 4
  | .land _ => 8
  | .rread _ => 9
  | .txrSrc _ _ | .txrBurst _ _ _ | .txrHit _ _ _ | .txrWait _ _ _ => 0xA
  | .txw _ _ _ _ => 0xB
  | .cfill _ _ _ => 0xC
  | .zero _ => 0xD
  | .scrub _ => 0xE
/-- A write request. -/
def bgWrite (b : BgReq) : Bool := let k := bgKind b; k == 8 || k == 0xB || k == 0xC || k == 0xD

/-- A read's data goes back to whoever asked (R381). -/
def deliverRead (t : CoreId) (back : ReadTo) (status : BitVec 3) (bytes : List Byte) (s : State) : State :=
  let m := massifOf s t
  match back with
  | .stream c x id => readDone c x id status bytes (ridgeMove t.clus.val c.clus.val 1 m (packetFlits bytes.length) s)
  | .col die tag due => respond die (.rdata bytes) tag status t.clus.val m due none s

/-- One block filled: the way it takes, and the lookups that waited for it (R262, R263). A block that a write has overtaken in its flight
takes no way; each lookup that waited for it is served from the block as it came, by a TXR read slot, as a hit (DESIGN CHOICE, log
entry 139). -/
def fillBlock (c : CoreId) (owner block : Nat) (bytes : List Byte) (s : State) : State :=
  let l := (getCore s c).ledge
  let lines := dieLines s
  match l.fills.find? (fun f => f.owner = owner) with
  | none => s
  | some f =>
    let ws := f.waiters
    let s := modLedge c (fun l => { l with fills := l.fills.filter (fun f => f.owner != owner) }) s
    if f.stale || !l.cacheActive then
      ws.foldl (fun s w => postBg c (.txrWait w.1 w.2 bytes) 1 (modReq c w.1 w.2 (fun r => { r with stage := 3 }) s)) s
    else
      let i := cacheVictim (cacheSet (block * 256)) l
      let a := cacheBase lines + i * 256
      let s := modLedge c (fun l => cacheTouch i (ledgeHeal a 256
        { l with mem := memWrite l.mem a bytes, written := l.written ||| blockBit a, tags := smSet none l.tags i (some (cacheTag (block * 256))) })) s
      ws.foldl (fun s w => postBg c (.txrHit w.1 w.2 i) 1 (modReq c w.1 w.2 (fun r => { r with stage := 3 }) s)) s

/-- A hit delivered, and counted; a way that has changed, or that fails parity, is served as a miss (R262, R263, R267). -/
def hitServe (c : CoreId) (x : Fin 8) (id : Nat) (i : Nat) (fs : List ReadFault) (s : State) : State :=
  let q := getStream s c x
  match findReq q id with
  | none => s
  | some r =>
    if q.st != .run then readDone c x id 0 [] s else
    let va := match reqSpec q r with | some p => specVa p | none => 0
    let l := (getCore s c).ledge
    let a := cacheBase (dieLines s) + i * 256
    let hits := ledgeFails fs 0xA (a / 1024) (a % 1024 / 64) 4 l
    let s := modLedge c (fun l => ledgePerr hits (ledgeMark fs 0xA (a / 1024) l)) s
    if smGet none l.tags i == some (cacheTag va) && cacheSet va == i / 4 && hits.isEmpty then
      readDone c x id 0 (memRead l.mem a 256) (modLedge c (fun l => cacheTouch i { l with hits := satInc 32 l.hits }) s)
    else
      let s := modLedge c (fun l => if hits.isEmpty then l else { l with tags := smSet none l.tags i none }) s
      cacheRequest c x id va (modReq c x id (fun r => { r with stage := 0 }) s)

/-- A lookup that waited for a fill whose block took no way: it is delivered the block, and counted as a hit. -/
def waitServe (c : CoreId) (x : Fin 8) (id : Nat) (bytes : List Byte) (s : State) : State :=
  match findReq (getStream s c x) id with
  | none => s
  | some _ =>
    if (getStream s c x).st != .run then readDone c x id 0 [] s
    else readDone c x id 0 bytes (modLedge c (fun l => { l with hits := satInc 32 l.hits }) s)

/-- A descriptor burst read: from its first descriptor to the line's end; reread once, then DESC_PARITY (R277, R301). -/
def burstServe (c : CoreId) (x : Fin 8) (off tries : Nat) (fs : List ReadFault) (s : State) : State :=
  let q := getStream s c x
  if !q.fetching then s
  else
    let env := coreEnv s c [] fs
    let (l, bs, hits) := ledgeRead env 0xA off (1024 - off % 1024) (getCore s c).ledge
    let s := modLedge c (fun _ => l) s
    if hits.isEmpty then nextDescriptor c x (modStream c x (fun q => { q with fetching := false, burst := bs, burstOff := off }) s)
    else if tries = 0 then postBg c (.txrBurst x off 1) 1 s
    else
      let n := match q.cur with | some d => d.first + d.count | none => q.nextChunk
      settle c x (modStream c x (fun q => { q with fetching := false, listErr := some (0xC, n, off) }) s)

/-- A scrub read (R259, R491): a failure in the active cache region invalidates its block, and sets neither LEDGE_STAT.PARITY nor the
failure log (R258 has each read do so; DESIGN CHOICE, log entry 131); any other is mapped and logged. -/
def scrubServe (c : CoreId) (line : Nat) (fs : List ReadFault) (s : State) : State :=
  let l := (getCore s c).ledge
  let clean (s : State) : State := modLedge c (fun l => { l with scrubDone := true }) s
  if !l.scrubbed.getLsbD (line / 4) then clean s
  else
    let inCache := l.cacheActive && line ≥ dieLines s - 128
    let hits := ledgeFails fs 0xE line 0 16 l
    let s := modLedge c (ledgeMark fs 0xE line) s
    if hits.isEmpty then clean s
    else if inCache then
      let ways := (hits.map (fun h => (line - (dieLines s - 128)) * 4 + h.word.toNat / 4)).eraseDups
      clean (modLedge c (fun l => ways.foldl (fun l i => { l with tags := smSet none l.tags i none }) l) s)
    else
      clean (raiseEvt (pageCoreB c) (if line / 4 < 64 then 0x418 else 0x420) (modLedge c (fun l => ledgePerr hits { l with scrubMap := l.scrubMap ||| (1#96 <<< (line / 4)) }) s))

/-- Written blocks after the zero-fill of a line: the block is filled with its last line, unless a write has come between (R484). -/
def zeroWritten (line : Nat) (l : LedgeSt) : BitVec 96 :=
  if line % 4 = 3 && (memZero l.mem (line * 1024) 1024).all (fun e => e.1 / 4096 != line / 4) then l.written &&& ~~~(blockBit (line * 1024))
  else l.written
/-- One background access takes place. An own-ledge source request is read as one span, from its lowest to its highest named byte, so that
words between its pieces are read and checked as well (DESIGN CHOICE, log entry 114). -/
def bgServe (c : CoreId) (fs : List ReadFault) (b : BgReq) (s : State) : State :=
  let env := coreEnv s c [] fs
  match b with
  | .land w =>
    let s := modLedge c (ledgeWriteMask env 8 w.bytes w.mask) s
    let s := match w.sig with | some k => windowSignal c k.toNat s | none => s
    let k := getClus s c.clus
    deliverAck w.ack 0 (dieCode s) k.repair.lclus (BitVec.ofNat 7 (logCore k c.core)) s
  | .rread r =>
    let (l, bs, hits, _) := ledgeReadShape env 9 r.shape r.stride r.off r.len (getCore s c).ledge
    deliverRead c r.back (if hits.isEmpty then 0 else 2) bs (modLedge c (fun _ => l) s)
  | .txrSrc x id =>
    let q := getStream s c x
    match (findReq q id).bind (fun r => (reqChunk q r).bind (fun k => (reqSpec q r).map (fun p => (k, p)))) with
    | none => s
    | some (k, p) =>
      let shape := chunkShape k
      let lo := if shape != 0 then (p.pieces.map (·.off)).headD 0 else specLow p
      let n := if shape != 0 then 1024 else specHigh p - lo
      let (l, bs, hits, _) := ledgeReadShape env 0xA shape (chunkStride k) (specVa p + lo) n (getCore s c).ledge
      readDone c x id (if hits.isEmpty then 0 else 2) bs (modLedge c (fun _ => l) s)
  | .txrBurst x off tries => burstServe c x off tries fs s
  | .txrHit x id i => hitServe c x id i fs s
  | .txrWait x id bytes => waitServe c x id bytes s
  | .txw x id bytes mask => writeDone c x id 0 (modLedge c (ledgeWriteMask env 0xB bytes mask) s)
  | .cfill owner block bytes => fillBlock c owner block bytes s
  | .zero line => modLedge c (fun l => ledgeHeal (line * 1024) 1024
      { l with mem := memZero l.mem (line * 1024) 1024, written := zeroWritten line l }) s
  | .scrub line => scrubServe c line fs s

/-- The answer to a module-memory read: a block that fills the cache is queued for its CFILL, and delivered (R263). -/
def memReadDone (c : CoreId) (x : Fin 8) (id : Nat) (status : BitVec 3) (bytes : List Byte) (s : State) : State :=
  let q := getStream s c x
  match findReq q id with
  | none => s
  | some r =>
    match reqSpec q r with
    | some p =>
      if r.fill then
        if status == 0 then readDone c x id status bytes (postBg c (.cfill id (specVa p / 256) bytes) 1 s)
        else fillStop c r (statusError status) 0 0 (readDone c x id status bytes s)
      else readDone c x id status bytes s
    | none => readDone c x id status bytes s

end Sys2Proof.Machine
end

