-- ==== Sys2Proof/Machine/Landings.lean ====
section
/-! DEFINITION. Commands of landings and remote reads (R326, R380), ledge cycles (R248..R255), tags, tracker, due times and
age promotion (R307..R313), stream faults and resumes (R297, R298), the held-write store's grants (R356), and the translation
cache (R294..R296). -/
namespace Sys2Proof.Machine

/-! ## Landings (R250, R255, R326..R328, R380) -/

/-- Entries of a core's landing buffer. -/
def landCount (l : LedgeSt) : Nat := (l.bg.filter (fun e => bgKind e.1 == 8)).length
/-- The acknowledgement of a landing, from its target core. -/
def landAck (w : LandWrite) (status : BitVec 3) (s : State) : State :=
  let k := getClus s w.dst.clus
  deliverAck w.ack status (dieCode s) k.repair.lclus (BitVec.ofNat 7 (logCore k w.dst.core)) s

/-- A landing may enter its core's landing buffer, or is answered without (R255, R373). -/
def landRoom (s : State) (w : LandWrite) : Bool :=
  !present s w.dst || !accepts s w.dst w.srcMassif w.job w.host || landCount (getCore s w.dst).ledge < 8
/-- A packet may leave its router: one for a core waits while that core's landing buffer is full (R255, R373). -/
def netCan (s : State) (p : Packet) : Bool :=
  netOut p != portCluster || (match p.what with | .land w => landRoom s w | _ => true)
/-- A landing reaches its core: absent, refused, or in the landing buffer. -/
def landArrive (w : LandWrite) (s : State) : State :=
  if !present s w.dst then landAck w 1 s
  else if !accepts s w.dst w.srcMassif w.job w.host then landAck w 0 (landRefuse w.dst w.srcDie s)
  else modLedge w.dst (fun l => { l with landHwm := max l.landHwm (landCount l) }) (postBg w.dst (.land w) 1 s)
/-- A landing that waits at its target's cluster port for a full landing buffer is counted as held, once (R255). -/
def landHold (p : Packet) (w : LandWrite) (s : State) : State :=
  if netOut p == portCluster && (fifoHead s.net p).arrival == p.arrival && !landRoom s w && !w.waited then
    { modClus w.dst.clus (fun k => { k with dataHolds := satInc 32 k.dataHolds }) s with
      net := s.net.map (fun q => if q.arrival = p.arrival then { q with what := .land { w with waited := true } } else q) }
  else s
/-- The packet at place n of the traffic travels to its target, when arbitration lets it (R371), and what stood behind what has moved goes
on: the packet where it has come to, and whether it has left the network there. -/
def netArrive (n : Nat) (s : State) : State × Option (Packet × Bool) :=
  match s.net[n]? with
  | none => (s, none)
  | some p =>
    let (t, won, a) := netDrive netCan p.arrival (netFuel s) s
    match t.net.find? (fun q => q.arrival == a) with
    | none => (netSettle (netFuel t) t, none)
    | some q => (netSettle (netFuel t) (if won then netMove (netCan t) q t else t), some (q, won))

/-- What the packet at place n of the traffic carries. -/
def netWhat (s : State) (n : Nat) : Option NetItem := (s.net[n]?).map (fun p => p.what)
/-- The landing at place n of the traffic travels on. -/
def landing (n : Nat) (s : State) : State :=
  match netWhat s n with
  | some (.land w) =>
    match netArrive n s with
    | (s, some (_, true)) => landArrive w s
    | (s, some (p, false)) => landHold p w s
    | (s, none) => s
  | _ => s
/-- LANDING (R326): the landing at place n of the traffic arrives. -/
def execLanding (n : Nat) (s : State) : Host.Outcome State Fault Refusal := whenAwake s (landing n)

/-- A read is answered as absent (R380, last row). -/
def readAllowed (s : State) (r : ReadReq) : Bool :=
  r.host ||
    (match r.srcMassif, massifOf s r.dst with
    | some m, some k => m == k
    | none, some k => r.job == (getMassif s k).jobTag && r.job != 0
    | _, none => false)
/-- A read request reaches its core. -/
def readArrive (r : ReadReq) (s : State) : State :=
  let len := if r.shape != 0 then 1024 else r.len
  let zeros := List.replicate len (0 : Byte)
  if !present s r.dst || !readAllowed s r then deliverRead r.dst r.back 1 zeros s
  else if shapeBad r.shape r.stride false then deliverRead r.dst r.back 3 zeros s
  else postBg r.dst (.rread r) (shapeSlots r.shape r.stride r.off) s
/-- REMOTE_READ (R380): the read at place n of the traffic reaches its core's ledge. -/
def execRemoteRead (n : Nat) (s : State) : Host.Outcome State Fault Refusal :=
  whenAwake s (fun s => match netWhat s n with
    | some (.read r) =>
      (match netArrive n s with
      | (s, some (_, true)) => readArrive r s
      | (s, _) => s)
    | _ => s)

/-! ## Ledge cycles (R248..R253) -/

/-- The place, among the first n, of the request of a kind that is served next. -/
def bgFirst (l : LedgeSt) (n : Nat) (k : BitVec 4) : Option Nat := (l.bg.take n).findIdx? (fun e => bgKind e.1 == k)
/-- Kinds in priority order (R251). -/
def bgOrder (write : Bool) : List (BitVec 4) := if write then [8, 0xB, 0xC, 0xD] else [9, 0xA, 0xE]
/-- One slot given to the request at a place: it is served with its last slot (R246). -/
def bgGrant (c : CoreId) (fs : List ReadFault) (i : Nat) (s : State) : State :=
  match (getCore s c).ledge.bg[i]? with
  | none => s
  | some (b, left) =>
    let s := countCore c (if bgWrite b then 8 else 7) 1 s
    if left > 1 then modLedge c (fun l => { l with bg := l.bg.set i (b, left - 1) }) s
    else bgServe c fs b (modLedge c (fun l => { l with bg := l.bg.eraseIdx i }) s)
/-- The requests still there of the first n, after a slot is given to the one at place i: a cycle serves none that it raises itself. -/
def bgLeft (l : LedgeSt) (i n : Nat) : Nat := match l.bg[i]? with | some (_, left) => if left > 1 then n else n - 1 | none => n
/-- Slots of a class given in priority order to the first `lim` requests (R251), and how many of those are left. -/
def bgSlots (c : CoreId) (fs : List ReadFault) (write : Bool) : Nat → Nat × State → Nat × State
  | 0, q => q
  | n + 1, (lim, s) =>
    let l := (getCore s c).ledge
    match (bgOrder write).findSome? (bgFirst l lim) with
    | some i => bgSlots c fs write n (bgLeft l i lim, bgGrant c fs i s)
    | none => (lim, s)
/-- The background part of a cycle: writes before reads (R250). -/
def bgCycle (c : CoreId) (fs : List ReadFault) (reads writes : Nat) (s : State) : State :=
  (bgSlots c fs false reads (bgSlots c fs true writes ((getCore s c).ledge.bg.length, s))).2

/-- A class has a request pending. -/
def bgPending (l : LedgeSt) (write : Bool) : Bool := l.bg.any (fun e => bgWrite e.1 == write)
/-- The streaks after a beat cycle that left so many slots free to a class, of which a request was pending when the beat began (R252).
DESIGN CHOICE (log entry 130): the 64 cycles are beat cycles, so that an idle cycle between two of them, which offers both classes, neither
counts nor breaks the run; and the request pending need not be the same one throughout. -/
def bgStreak (reads writes : Nat) (rp wp : Bool) (l : LedgeSt) : LedgeSt :=
  { l with
    noRead := if reads > 0 then 0 else l.noRead + 1
    rdPending := if reads > 0 || !rp then 0 else l.rdPending + 1
    noWrite := if writes > 0 then 0 else l.noWrite + 1
    wrPending := if writes > 0 || !wp then 0 else l.wrPending + 1 }
/-- An inserted cycle is due before the next beat: 64 cycles on end have offered a class of which a request was pending in all of
them nothing (R252). -/
def insertDue (l : LedgeSt) : Bool := l.rdPending ≥ 64 || l.wrPending ≥ 64

/-- A beat cycle that leaves so many slots free (R248). -/
def beatCycle (c : CoreId) (fs : List ReadFault) (reads writes : Nat) (rp wp : Bool) (s : State) : State :=
  modLedge c (bgStreak reads writes rp wp) (bgCycle c fs reads writes (decodeCycle c s))

/-- The ledge performs an idle cycle (R248): the core has power and a ceiling above 0, its issue is held, and a background request
waits, or a burst's decoding (log entry 119). A rerun has the ledge's cycles to itself and the background requests that its steps leave
room for (R498). -/
def idleOpen (s : State) (c : CoreId) : Bool :=
  let k := getCore s c
  !rerunning s c && k.presence != .off && k.issue.waitCause != .none && !(k.ledge.bg.isEmpty && k.xfer.decodeA + k.xfer.decodeB = 0) && effective s c != 0
/-- An idle cycle: both read slots and the write slot serve background. -/
def idleCycle (c : CoreId) (faults : List ReadFault) (s : State) : State :=
  if idleOpen s c then bgCycle c faults 2 1 (decodeCycle c s) else s
/-- IDLE_CYCLE (R248). -/
def execIdleCycle (c : CoreId) (faults : List ReadFault) (s : State) : Host.Outcome State Fault Refusal := whenAwake s (idleCycle c faults)

/-- Place of a read kind in the priority order (R251). -/
def readRank (k : BitVec 4) : Nat := ((bgOrder false).findIdx? (· == k)).getD 3
/-- Read slots that the priority order gives before the last slot of the request at place i has been given. -/
def readTurn (l : LedgeSt) (i : Nat) : Nat :=
  match l.bg[i]? with
  | none => 0
  | some (b, own) =>
    own + (List.range l.bg.length).foldl (fun n j =>
      match l.bg[j]? with
      | some (d, m) =>
        if !bgWrite d && (readRank (bgKind d) < readRank (bgKind b) || (readRank (bgKind d) = readRank (bgKind b) && j < i)) then n + m else n
      | none => n) 0
/-- The idle cycle in which the read request at place i is served: it takes place when that request's turn has come (R250, R251). -/
def idleServe (c : CoreId) (faults : List ReadFault) (i : Nat) (s : State) : State :=
  if readTurn (getCore s c).ledge i ≤ 2 then idleCycle c faults s else s

/-- Kinds of a class, from the one after the last that an inserted cycle served (R253). -/
def roundRobin (write : Bool) (last : BitVec 4) : List (BitVec 4) :=
  let ks := bgOrder write
  match ks.findIdx? (· == last) with
  | some i => ks.drop (i + 1) ++ ks.take (i + 1)
  | none => ks
/-- Slots of a class given round-robin to the first `lim` requests (R253), and how many of those are left. -/
def rrSlots (c : CoreId) (fs : List ReadFault) (write : Bool) : Nat → Nat × State → Nat × State
  | 0, q => q
  | n + 1, (lim, s) =>
    let l := (getCore s c).ledge
    match (roundRobin write (if write then l.rrWrite else l.rrRead)).find? (fun k => (bgFirst l lim k).isSome) with
    | none => (lim, s)
    | some k =>
      let s := modLedge c (fun l => if write then { l with rrWrite := k } else { l with rrRead := k }) s
      rrSlots c fs write n (match bgFirst l lim k with | some i => (bgLeft l i lim, bgGrant c fs i s) | none => (lim, s))
/-- The accesses of an inserted cycle, and its counts (R252, R253). -/
def insertServe (c : CoreId) (faults : List ReadFault) (s : State) : State :=
  let s := decodeCycle c (modLedge c (fun l => { l with
    noRead := 0, noWrite := 0, rdPending := 0, wrPending := 0, inserted := satInc 32 l.inserted }) s)
  (rrSlots c faults false 2 (rrSlots c faults true 1 ((getCore s c).ledge.bg.length, s))).2
/-- INSERTED_CYCLE (R252, R253); those of a rerun are made with its cycles (R498). -/
def execInsertedCycle (c : CoreId) (faults : List ReadFault) (s : State) : Host.Outcome State Fault Refusal :=
  whenAwake s (fun s =>
    if !insertDue (getCore s c).ledge || rerunning s c then s
    else insertServe c faults (modCore c (fun k => { k with
      issue := { k.issue with waitCause := if k.issue.halted then .halted else .ledge, waitUnits := 0 } }) s))

/-- LEDGE_BG_STAT_CLEAR (R252). -/
def execLedgeBgStatClear (c : CoreId) (s : State) : Host.Outcome State Fault Refusal :=
  whenAwake s (modLedge c (fun l => { l with inserted := 0, landHwm := landCount l }))
/-- LEDGE_PERR_LOG_CLEAR (R258). -/
def execLedgePerrLogClear (c : CoreId) (s : State) : Host.Outcome State Fault Refusal :=
  whenAwake s (modLedge c (fun l => { l with perr := none, perrMultiple := false, perrCount := 0, parity := false }))

/-! ## Scrub (R259) -/

/-- Active cores of the die that scrub: powered and out of reset. -/
def scrubCores (s : State) : List CoreId :=
  allClus.flatMap (fun p => (activeCores (getClus s p)).map (fun q => (⟨p, q⟩ : CoreId))) |>.filter (fun c => (getCore s c).presence != .off)
/-- Scrub is suspended from step 0x5 of a bring-up until READY (R480); it continues after a fatal die error (R508). -/
def scrubPaused (s : State) : Bool := 5 ≤ s.bring.step.toNat && !isReady s && !(s.bring.step == 0xB && s.bring.reached)
/-- Exponent of the scrub interval: SCRUB_CTL.INTERVAL, 0..7 acting as 8 and 31..63 as 30 (R259). -/
def scrubExp (i : BitVec 6) : Nat := max 8 (min 30 i.toNat)
/-- The interval since the last advance of LINE has passed (R259). -/
def scrubDue (s : State) : Bool := 2 ^ scrubExp s.scrub.interval ≤ now s - s.scrub.since.toNat
/-- The line goes out to the clusters whose cores scrub, one flit of class BG each (R370; log entry 125). -/
def scrubCommands (s : State) : State :=
  (allClus.filter (fun p => (scrubCores s).any (fun c => c.clus == p))).foldl (fun s p => ridgeMove diePort p.val 4 none 1 s) s
/-- Every active core posts its read of the present line. -/
def scrubOffer (s : State) : State :=
  let line := s.scrub.line.toNat
  let s := scrubCommands s
  let s := (scrubCores s).foldl (fun s c => postBg c (.scrub line) 1 (modLedge c (fun l => { l with scrubDone := false }) s)) s
  { s with scrub := { s.scrub with offered := true } }
/-- SCRUB_ADVANCE (R259): when every active core has read the line, and the interval has passed, LINE advances and its reads are posted. -/
def execScrubAdvance (s : State) : Host.Outcome State Fault Refusal :=
  whenAwake s (fun s =>
    if !s.scrub.en || scrubPaused s then s
    else if !s.scrub.offered then scrubOffer s
    else if (scrubCores s).all (fun c => (getCore s c).ledge.scrubDone) && scrubDue s then
      let last := s.scrub.line.toNat + 1 ≥ dieLines s
      scrubOffer { s with scrub := { s.scrub with
        since := s.tb.count
        line := if last then 0 else s.scrub.line + 1
        passes := if last then (s.scrub.passes + 1) % 2 ^ 32 else s.scrub.passes } }
    else s)
/-- SCRUB_READ (R259): a core's scrub read of the line completes in an idle cycle (R250, R251). -/
def execScrubRead (c : CoreId) (faults : List ReadFault) (s : State) : Host.Outcome State Fault Refusal :=
  whenAwake s (fun s => match bgFirst (getCore s c).ledge (getCore s c).ledge.bg.length 0xE with
    | some i => if scrubPaused s then s else idleServe c faults i s
    | none => s)

/-! ## Streams -/

/-- DESCRIPTOR_BURST (R277): the stream's burst read is made in an idle cycle (R250, R251); a burst that has come is decoded. -/
def execDescriptorBurst (c : CoreId) (x : Fin 8) (s : State) : Host.Outcome State Fault Refusal :=
  whenAwake s (fun s =>
    match (getCore s c).ledge.bg.findIdx? (fun e => match e.1 with | .txrBurst y _ _ => y == x | _ => false) with
    | some i => idleServe c [] i s
    | none => nextDescriptor c x s)
/-- TRANSFER_REQUEST (R282). -/
def execTransferRequest (c : CoreId) (x : Fin 8) (write : Bool) (s : State) : Host.Outcome State Fault Refusal :=
  whenAwake s (transferNext c x write)

/-- TAG_GRANT (R313). -/
def execTagGrant (s : State) : Host.Outcome State Fault Refusal :=
  whenAwake s (fun s =>
    if tagsInUse s < 8192 then
      match tagChoice s with
      | some w => memReadSend w.core w.x w.id s
      | none => s
    else s)

/-- TRACKER_ADMIT (R312). -/
def execTrackerAdmit (s : State) : Host.Outcome State Fault Refusal :=
  whenAwake s (fun s =>
    match s.trk.queue with
    | [] => s
    | (c, x) :: rest =>
      if s.trk.tracked < 16384 then
        let n := s.trk.tracked + 1
        dueStreams c [x] (modStream c x (fun q => { q with tracked := true })
          { s with trk := { s.trk with tracked := n, trackedHwm := max s.trk.trackedHwm n, queue := rest } })
      else s)

/-- DUE_TIME_RECOMPUTE (R307). -/
def execDueTimeRecompute (c : CoreId) (s : State) : Host.Outcome State Fault Refusal := whenAwake s (dueAll c)

/-- DL_AGE.LIMIT as it acts. -/
def ageLimit (s : State) : Nat := max 256 s.trk.ageLimit.toNat
/-- A request has waited DL_AGE.LIMIT ticks. -/
def aged (s : State) (since : BitVec 64) : Bool := ageLimit s ≤ now s - since.toNat
/-- AGE_PROMOTION (R310): requests that have waited long enough at their point are promoted. -/
def execAgePromotion (s : State) : Host.Outcome State Fault Refusal :=
  whenAwake s (fun s =>
    let s := { s with
      net := s.net.map (fun p => if aged s p.since then { p with promoted := true } else p)
      cols := s.cols.map (fun k => { k with egress := k.egress.map (fun e => if aged s e.since then { e with promoted := true } else e) }) }
    (liveCores s).foldl (fun s c => (List.finRange 8).foldl (fun s x =>
      modStream c x (fun q => { q with reqs := q.reqs.map (fun r => if r.stage = 1 && aged s r.since then { r with promoted := true } else r) }) s) s) s)

/-- A stream goes to FAULTED (R297). -/
def streamFaulted (c : CoreId) (x : Fin 8) (s : State) : State :=
  let q := getStream s c x
  match stopChunk q with
  | some r =>
    match r.fault with
    | some (code, wr, level, va) =>
      if q.st == .run && q.reqs.isEmpty && q.nextSignal = r.num && code.toNat < 8 then
        let s := withdraw c x r.num s
        let s := streamRecord c x code wr level r.num (va / 256 * 256) (restartIndex r) r.off s
        let s := modXfer c (fun f => { f with faults := satInc 16 f.faults }) (modStream c x (fun q => { q with st := .faulted }) s)
        raiseEvt (pageCoreB c) 0x510 s
      else s
    | none => s
  | none => s
/-- STREAM_FAULT (R297). -/
def execStreamFault (c : CoreId) (x : Fin 8) (s : State) : Host.Outcome State Fault Refusal := whenAwake s (streamFaulted c x)

/-- A FAULTED stream resumes: its faulting chunk and every later one begin again (R298). -/
def streamResume (c : CoreId) (x : Fin 8) (s : State) : State :=
  let q := getStream s c x
  if q.st != .faulted then s
  else
    let s := modStream c x (fun q => { q with
      st := .run
      chunks := q.chunks.map (fun r => if stopped q r.num
        then { r with rdNext := 0, rdDone := [], buf := [], wrNext := 0, wrDone := 0, landed := false, fault := none, faultId := 0 } else r) }) s
    dueEngine c x s
/-- TX_RESUME (R298). -/
def execTxResume (c : CoreId) (mask : BitVec 8) (s : State) : Host.Outcome State Fault Refusal :=
  whenAwake s (fun s => (List.finRange 8).foldl (fun s x => if mask.getLsbD x.val then streamResume c x s else s) s)
/-- RESUME_ALL (R298). -/
def execResumeAll (m : Massif) (s : State) : Host.Outcome State Fault Refusal :=
  whenAwake s (fun s => (massifCores s m).foldl (fun s c => (List.finRange 8).foldl (fun s x => streamResume c x s) s) s)

/-! ## Held-write stores -/

/-- STORE_SPACE_GRANT (R356): the head of a cluster's queue tries again. A TXPUT at the head is tried by its core's issue. -/
def execStoreSpaceGrant (p : PClus) (s : State) : Host.Outcome State Fault Refusal :=
  whenAwake s (fun s =>
    match (getClus s p).heldWait with
    | .req q x id :: _ =>
      let c : CoreId := ⟨p, q⟩
      match findReq (getStream s c x) id with
      | some r => writeGo c x id r.mpa s
      | none => storeUnwait p (.req q x id) s
    | .signal q x :: _ => settle ⟨p, q⟩ x s
    | _ => s)

/-- HW_STORE_STAT_CLEAR (R357). -/
def execHwStoreStatClear (p : PClus) (s : State) : Host.Outcome State Fault Refusal :=
  whenAwake s (modClus p (fun k => { k with slotsHwm := storeSlots k, heldFull := 0 }))
/-- CLUS_ABSENT_CLEAR (R383). -/
def execClusAbsentClear (p : PClus) (s : State) : Host.Outcome State Fault Refusal :=
  whenAwake s (modClus p (fun k => { k with absentDie := 0, absentLclus := 0, absentLcore := 0, absentWrite := false, absentValid := false }))
/-- STREAM_TRK_STAT_CLEAR (R312). -/
def execStreamTrkStatClear (s : State) : Host.Outcome State Fault Refusal :=
  whenAwake s (fun s => { s with trk := { s.trk with trackedHwm := s.trk.tracked, tagHwm := tagsInUse s } })

/-! ## Translation (R294..R296) -/

/-- The waiters of a walk get an answer that depends on whether they write, and on their address in the page. With `old` an invalidation has
overtaken the walk, and a request that goes on with its leaf counts as one that used the old mapping (R296). -/
def walkAnswer (k : Walk) (old : Bool) (f : Bool → Nat → Xlat) (s : State) : State :=
  k.waiters.foldl (fun s w => match w.1 with
    | .stream c x id => xlatDone c x id (f w.2.1 w.2.2) (if old then modReq c x id (fun r => { r with stale := true }) s else s)
    | .load m =>
      if (getSeq s m).state == .loading && (getSeq s m).loadBusy then
        -- the address that it asked for may no longer be the loader's (log entry 110)
        if w.2.2 != loadAddr (getSeq s m) then loadNext m (modSeq m (fun q => { q with loadBusy := false }) s)
        else (match f w.2.1 w.2.2 with | .ok mpa => loadRead m mpa old s | _ => loadFail m s)
      else s) s
/-- A walk ends. -/
def walkEnd (id : Nat) (s : State) : State := { s with tc := { s.tc with walks := s.tc.walks.filter (fun k => k.id != id) } }
/-- A walk goes on at the next level; waiters whose addresses part from each other there go on with walks of their own (R295). -/
def walkNext (k : Walk) (base : BitVec 28) (s : State) : State :=
  let level := k.level + 1
  let entryOf (w : WalkFor × Bool × Nat) : BitVec 37 := walkEntry base level w.2.2
  (k.waiters.map entryOf).eraseDups.foldl (fun s e =>
    let ws := k.waiters.filter (fun w => entryOf w == e)
    let id := s.tc.nextWalk
    let j : Walk := { k with id := id, va := (ws.map (·.2.2)).headD k.va, level := level, entry := e, waiters := ws }
    match walkSend id k.massif e { s with tc := { s.tc with nextWalk := id + 1 } } with
    | (s, true) => { s with tc := { s.tc with walks := s.tc.walks ++ [j] } }
    | (s, false) => walkAnswer j false (fun _ _ => .error) (noteDieAbsent s)) (walkEnd k.id s)
/-- An entry's answer comes back (R293..R296). Only a walk that succeeds for some waiter fills the cache. -/
def walkRsp (id : Nat) (status : BitVec 3) (entry : BitVec 64) (s : State) : State :=
  match s.tc.walks.find? (fun k => k.id = id) with
  | none => s
  | some k =>
    if status != 0 then walkAnswer k false (fun _ _ => .error) (walkEnd id (if status == 1 then noteDieAbsent s else s))
    else match walkSays k.level entry with
      | .fault code => walkAnswer k false (fun _ _ => .fault code k.level) (walkEnd id s)
      | .next base => walkNext k base s
      | .leaf base wr =>
        let t : TcEntry := ⟨k.massif, k.level, k.va / pageSize k.level * pageSize k.level, base, wr⟩
        let old := k.stale || k.notPages.any (fun v => tcCovers t k.massif v)
        let keep := !old && (wr || k.waiters.any (fun w => !w.2.1))
        let s := walkEnd id (if keep then tcInsert t s else s)
        walkAnswer k old (fun w va => if w && !wr then .fault 2 k.level else .ok (tcMpa t va)) s

/-- Entries, walks and requests of a massif named by an invalidation (R296). -/
def tcInvalidate (m : Massif) (page : Option Nat) (s : State) : State :=
  let hit (e : TcEntry) : Bool := e.massif == m && (match page with | none => true | some v => tcCovers e m v)
  let gone := s.tc.entries.filter hit
  let used (va : Nat) : Bool := match page with
    | none => true
    | some v => va / 65536 == v / 65536 || gone.any (fun e => tcCovers e m va)
  let s := { s with tc := { s.tc with
    entries := s.tc.entries.filter (fun e => !hit e)
    walks := s.tc.walks.map (fun k => if k.massif == m then
      (match page with | none => { k with stale := true } | some v => { k with notPages := k.notPages ++ [v] }) else k)
    inval := s.tc.inval ++ [(m, page)] } }
  let s := modSeq m (fun q => { q with loadOld := q.loadOld || (q.loadBusy && used (loadAddr q)) }) s
  let s := (massifCores s m).foldl (fun s c => (List.finRange 8).foldl (fun s x => modStream c x (fun q => { q with reqs := q.reqs.map (fun r =>
    if r.mpa.isSome && (match reqSpec q r with | some p => used (specVa p) | none => false) then { r with stale := true } else r) }) s)
    (modXfer c (fun f => { f with memOut := f.memOut.map (fun e => if used e.2.1 then (e.1, e.2.1, true) else e) }) s)) s
  (massifClus s m).foldl (fun s p => modClus p (fun k => { k with held := k.held.map (fun h =>
    match h.va with | some v => if used v then { h with stale := true } else h | none => h) }) s) s
/-- TC_INVAL (R296). -/
def execTcInval (m : Massif) (all : Bool) (page : BitVec 44) (s : State) : Host.Outcome State Fault Refusal :=
  whenAwake s (tcInvalidate m (if all then none else some (page.toNat * 65536)))
/-- TC_FLUSH (R296). -/
def execTcFlush (m : Massif) (s : State) : Host.Outcome State Fault Refusal := whenAwake s (tcInvalidate m none)
/-- Nothing begun under the old mapping of a massif is still under way: no walk, no request of a stream or of its loader, and no write that
waits in a held-write store or has left it (R296, R352). -/
def tcQuiet (s : State) (m : Massif) : Bool :=
  !s.tc.walks.any (fun k => k.massif == m && (k.stale || !k.notPages.isEmpty)) && !(getSeq s m).loadOld &&
    (massifCores s m).all (fun c => (List.finRange 8).all (fun x => !(getStream s c x).reqs.any (·.stale)) && !(getCore s c).xfer.memOut.any (fun e => e.2.2)) &&
    (massifClus s m).all (fun p => !(getClus s p).held.any (·.stale))
/-- TC_INVAL_DONE (R296): BUSY returns to 0. -/
def execTcInvalDone (s : State) : Host.Outcome State Fault Refusal :=
  whenAwake s (fun s => if s.tc.inval.all (fun i => tcQuiet s i.1) then { s with tc := { s.tc with inval := [] } } else s)

/-- INVALIDATE (R265): every ledge cache of the massif. -/
def execInvalidate (m : Massif) (s : State) : Host.Outcome State Fault Refusal :=
  whenAwake s (fun s => (massifCores s m).foldl (fun s c => modLedge c cacheClear s) s)

end Sys2Proof.Machine
end

