-- ==== Sys2Proof/Machine/Answers.lean ====
section
/-! DEFINITION. Answers (R380, R381, R393, R426): the answer to a request of the die's own, responses that the die makes to requests received
on a col, and what becomes of messages that a col can no longer send. -/
namespace Sys2Proof.Machine

/-! ## Answers -/

/-- The answer to a request of the die's own reaches whoever waits for it. -/
def answer (w : Waiting) (status : BitVec 3) (bytes : List Byte) (entry : BitVec 64) (s : State) : State :=
  match w with
  | .read c x id _ _ _ => memReadDone c x id status bytes s
  | .write ack die lclus lcore => deliverAck ack status die lclus lcore s
  | .walk id => walkRsp id status entry s
  | .load m block gen => loadData m block gen status bytes (if status == 1 then noteDieAbsent s else s)
  | .reg => if status == 1 then noteDieAbsent s else s
/-- A response to a message received on a col: to its sender, or over the same link when it came from the link partner (R401). It enters
the network at a router; one that names a slot occupies it until it is sent (R408). -/
def replyFrom (c : Col) (h : MsgHdr) (b : MsgBody) (status : BitVec 3) (src : Nat) (due : Option Int) (slot : Option Col) (s : State) : State :=
  if h.src == 0xF && h.dst == 0xF && allowsPartner b then
    (if crossesFailed s src (colRouter c) then s
    else toCol c ⟨⟨mkHdr s 0xF h.tag status 0 b, b⟩, none, due, none, none, 0, false, slot, none⟩ src s)
  else respond h.src b h.tag status src none due slot s
/-- A response that the col itself makes. -/
def replyTo (c : Col) (h : MsgHdr) (b : MsgBody) (status : BitVec 3) (due : Option Int) (s : State) : State :=
  replyFrom c h b status (colRouter c) due none s
/-- The response that says a request is absent: a read returns zero bytes (R380). -/
def absentBody : MsgBody → Option MsgBody
  | .lread a => some (.rdata (List.replicate (if a.shape != 0 then 1024 else a.cnt1.toNat + 1) 0))
  | .mread _ => some (.rdata (List.replicate 256 0))
  | .lwrite _ | .mwrite _ => some .wack
  | .walkRd _ => some (.walkRsp 0)
  | .regRd _ | .regWr _ _ => some (.regRsp 0)
  | _ => none
/-- A request answered ABSENT, and counted at its col (R393). -/
def absentReply (c : Col) (m : Msg) (s : State) : State :=
  match absentBody m.body with
  | none => s
  | some b => replyTo c m.hdr b 1 (dueOf s m.hdr) (modCol c (fun k => { k with absents := satInc 16 k.absents }) s)
/-- An own request answered ABSENT at its col (R393). -/
def absentOwn (c : Col) (w : Waiting) (s : State) : State := answer w 1 [] 0 (modCol c (fun k => { k with absents := satInc 16 k.absents }) s)

/-! ## Messages that are not sent (R393, R426) -/

/-- What becomes of one message at the egress that has not begun. -/
def egressDrop (c : Col) (e : EgressItem) (s : State) : State :=
  let s := signalGone e.signalOf s
  match e.wait with
  | some w => absentOwn c w s
  | none =>
    if bodyVc e.msg.body == some 0 then modCol c (fun k => { k with signalsDropped := satInc 16 k.signalsDropped }) s
    else absentReply c e.msg s
/-- A forwarded message that finds no col is answered at its ingress (R426). -/
def forwardDrop (c : Col) (m : Msg) (s : State) : State := egressDrop c ⟨m, none, none, none, none, 0, false, none, none⟩ s
end Sys2Proof.Machine
end

