-- ==== Sys2Proof/Machine/Epochs.lean ====
section
/-! DEFINITION. Tentative epochs (chapter 14): depth (R348), release (R360), discard (R362), the end of a run (R366), and a TXPUT
that leaves its core: into the held-write store, behind released items, or onto the network (R275, R350, R355, R361, R365). -/
namespace Sys2Proof.Machine

/-- A core's epochs changed. -/
def modEpoch (c : CoreId) (f : EpochSt → EpochSt) (s : State) : State := modCore c (fun k => { k with epoch := f k.epoch }) s

/-- Epoch depth of a core. -/
def epochDepth (s : State) (c : CoreId) : Nat := (getCore s c).epoch.stack.length

/-- DEPTH_ERR: the first of a run raises an event (R348). -/
def epochDepthErr (c : CoreId) (s : State) : State :=
  let first := !(getCore s c).epoch.depthErr
  let s := modEpoch c (fun e => { e with depthErr := true }) s
  if first then raiseEvt (pageCoreB c) 0x680 s else s

/-- EOPEN's effect (R348). -/
def epochOpen (c : CoreId) (s : State) : State :=
  if epochDepth s c < 8 then modEpoch c (fun e => { e with stack := e.next :: e.stack, next := e.next + 1 }) s
  else epochDepthErr c s

/-- An unreleased item of a core that belongs to an epoch, merges followed (R359). -/
def heldIn (s : State) (c : CoreId) (e : Nat) (h : HeldItem) : Bool := h.core == c.core && !h.released && (fateNow s c h.epoch).2 == e
/-- A stream in flight that belongs to an epoch. -/
def streamIn (s : State) (c : CoreId) (e : Nat) (x : Fin 8) : Bool :=
  let q := getStream s c x
  q.st != .idle && (match q.epoch with | some k => (fateNow s c k).2 == e | none => false)

/-- An outermost ECOMMIT is ready: no stream of the outermost epoch is in flight (R358). -/
def commitReady (s : State) (c : CoreId) : Bool :=
  match (getCore s c).epoch.stack with
  | [e] => (List.finRange 8).all (fun x => !streamIn s c e x)
  | _ => true

/-- What a released item sends, with the acknowledgement its number names. -/
def releaseWhat (c : CoreId) (n : Nat) (put : Bool) : HeldWhat → HeldWhat
  | .write w => .write { w with ack := .release c n put }
  | h => h
/-- Items of an epoch released, numbered in placement order from n: the store's items, and the next number (R360). -/
def releaseFold (s : State) (c : CoreId) (e : Nat) : List HeldItem → Nat → List HeldItem × Nat
  | [], n => ([], n)
  | h :: l, n =>
    if heldIn s c e h then
      let (l, k) := releaseFold s c e l (n + 1)
      ({ h with released := true, num := n, what := releaseWhat c n h.stream.isNone h.what } :: l, k)
    else
      let (l, k) := releaseFold s c e l n
      (h :: l, k)
/-- TXPUTs of the epoch that the commit gate still holds follow, numbered from n (R360, R501). -/
def releaseGate (s : State) (c : CoreId) (e : Nat) : List (BitVec 48 × GateItem) → Nat → List (BitVec 48 × GateItem) × Nat
  | [], n => ([], n)
  | (b, g) :: l, n =>
    match g with
    | .put eng w (some k) (some slots) _ =>
      if (fateNow s c k).2 == e then
        let (l, m) := releaseGate s c e l (n + 1)
        ((b, .put eng w (some k) (some slots) n) :: l, m)
      else
        let (l, m) := releaseGate s c e l n
        ((b, g) :: l, m)
    | _ =>
      let (l, m) := releaseGate s c e l n
      ((b, g) :: l, m)
/-- Every held item of the outermost epoch is released. -/
def epochRelease (c : CoreId) (e : Nat) (s : State) : State :=
  let n := (getCore s c).xfer.nextWrite
  let (l, j) := releaseFold s c e (getClus s c.clus).held n
  let (g, k) := releaseGate s c e (getCore s c).err.gate j
  let s := modClus c.clus (fun q => { q with held := l }) s
  let l := (List.range (k - n)).map (n + ·)
  modCore c (fun q => { q with
    err := { q.err with gate := g }
    epoch := { q.epoch with relOut := q.epoch.relOut ++ l }
    xfer := { q.xfer with nextWrite := k, outWrites := q.xfer.outWrites ++ l } }) s

/-- ECOMMIT's effect (R348, R359, R360). -/
def epochCommit (c : CoreId) (s : State) : State :=
  match (getCore s c).epoch.stack with
  | [] => epochDepthErr c s
  | [e] =>
    modEpoch c (fun k => { k with stack := [], fate := smSet .opened k.fate e .released, commits := satInc 16 k.commits, commitWait := false })
      (epochRelease c e s)
  | e :: e' :: r => modEpoch c (fun k => { k with stack := e' :: r, fate := smSet .opened k.fate e (.merged e') }) s

/-- Bytes of dropped writes, charged to the massif (R362). -/
def discardBytes (c : CoreId) (n : Nat) (s : State) : State :=
  countCore c 0x0E n (modEpoch c (fun k => { k with discBytes := k.discBytes + n }) s)
/-- The innermost epoch is discarded (R362). -/
def epochDrop (c : CoreId) (s : State) : State :=
  match (getCore s c).epoch.stack with
  | [] => s
  | e :: r =>
    let k := getClus s c.clus
    let n := (k.held.filter (heldIn s c e)).foldl (fun a h => a + h.size) 0
    let keep := k.held.filter (fun h => !heldIn s c e h)
    let s := discardBytes c n (modClus c.clus (fun q => { q with held := keep }) s)
    let xs := (List.finRange 8).filter (streamIn s c e)
    let s := modEpoch c (fun k => { k with stack := r, fate := smSet .opened k.fate e .discarded, discards := satInc 16 k.discards }) s
    xs.foldl (fun s x => streamCancel c x s) s
/-- EDISCARD's effect (R348, R362). -/
def epochDiscard (c : CoreId) (s : State) : State := if epochDepth s c = 0 then epochDepthErr c s else epochDrop c s
/-- n epochs discarded, innermost first. -/
def epochDropAll (c : CoreId) : Nat → State → State
  | 0, s => s
  | n + 1, s => epochDropAll c n (epochDrop c s)
/-- Open epochs of a core at the end of a run in HALTED (R366). -/
def epochEnd (c : CoreId) (s : State) : State :=
  let n := epochDepth s c
  if n = 0 then s else epochDropAll c n (modEpoch c (fun k => { k with openAtEnd := true }) s)

/-! ## TXPUT (R275, R311, R350, R355, R361) -/

/-- The data slots a TXPUT of n bytes takes in the store, when it is held: it belongs to an epoch and goes to another core. -/
def putHeld (s : State) (c : CoreId) (w : OutWrite) : Option Nat :=
  let k := getClus s c.clus
  let own := ownDie s w.die.toNat && w.lclus == k.repair.lclus && physCore s w.lclus.toNat w.lcore.toNat == some c
  if epochDepth s c = 0 || own then none else some (w.len / 64)

/-- A number for a write that is now issued. -/
def numberWrite (c : CoreId) (s : State) : State :=
  modXfer c (fun f => { f with nextWrite := f.nextWrite + 1, outWrites := f.outWrites ++ [f.nextWrite] }) s

/-- A TXPUT leaves the gate and takes its due time (R311, R501): it is placed in the store, follows a release, is dropped with its
epoch, or is sent. -/
def putGo (c : CoreId) (eng : Bool) (w : OutWrite) (epoch held : Option Nat) (n : Nat) (s : State) : State :=
  let w := { w with due := some (now s : Int) }
  match held, epoch with
  | some slots, some e =>
    let s := queueFree c eng (modClus c.clus (fun k => { k with gateEntries := k.gateEntries - 1, gateSlots := k.gateSlots - slots }) s)
    match fateNow s c e with
    | (.discarded, _) => discardBytes c w.len s
    | (.released, e) => placeHeld c.clus ⟨c.core, e, none, false, slots, w.len, .write { w with ack := .release c n true }, true, true, n, none, false⟩ s
    | (_, e) => placeHeld c.clus ⟨c.core, e, none, false, slots, w.len, .write w, false, true, 0, none, false⟩ s
  | _, _ =>
    let w := { w with ack := .put c eng n }
    if hasReleased s c then placeHeld c.clus ⟨c.core, 0, none, false, 0, 0, .write w, true, false, n, none, false⟩ s else sendOrAck c w s

/-- A TXPUT that the gate discards (R502). -/
def putDrop (c : CoreId) (eng : Bool) (held : Option Nat) (s : State) : State :=
  let s := queueFree c eng s
  match held with
  | some slots => modClus c.clus (fun k => { k with gateEntries := k.gateEntries - 1, gateSlots := k.gateSlots - slots }) s
  | none => s

end Sys2Proof.Machine
end

