-- ==== Sys2Proof/Machine/Summits.lean ====
section
/-! DEFINITION. Summits (chapter 13, R332..R347): scopes and instances, arrivals, the merge of a die, holds, releases, the
staircase, scree load and ramps; and the SUMMIT messages of the tree (R337..R339, R403). -/
namespace Sys2Proof.Machine

/-! ## Contexts and instances -/

/-- SUMMIT_CTXn of a massif. -/
def ctxWord (s : State) (m : Massif) (ctx : BitVec 4) : BitVec 19 := (getMassif s m).summit.ctxs.get ctx.toFin
/-- SCOPE, SPREAD, SCREE, RAMP and HOLD. -/
def ctxScope (s : State) (m : Massif) (ctx : BitVec 4) : Nat := (bitsAt (ctxWord s m ctx) 0 2).toNat
def ctxSpread (s : State) (m : Massif) (ctx : BitVec 4) : Nat := (bitsAt (ctxWord s m ctx) 2 5).toNat
def ctxScree (s : State) (m : Massif) (ctx : BitVec 4) : Nat := (bitsAt (ctxWord s m ctx) 7 4).toNat
def ctxRamp (s : State) (m : Massif) (ctx : BitVec 4) : BitVec 4 := bitsAt (ctxWord s m ctx) 11 4
def ctxHold (s : State) (m : Massif) (ctx : BitVec 4) : Nat := (bitsAt (ctxWord s m ctx) 15 4).toNat

/-- The key of the instance that a logical cluster takes part in (R332). -/
def instKey (scope : Nat) (ctx : BitVec 4) (lclus : Nat) : Nat := ctx.toNat * 64 + (if scope = 1 then lclus % 64 else 63)
/-- An instance, read and changed. -/
def getInst (s : State) (m : Massif) (key : Nat) : SummitInst := smGet SummitInst.reset (getMassif s m).summit.insts key
def modInst (m : Massif) (key : Nat) (f : SummitInst → SummitInst) (s : State) : State :=
  modSummit m (fun k => { k with insts := smSet SummitInst.reset k.insts key (f (smGet SummitInst.reset k.insts key)) }) s
/-- The participants on this die (R332). -/
def summitParts (s : State) (m : Massif) (scope lclus : Nat) : List CoreId :=
  if scope = 1 then (massifCores s m).filter (fun c => (getClus s c.clus).repair.lclus.toNat == lclus) else massifCores s m
/-- Every local participant has arrived. -/
def allArrived (s : State) (m : Massif) (scope lclus : Nat) (i : SummitInst) : Bool :=
  (summitParts s m scope lclus).all (fun c => i.arrived.contains c)

/-! ## The tree (R337, R338) -/

/-- Cols toward children. -/
def treeChildren (k : SummitSt) : List Col := allCols.filter (fun c => k.children.getLsbD c.val)
/-- The col toward the parent. -/
def treeParent (k : SummitSt) : Option Col := if k.parent.toNat < 16 then some (bitsAt k.parent 0 4).toFin else none
/-- TREE_BAD. -/
def treeBad (s : State) (k : SummitSt) : Bool :=
  (16 ≤ k.parent.toNat && k.parent.toNat ≤ 30) ||
    (match treeParent k with | some c => k.children.getLsbD c.val || !(colMask s).getLsbD c.val | none => false) ||
    k.children &&& ~~~(colMask s) != 0
/-- A tree names a col. -/
def treeNames (k : SummitSt) (c : Col) : Bool := treeParent k == some c || k.children.getLsbD c.val

/-- A SUMMIT message put on a col of the tree. Its DST is not stated; 0 stands for it (DESIGN CHOICE, log entry 43). -/
def summitSend (m : Massif) (c : Col) (a : SummitArgs) (s : State) : State :=
  if crossesFailed s diePort (colRouter c) then s
  else toCol c ⟨⟨mkHdr s 0 0 0 (getMassif s m).jobTag (.summit a), .summit a⟩, none, none, none, none, 0, false, none, none⟩ diePort s

/-! ## Holds, merges and releases (R335, R339, R345..R347) -/

/-- The lowest rate of a subtree with its node, and its highest throttle level (R346). Of equal rates the die's own stands before a child's,
and an earlier child's before a later one's (DESIGN CHOICE, log entry 134). -/
def summitPace (s : State) (m : Massif) (i : SummitInst) : BitVec 12 × BitVec 16 × BitVec 4 :=
  let own := (massifCores s m).foldl (fun a c => min a (effective s c)) 0xFFF
  let t := max (dieThrottle s) i.throttle.toNat
  if own ≤ i.rate.toNat then (BitVec.ofNat 12 own, (getMassif s m).summit.nodeId, BitVec.ofNat 4 t)
  else (i.rate, i.rateNode, BitVec.ofNat 4 t)

/-- A summit is held, here or by the root: its context's bit is set and the event raised, once for each summit (R339). -/
def summitHold (m : Massif) (ctx : BitVec 4) (key : Nat) (s : State) : State :=
  if (getInst s m key).held then s
  else raiseEvt (pageSeq m) 0x268 (modSummit m (fun k => { k with held := k.held ||| (1#16 <<< ctx.toNat) })
    (modInst m key (fun i => { i with held := true }) s))
/-- HALT_PENDING: under HALT_MASSIF, a held summit has the flagged arrival of a core of this massif (R235). -/
def heldNote (m : Massif) (key : Nat) (s : State) : State :=
  let i := getInst s m key
  if i.held && i.ownTrap && 2 ≤ (getMassif s m).runTrapMode.toNat then modMassif m (fun k => { k with haltPending := true }) s else s

/-- Every participant of a TREE instance at this die, and every child, has arrived. -/
def treeComplete (s : State) (m : Massif) (i : SummitInst) : Bool :=
  !(massifCores s m).isEmpty && allArrived s m 3 0 i && (getMassif s m).summit.children &&& ~~~i.childArr == 0
/-- The root of a TREE instance: it notes when it has every arrival, and holds a flagged summit (R339, R344). Its release message with
HELD = 1 carries zeros for LAST_NODE, RATE, RATE_NODE and THROTTLE (DESIGN CHOICE, log entry 135). -/
def treeRoot (m : Massif) (ctx : BitVec 4) (s : State) : State :=
  let key := instKey 3 ctx 0
  let i := getInst s m key
  let s := if treeComplete s m i && i.sentAt == 0 then modInst m key (fun i => { i with sentAt := s.tb.count }) s else s
  if i.trap && !i.held then
    (treeChildren (getMassif s m).summit).foldl (fun s c => summitSend m c ⟨ctx, true, false, true, i.gen, 0, 0, 0, 0⟩ s) (summitHold m ctx key s)
  else s
/-- A die below the root sends its arrival once it is complete (R337); for a broken context it sends none (DESIGN CHOICE, log entry 135). -/
def treeSend (m : Massif) (ctx : BitVec 4) (p : Col) (s : State) : State :=
  let key := instKey 3 ctx 0
  let i := getInst s m key
  if treeComplete s m i && !i.sent && !(getMassif s m).summit.broken.getLsbD ctx.toNat then
    let (r, n, t) := summitPace s m i
    summitSend m p ⟨ctx, false, i.trap, false, i.gen, i.lastNode, r, n, t⟩ (modInst m key (fun i => { i with sent := true, sentAt := s.tb.count }) s)
  else s
/-- What a die does for a TREE instance after an input of it, or after its place in the tree was written: nothing under TREE_BAD
(R337..R339). -/
def treeCheck (m : Massif) (ctx : BitVec 4) (s : State) : State :=
  let k := (getMassif s m).summit
  if treeBad s k then s
  else match treeParent k with
    | none => heldNote m (instKey 3 ctx 0) (treeRoot m ctx s)
    | some p => heldNote m (instKey 3 ctx 0) (treeSend m ctx p s)
/-- Every TREE context of a massif that stands, checked anew. -/
def treeCheckAll (m : Massif) (s : State) : State :=
  (List.range 16).foldl (fun s n =>
    if massifHolds (getMassif s m) && ctxScope s m (BitVec.ofNat 4 n) = 3 then treeCheck m (BitVec.ofNat 4 n) s else s) s

/-- An arrival of a core is received by its die's summit unit (R335). Where no arrival leaves the die, SUMMIT_SKEW's WAIT counts from the
arrival that completes the instance (DESIGN CHOICE, log entry 136). -/
def summitArrive (m : Massif) (ctx : BitVec 4) (c : CoreId) (trap : Bool) (s : State) : State :=
  let scope := ctxScope s m ctx
  let l := (getClus s c.clus).repair.lclus.toNat
  let key := instKey scope ctx l
  let node := (getMassif s m).summit.nodeId
  let s := modInst m key (fun i => { i with
    first := if i.arrived.isEmpty then s.tb.count else i.first
    last := s.tb.count
    arrived := if i.arrived.contains c then i.arrived else i.arrived ++ [c]
    trap := i.trap || trap
    ownTrap := i.ownTrap || trap
    lastNode := node }) s
  if scope = 3 then treeCheck m ctx s
  else
    let s := if allArrived s m scope l (getInst s m key) then modInst m key (fun i => { i with sentAt := s.tb.count, sent := true }) s else s
    if trap then heldNote m key (summitHold m ctx key s) else s

/-! ## Arrivals of a core, and the gate that holds them (R235, R333, R500, R501) -/

def modErr (c : CoreId) (f : ErrSt → ErrSt) (s : State) : State := modCore c (fun k => { k with err := f k.err }) s
/-- Beat a is before beat b, in the modular order of 48-bit beats. -/
def beatBefore (a b : BitVec 48) : Bool := (a - b).toInt < 0
/-- A beat lies within an uncommitted span. -/
def gatedBeat (r : ErrSt) (b : BitVec 48) : Bool := r.spans.any (fun p => !beatBefore b p.2.1 && !beatBefore p.2.2 b)
/-- An effect enters the gate, in issue order. -/
def gatePut (c : CoreId) (b : BitVec 48) (g : GateItem) (s : State) : State := modErr c (fun r => { r with gate := r.gate ++ [(b, g)] }) s
/-- The trap flag of an arrival made at a beat (R235). One made in the trap's own beat carries it: whether it comes after the event is open
(DESIGN CHOICE, log entry 112). -/
def trapFlag (s : State) (c : CoreId) (b : BitVec 48) : Bool :=
  let t := (getCore s c).trap
  (match massifOf s c with | some m => 2 ≤ (getMassif s m).runTrapMode.toNat | none => false) && t.valid && !beatBefore b t.beat
/-- An arrival of a beat that the gate no longer holds. -/
def arrivalUngated (s : State) (c : CoreId) (b : BitVec 48) (a : Arrival) : Arrival := { a with gated := false, trap := trapFlag s c b }

/-- A core's arrivals changed. -/
def modCairn (c : CoreId) (f : CairnSt → CairnSt) (s : State) : State := modCore c (fun k => { k with cairn := f k.cairn }) s

/-- A failed core's flagged arrival at a context that it has not yet arrived at (R505). It takes the place of one that is withheld. -/
def failArrive (m : Massif) (c : CoreId) (ctx : BitVec 4) (s : State) : State :=
  if ctxScope s m ctx = 0 then s
  else
    let s := modCairn c (fun k => { k with withheld := smSet [] k.withheld ctx.toNat [] }) s
    match smGet none (getCore s c).cairn.arrivals ctx.toNat with
    | some a =>
      if a.left then s
      else summitArrive m ctx c true (modCairn c (fun k => { k with arrivals := smSet none k.arrivals ctx.toNat (some { a with left := true, trap := true, waiting := false }) }) s)
    | none => summitArrive m ctx c true (modCairn c (fun k => { k with arrivals := smSet none k.arrivals ctx.toNat (some ⟨true, 0, false, true, false⟩) }) s)
/-- At every context (R505). -/
def failArriveAll (c : CoreId) (s : State) : State :=
  match massifOf s c with
  | some m => (List.range 16).foldl (fun s n => failArrive m c (BitVec.ofNat 4 n) s) s
  | none => s

/-- The oldest arrival withheld at a context is made, once no earlier one of the context is unreleased (R333). -/
def withheldMake (c : CoreId) (ctx : BitVec 4) (s : State) : State :=
  match smGet [] (getCore s c).cairn.withheld ctx.toNat with
  | [] => s
  | (beat, before, waiting) :: l =>
    let a : Arrival := ⟨false, before, true, false, waiting⟩
    let gated := gatedBeat (getCore s c).err beat
    let s := modCairn c (fun k => { k with
      withheld := smSet [] k.withheld ctx.toNat l
      arrivals := smSet none k.arrivals ctx.toNat (some (if gated then a else arrivalUngated s c beat a)) }) s
    if gated then gatePut c beat (.arrive ctx) s else s
/-- A release reaches a core (R333, R335, R342, R343): its cache is invalidated, its ramp begins, its wait ends, and the next arrival at
the context that was withheld is made. A core that still waits, there or at another summit, goes on with its wait's scree load. -/
def releaseCore (m : Massif) (ctx : BitVec 4) (c : CoreId) (s : State) : State :=
  match smGet none (getCore s c).cairn.arrivals ctx.toNat with
  | none => s
  | some a =>
    let r := ctxRamp s m ctx
    let waits := (getCore s c).cairn.waitKind == 2
    let waitEnds := waits && (getCore s c).cairn.waitIdx.toNat == ctx.toNat &&
      (a.waiting || (smGet [] (getCore s c).cairn.withheld ctx.toNat).isEmpty)
    let s := modCore c (fun k => { k with
      ledge := cacheClear k.ledge
      cairn := { k.cairn with
        arrivals := smSet none k.cairn.arrivals ctx.toNat none
        released := if a.waiting then k.cairn.released ||| (1#16 <<< ctx.toNat) else k.cairn.released
        ramp := r
        rampQuarter := if r == 0 then 4 else 0
        waitKind := if waitEnds then 0 else k.cairn.waitKind
        waitIdx := if waitEnds then 0 else k.cairn.waitIdx
        screeSince := if waitEnds then s.tb.count else k.cairn.screeSince
        scree := if waits && !waitEnds then k.cairn.scree else if r == 0 then 0 else ctxScree s m ctx * 3 } }) s
    if (getCore s c).err.failed then failArrive m c ctx s else withheldMake c ctx s

/-- A release goes from the summit unit to a cluster's cores, as a packet of class SIGNAL (R335, R370). -/
def releaseClus (m : Massif) (ctx : BitVec 4) (cores : List CoreId) (p : Option Nat) (s : State) : State :=
  match p with
  | some p => if crossesFailed s diePort p then s else cores.foldl (fun s c => releaseCore m ctx c s) (ridgeMove diePort p 0 none 1 s)
  | none => s

/-- The generation advances: arrivals cleared, skew recorded (R336, R344). -/
def summitAdvance (m : Massif) (key : Nat) (s : State) : State :=
  modInst m key (fun i => { SummitInst.reset with
    gen := i.gen + 1
    skew := min (2 ^ 32 - 1) (i.last - i.first).toNat
    wait := min (2 ^ 32 - 1) (s.tb.count - i.sentAt).toNat }) s

/-- Ticks by which the staircase delays each member cluster (R341). -/
def stairDelay (s : State) (m : Massif) (ctx : BitVec 4) (p : PClus) : Nat :=
  mclusIdx s m p * (min 16 (ctxSpread s m ctx) * 500) / max 1 (memberClus (getMassif s m)).length
/-- A release starts down the staircase. -/
def stairStart (m : Massif) (ctx : BitVec 4) (s : State) : State :=
  let items := (massifClus s m).map (fun p =>
    let k := getClus s p
    (⟨ctx, k.repair.lclus, now s + stairDelay s m ctx p, (activeCores k).map (fun q => ⟨p, q⟩)⟩ : StairItem))
  modSummit m (fun k => { k with stair := k.stair ++ items }) s

/-- What a TREE release records (R345..R347). -/
def treeRecord (m : Massif) (a : SummitArgs) (s : State) : State :=
  let k := (getMassif s m).summit
  let consec := if a.lastNode == k.nodeId then min 31 (k.consec + 1) else 0
  let hit := consec = 16 && k.consec = 15
  let s := modSummit m (fun k => { k with
    consec := consec, straggler := k.straggler || consec = 16, lastNode := a.lastNode, rate := a.rate, throttle := a.throttle
    rateNode := a.rateNode, followActive := k.follow }) s
  retarget (if hit then raiseEvt (pageSeq m) 0x270 s else s)

/-- A TREE release at this die: passed to the children and to the staircase (R337). -/
def treeRelease (m : Massif) (a : SummitArgs) (s : State) : State :=
  let k := (getMassif s m).summit
  let s := (treeChildren k).foldl (fun s c => summitSend m c a s) s
  stairStart m a.ctx (treeRecord m a (summitAdvance m (instKey 3 a.ctx 0) s))

/-- A summit whose arrivals have all been received, none flagged, releases (R335). -/
def summitRelease (m : Massif) (ctx : BitVec 4) (lclus : Nat) (s : State) : State :=
  let scope := ctxScope s m ctx
  let k := (getMassif s m).summit
  let key := instKey scope ctx lclus
  let i := getInst s m key
  if scope = 0 || !massifHolds (getMassif s m) || i.trap || !allArrived s m scope lclus i || (summitParts s m scope lclus).isEmpty then s
  else if scope = 1 then releaseClus m ctx (summitParts s m 1 lclus) ((physClus s lclus).map (·.val)) (summitAdvance m key s)
  else if scope = 2 then stairStart m ctx (summitAdvance m key s)
  else if treeBad s k || k.broken.getLsbD ctx.toNat || k.held.getLsbD ctx.toNat || (treeParent k).isSome || k.children &&& ~~~i.childArr != 0 then s
  else
    let (r, n, t) := summitPace s m i
    treeRelease m ⟨ctx, true, false, false, i.gen, i.lastNode, r, n, t⟩ s

/-- A discarded SUMMIT message (R338). -/
def genErr (m : Massif) (s : State) : State := raiseEvt (pageSeq m) 0x268 (modSummit m (fun k => { k with genErr := true }) s)

/-- A SUMMIT message received on a col by the massif whose tree names it (R338, R339, R403). -/
def summitReceive (m : Massif) (c : Col) (a : SummitArgs) (s : State) : State :=
  let k := (getMassif s m).summit
  let key := instKey 3 a.ctx 0
  let i := getInst s m key
  let right := if a.release then treeParent k == some c else k.children.getLsbD c.val
  if ctxScope s m a.ctx != 3 || a.gen != i.gen || !right then genErr m s
  else if !a.release then
    let s := modInst m key (fun i =>
      let low := a.rate.toNat < i.rate.toNat
      { i with
        childArr := i.childArr ||| (1#16 <<< c.val)
        trap := i.trap || a.trap
        lastNode := a.lastNode
        rate := if low then a.rate else i.rate
        rateNode := if low then a.rateNode else i.rateNode
        throttle := if i.throttle.toNat < a.throttle.toNat then a.throttle else i.throttle }) s
    treeCheck m a.ctx s
  else if a.held then
    let s := if treeBad s k then s else (treeChildren k).foldl (fun s d => summitSend m d a s) s
    heldNote m key (summitHold m a.ctx key s)
  else if treeBad s k || k.broken.getLsbD a.ctx.toNat then s
  else treeRelease m a s

/-- A col that a massif's tree names has left MGMT_ONLY or UP: its TREE contexts are broken (R339). -/
def treeBreak (c : Col) (s : State) : State :=
  allMassifs.foldl (fun s m =>
    if treeNames (getMassif s m).summit c then
      (List.range 16).foldl (fun s n =>
        let ctx := BitVec.ofNat 4 n
        if ctxScope s m ctx = 3 then
          raiseEvt (pageSeq m) 0x268 (modSummit m (fun k => { k with broken := k.broken ||| (1#16 <<< n) }) s)
        else s) s
    else s) s

/-! ## Commands -/

/-- An arrival may leave its core: no write that it covers is outstanding and no signal that it covers is still on this die, and the gate
does not hold it (R334, R500). -/
def arrivalReady (s : State) (c : CoreId) (a : Arrival) : Bool :=
  !a.left && !a.gated && (getCore s c).xfer.outWrites.all (fun n => a.before ≤ n) && (getCore s c).xfer.outSignals.all (fun n => a.before ≤ n)
/-- ARRIVAL_DEPART (R334). -/
def execArrivalDepart (c : CoreId) (ctx : BitVec 4) (s : State) : Host.Outcome State Fault Refusal :=
  whenAwake s (fun s =>
    match smGet none (getCore s c).cairn.arrivals ctx.toNat, massifOf s c with
    | some a, some m =>
      if arrivalReady s c a then
        let s := modCairn c (fun k => { k with arrivals := smSet none k.arrivals ctx.toNat (some { a with left := true }) }) s
        if crossesFailed s c.clus.val diePort then s else summitArrive m ctx c a.trap (ridgeDie c.clus.val 0 (some m) 1 s)
      else s
    | _, _ => s)

/-- SUMMIT_RELEASE (R335). -/
def execSummitRelease (m : Massif) (ctx : BitVec 4) (lclus : BitVec 6) (s : State) : Host.Outcome State Fault Refusal :=
  whenAwake s (summitRelease m ctx lclus.toNat)

/-- STAIRCASE_RELEASE (R341): the release reaches a cluster at its time. -/
def execStaircaseRelease (m : Massif) (ctx : BitVec 4) (lclus : BitVec 6) (s : State) : Host.Outcome State Fault Refusal :=
  whenAwake s (fun s =>
    match (getMassif s m).summit.stair.find? (fun i => i.ctx == ctx && i.lclus == lclus) with
    | none => s
    | some i =>
      if now s < i.due then s
      else
        releaseClus m ctx i.cores ((physClus s lclus.toNat).map (·.val)) (modSummit m (fun k => { k with stair := k.stair.erase i }) s))

/-- SCREE_STEP_DOWN (R342): a wait of 2^(HOLD+6) ticks steps scree load down by a quarter of SCREE at a time, as R343's quarters do, also
where RAMP is 0 and R343 gives no quarters (DESIGN CHOICE, log entry 137). -/
def execScreeStepDown (c : CoreId) (s : State) : Host.Outcome State Fault Refusal :=
  whenAwake s (fun s =>
    match massifOf s c with
    | none => s
    | some m =>
      let k := (getCore s c).cairn
      let ctx := bitsAt k.waitIdx 0 4
      if k.waitKind == 2 && k.scree > 0 && 2 ^ (ctxHold s m ctx + 6) ≤ now s - k.screeSince.toNat then
        modCairn c (fun k => { k with scree := k.scree - ctxScree s m ctx }) s
      else s)

/-- The next quarter of a ramp: in quarter q the load is SCREE × (3 − q) sixty-fourths (R343). The load of a summit wait is R342's. -/
def nextQuarter (k : CairnSt) : CairnSt :=
  let q := k.rampQuarter.toNat
  if q < 4 then { k with
    rampQuarter := k.rampQuarter + 1
    scree := if k.waitKind == 2 then k.scree else if q < 3 then k.scree * (2 - q) / (3 - q) else 0 }
  else k
/-- RAMP_QUARTER (R343): the next quarter of the ramp. -/
def execRampQuarter (c : CoreId) (s : State) : Host.Outcome State Fault Refusal := whenAwake s (modCairn c nextQuarter)

end Sys2Proof.Machine
end

