-- ==== Sys2Proof/Machine/Recovery.lean ====
section
/-! DEFINITION. What a core records and how it recovers: trap records and sticky flags (R227..R236), suspect spans (R499), the
commit gate (R500..R503), hard errors (R504, R505), and trap records that reach the summaries (R238). -/
namespace Sys2Proof.Machine

def modIssue (c : CoreId) (f : IssueSt → IssueSt) (s : State) : State := modCore c (fun k => { k with issue := f k.issue }) s

/-! ## Events (R227..R236, R499) -/

/-- Engine code of a slot (R229). -/
def slotEngine (slot : Nat) : BitVec 3 := BitVec.ofNat 3 slot
/-- A trap event recorded: the first fills the record, every later one counts (R231). -/
def trapRecord (e : NumEvent) (t : TrapSt) : TrapSt :=
  let t := { t with causeCount := if t.causeCount == 0xFFFF then 0xFFFF else t.causeCount + 1, anyConfig := t.anyConfig || e.cause == 7 }
  if t.valid then { t with multiple := true }
  else
    let mx := e.slot == 1
    { t with
      valid := true, cause := BitVec.ofNat 4 e.cause, engine := slotEngine e.slot, pos := BitVec.ofNat 7 e.pos, stp := BitVec.ofNat 8 e.stp
      row := BitVec.ofNat 5 e.row, cycle := e.cycle, addr := e.addr, beat := e.beat, tileId := if mx then e.tileId else 0
      gpass := if mx then e.gpass else 0, set := if mx then e.set else 0, final := mx && e.final, chain := mx && e.chain
      narrow := mx && e.narrow, toForward := true }
/-- A sticky flag set (R236). -/
def flagSet (flag : Nat) (k : Core) : Core :=
  match flag with
  | 1 => { k with trap := { k.trap with saturated := true } }
  | 2 => { k with trap := { k.trap with flushed := true } }
  | 3 => { k with trap := { k.trap with pairOverflow := true } }
  | 4 => { k with ost := { k.ost with outOverflow := true } }
  | 5 => { k with vxe := { k.vxe with overflow := true } }
  | 6 => { k with vxe := { k.vxe with divzero := true } }
  | _ => k
/-- One event applied to its core. -/
def eventApply (k : Core) (e : NumEvent) : Core := if e.cause = 0 then flagSet e.flag k else { k with trap := trapRecord e k.trap }

/-- An event comes after the opening of a suspect span, in the order of R231 (R499). -/
def afterOpening (o : Nat × BitVec 48 × Nat) (e : NumEvent) : Bool :=
  beatBefore o.2.1 e.beat || (o.2.1 == e.beat && (o.1 < e.slot || (o.1 == e.slot && o.2.2 ≤ e.stp)))
/-- An open span holds an event. -/
def eventHeld (r : ErrSt) (e : NumEvent) : Bool := r.suspect.any (fun o => afterOpening o e)
/-- e comes before f in the order of R231. -/
def eventBefore (e f : NumEvent) : Bool :=
  if e.beat != f.beat then beatBefore e.beat f.beat
  else if e.slot != f.slot then e.slot < f.slot
  else if e.stp != f.stp then e.stp < f.stp
  else if e.cycle != f.cycle then !e.cycle
  else if e.row != f.row then e.row < f.row
  else e.pos < f.pos
/-- An event put in its place in a list in that order. -/
def eventInsert (e : NumEvent) : List NumEvent → List NumEvent
  | [] => [e]
  | f :: l => if eventBefore e f then e :: f :: l else f :: eventInsert e l
/-- Events in the order of R231. -/
def eventSort (l : List NumEvent) : List NumEvent := l.foldl (fun a e => eventInsert e a) []

/-- The core's trap mode is HALT_CORE. -/
def haltCore (s : State) (c : CoreId) : Bool := match massifOf s c with | some m => (getMassif s m).runTrapMode == 1 | none => false
/-- Events of one step of one slot: applied, or held by a suspect span. -/
def eventsPost (l : List NumEvent) (k : Core) : Core :=
  (eventSort l).foldl (fun k e =>
    if eventHeld k.err e then { k with err := { k.err with heldEvents := k.err.heldEvents ++ [e] } } else eventApply k e) k
/-- Under HALT_CORE a core whose trap record is valid halts after its bundle, and after a rerun that holds issue there (R234, R512). -/
def trapStop (c : CoreId) (s : State) : State :=
  if haltCore s c && (getCore s c).trap.valid && !rerunning s c && !(getCore s c).issue.halted
    then modIssue c (fun i => { i with halted := true, waitCause := .halted, waitUnits := 0 }) s
  else s
/-- The halt that follows an operation alone, where it has made the trap record valid (R234): k is the core before it. -/
def trapRaised (c : CoreId) (k : Core) (s : State) : State := if k.trap.valid then s else trapStop c s
/-- A suspect span opens (R499); a slot has at most one. -/
def suspectOpen (slot : Nat) (beat : BitVec 48) (step : Nat) (r : ErrSt) : ErrSt :=
  if r.suspect.any (fun o => o.1 == slot) then r else { r with suspect := r.suspect ++ [(slot, beat, step)] }
/-- A slot's span closes with a commit: the failing runs' events are dropped, the committing run's stand in their place (R499). -/
def suspectClose (slot : Nat) (evs : List NumEvent) (k : Core) : Core :=
  match k.err.suspect.find? (fun o => o.1 == slot) with
  | none => eventsPost evs k
  | some o =>
    let held := k.err.heldEvents.filter (fun e => !(e.slot == slot && afterOpening o e)) ++ evs.filter (afterOpening o)
    eventsPost held { k with err := { k.err with suspect := k.err.suspect.filter (fun p => p.1 != slot), heldEvents := [] } }

/-! ## Spans and the gate (R500..R502) -/

/-- The span of a slot's operation, from its issue beat to its commit beat, opens. -/
def spanOpen (slot : Nat) (b0 b1 : BitVec 48) (r : ErrSt) : ErrSt := { r with spans := r.spans ++ [(slot, b0, b1)] }
/-- The span of a slot's operation issued at a beat closes. -/
def spanClose (slot : Nat) (b0 : BitVec 48) (r : ErrSt) : ErrSt := { r with spans := r.spans.filter (fun p => !(p.1 == slot && p.2.1 == b0)) }

/-- An effect leaves the gate. -/
def gateGo (c : CoreId) (b : BitVec 48) (g : GateItem) (s : State) : State :=
  match g with
  | .put eng w epoch held num => putGo c eng w epoch held num s
  | .stream x => nextDescriptor c x (modStream c x (fun q => { q with gated := false }) s)
  | .arrive ctx =>
    modCairn c (fun k => match smGet none k.arrivals ctx.toNat with
      | some a => { k with arrivals := smSet none k.arrivals ctx.toNat (some (arrivalUngated s c b a)) }
      | none => k) s
/-- Effects of beats no longer gated leave in issue order (R501). -/
def gateOpen (c : CoreId) : List (BitVec 48 × GateItem) → State → State
  | [], s => s
  | (b, g) :: l, s =>
    if gatedBeat (getCore s c).err b then gateOpen c l s
    else gateOpen c l (gateGo c b g (modErr c (fun r => { r with gate := r.gate.erase (b, g) }) s))
/-- Everything that may leave the gate leaves it. -/
def gateRun (c : CoreId) (s : State) : State := gateOpen c (getCore s c).err.gate s

/-- A write's number is done with. -/
def numberDone (c : CoreId) (n : Nat) (s : State) : State :=
  relDone c n (modXfer c (fun f => { f with outWrites := f.outWrites.filter (· != n), memOut := f.memOut.filter (fun e => e.1 != n) }) s)
/-- An effect that the gate discards (R502). -/
def gateDiscard (c : CoreId) (g : GateItem) (s : State) : State :=
  let s := modErr c (fun r => { r with gateDropped := satInc 32 r.gateDropped }) s
  match g with
  | .put eng _ _ held num => numberDone c num (putDrop c eng held s)
  | .stream x => streamIdle c x s
  | .arrive ctx => modCairn c (fun k => { k with arrivals := smSet none k.arrivals ctx.toNat none }) s
/-- Every gated effect discarded. -/
def gateDiscardAll (c : CoreId) (s : State) : State :=
  let l := (getCore s c).err.gate
  l.foldl (fun s e => gateDiscard c e.2 s) (modErr c (fun r => { r with gate := [] }) s)

/-! ## What every core has issued (R41, R42, R77, R82) -/

/-- The lowest beat count of a massif's cores; failed cores count as having issued everything (R42, R505). -/
def minBeat (s : State) (m : Massif) : Option (BitVec 48) :=
  ((massifCores s m).filter (fun c => !(getCore s c).err.failed)).foldl (fun b c =>
    let n := (getCore s c).issue.beat
    match b with
    | none => some n
    | some v => if beatBefore n v then some n else b) none
/-- Entries that every active core of the cluster has issued are freed (R41). -/
def fifoFree (p : PClus) (s : State) : State :=
  let cs := (activeCores (getClus s p)).filter (fun q => !(getCore s ⟨p, q⟩).err.failed)
  modClus p (fun k => { k with fifo := k.fifo.filter (fun e => !cs.all (fun q => beatBefore e.beat (getCore s ⟨p, q⟩).issue.beat)) }) s
/-- Marks that every core has issued are recorded (R77), and the watchdog sees MIN_BEAT change (R82). -/
def marksPass (m : Massif) (s : State) : State :=
  let passed (b : BitVec 48) : Bool := match minBeat s m with | some l => beatBefore b l | none => true
  modSeq m (fun q =>
    let (done, rest) := q.marks.partition (fun k => passed k.1)
    let l := (minBeat s m).getD q.nextBeat
    let q := if l == q.wdogBeat then q else { q with wdogBeat := l, wdogTick := s.tb.count, wdogActed := false }
    match done.getLast? with
    | some k => { q with mark := k.2, markBeat := k.1, marks := rest }
    | none => q) s
/-- After a core has issued a bundle, or has failed: what no core needs any more is freed and recorded (R41, R77, R82, R505). -/
def progress (c : CoreId) (s : State) : State :=
  let s := fifoFree c.clus s
  match massifOf s c with
  | some m => marksPass m s
  | none => s

/-! ## Hard errors (R504, R505) -/

/-- A hard error: cause, requester, opcode, runs, bundle address, beat, and the deciding failure. Once a die-level error is fatal every
core is in reset, and records none (R508, R512). -/
def hardError (c : CoreId) (cause : BitVec 4) (req : BitVec 4) (opcode : BitVec 6) (runs : Nat) (addr : BitVec 18) (beat : BitVec 48)
    (hit : Option ParityHit) (s : State) : State :=
  if (getCore s c).err.failed || s.err.fatal then s
  else
    let s := gateDiscardAll c s
    let s := modCore c (fun k => { k with
      issue := { k.issue with halted := true, waitCause := .halted, waitUnits := 0 }
      err := { k.err with
        valid := true, failed := true, cause := cause, req := req, opcode := opcode, runs := BitVec.ofNat 3 runs, addr := addr, beat := beat
        line := (hit.map (·.line)).getD 0, word := (hit.map (·.word)).getD 0, groups := (hit.map (·.groups)).getD 0
        rerun := [], rest := none, cycles := [], spans := [], suspect := [], heldEvents := [] } }) s
    let s := storeUnwait c.clus (.put c.core) ((List.finRange 8).foldl (fun s x => streamCancel c x s) s)
    progress c (failArriveAll c (raiseEvt (pageCoreB c) 0x780 s))

/-! ## The summaries (R238) -/

/-- TRAP_FORWARD (R238): a core's record reaches the summaries of its cluster and of the die. -/
def trapForward (c : CoreId) (s : State) : State :=
  let t := (getCore s c).trap
  if !(t.valid && t.toForward) then s
  else
    let s := modCore c (fun k => { k with trap := { k.trap with toForward := false } }) (ridgeDie c.clus.val 0 (massifOf s c) 1 s)
    let p := getClus s c.clus
    let d := s.err
    let m := ((massifOf s c).map (fun m => BitVec.ofNat 2 m.val)).getD 0
    let lost := crossesFailed s c.clus.val diePort
    let s := modClus c.clus (fun k =>
      if k.trapValid then { k with trapMultiple := true }
      else { k with
        trapValid := true, trapCause := t.cause, trapEngine := t.engine, trapCore := BitVec.ofNat 7 c.core.val, trapStamp := s.tb.count }) s
    let s := if p.trapValid then s else raiseEvt (pageClus c.clus) 0x200 s
    if lost then s else
    let s := { s with err := if d.trapValid then { s.err with trapMultiple := true }
      else { s.err with
        trapValid := true, trapMassif := m, trapCause := t.cause, trapEngine := t.engine, trapClus := BitVec.ofNat 6 c.clus.val
        trapCore := BitVec.ofNat 7 c.core.val, trapStamp := s.tb.count } }
    if d.trapValid then s else raiseEvt 2 0x100 s
/-- TRAP_FORWARD (R238). -/
def execTrapForward (c : CoreId) (s : State) : Host.Outcome State Fault Refusal := whenAwake s (trapForward c)

end Sys2Proof.Machine
end

