-- ==== Sys2Proof/Machine/Vector.lean ====
section
/-! DEFINITION. The vector engine (chapter 08): lanes, correctly rounded arithmetic, the approximated functions inside
their stated bounds, reductions, rotation, comparison, conversion and moves. -/
namespace Sys2Proof.Machine

/-! ## Lanes (R210) -/

/-- Lanes of a register under BF. -/
def vLanes (bf : Bool) : Nat := if bf then 128 else 64
/-- The code of lane p in a register's bytes. -/
def vLane (bf : Bool) (bs : List Byte) (p : Nat) : Nat :=
  if bf then leNat ((bs.drop (2 * p)).take 2) else leNat ((bs.drop (4 * p)).take 4)
/-- A register's bytes from lane codes. -/
def vPack (bf : Bool) (codes : List Nat) : List Byte := codes.flatMap (fun c => leBytes c (if bf then 2 else 4))
/-- A register's 256 bytes. -/
def vReg (v : VxeSt) (r : BitVec 4) : List Byte := memRead v.vregs (256 * r.toNat) 256
/-- A register written. -/
def vWrite (v : VxeSt) (r : BitVec 4) (bs : List Byte) : VxeSt := { v with vregs := memWrite v.vregs (256 * r.toNat) bs }

/-- Fraction bits under BF. -/
def vMb (bf : Bool) : Nat := if bf then 7 else 23
/-- A lane's value, and its sign bit. -/
def vVal (bf : Bool) (c : Nat) : Val := ieeeDecode (vMb bf) c
def vSign (bf : Bool) (c : Nat) : Bool := ieeeSign (vMb bf) c
/-- The canonical NaN (R217). -/
def vNan (bf : Bool) : Nat := if bf then 0x7FC0 else 0x7FC00000

/-- A lane result: its code, its cause (R228) and the flags it sets (5 OVERFLOW, 6 DIVZERO). -/
abbrev LaneOut := Nat × Nat × List Nat

/-- A rounded result: OVERFLOW when a finite value rounds to infinity (R215). zneg is the sign of an exact zero. -/
def vRound (bf : Bool) (zneg : Bool) (v : Val) : LaneOut :=
  let (c, ovf) := ieeeEncode (vMb bf) zneg v
  (c, 0, if ovf then [5] else [])

/-- x·y + z with one rounding; a missing factor or addend is left out. Zero signs are IEEE 754's (R215, R217). -/
def vFma (bf : Bool) (xy : Option (Nat × Nat)) (neg : Bool) (z : Option Nat) : LaneOut :=
  let isNan (c : Nat) : Bool := valIsNan (vVal bf c)
  let ops := (match xy with | some (x, y) => [x, y] | none => []) ++ (match z with | some z => [z] | none => [])
  if ops.any isNan then (vNan bf, 1, [])
  else
    let prod : Option (Val × Bool × Bool) := xy.map (fun q =>
      let x := vVal bf q.1
      let y := vVal bf q.2
      let sg := (vSign bf q.1 != vSign bf q.2) != neg
      match x, y with
      | .fin a, .fin b => (.fin ⟨if neg then -(a.m * b.m) else a.m * b.m, a.e + b.e⟩, sg, false)
      | .inf _, .fin b => (.inf sg, sg, dyIsZero b)
      | .fin a, .inf _ => (.inf sg, sg, dyIsZero a)
      | _, _ => (.inf sg, sg, false))
    match prod, z with
    | some (p, sp, bad), some z =>
      if bad then (vNan bf, 2, [])
      else if valOpposite p (vVal bf z) then (vNan bf, 3, [])
      else
        let sz := vSign bf z
        vRound bf (valIsZero p && valIsZero (vVal bf z) && sp && sz) (valAdd p (vVal bf z))
    | some (p, sp, bad), none => if bad then (vNan bf, 2, []) else vRound bf sp p
    | none, some z => vRound bf (vSign bf z) (vVal bf z)
    | none, none => (0, 0, [])

/-- x ± y with one rounding (R215). -/
def vAdd (bf : Bool) (neg : Bool) (x y : Nat) : LaneOut :=
  let vx := vVal bf x
  let vy := match vVal bf y with
    | .fin a => if neg then .fin (dyNeg a) else .fin a
    | .inf n => .inf (n != neg)
    | .nan => .nan
  let sy := vSign bf y != neg
  if valIsNan vx || valIsNan vy then (vNan bf, 1, [])
  else if valOpposite vx vy then (vNan bf, 3, [])
  else vRound bf (valIsZero vx && valIsZero vy && vSign bf x && sy) (valAdd vx vy)

/-- max or min, exact; max(+0, -0) is +0 and min is -0 (R216). -/
def vMaxMin (bf : Bool) (mx : Bool) (x y : Nat) : LaneOut :=
  let vx := vVal bf x
  let vy := vVal bf y
  if valIsNan vx || valIsNan vy then (vNan bf, 1, [])
  else if valIsZero vx && valIsZero vy then (if vSign bf x == mx then y else x, 0, [])
  else if valGt vx vy == mx then (x, 0, []) else (y, 0, [])

/-- Product x·c − y·s or x·s + y·c of VROT: two exact products, one rounding (R220). -/
def vDot (bf : Bool) (sub : Bool) (x c y s : Nat) : LaneOut :=
  if [x, c, y, s].any (fun k => valIsNan (vVal bf k)) then (vNan bf, 1, [])
  else
    let mul (a b : Nat) (neg : Bool) : Val × Bool × Bool :=
      let sg := (vSign bf a != vSign bf b) != neg
      match vVal bf a, vVal bf b with
      | .fin u, .fin w => (.fin ⟨if neg then -(u.m * w.m) else u.m * w.m, u.e + w.e⟩, sg, false)
      | .inf _, .fin w => (.inf sg, sg, dyIsZero w)
      | .fin u, .inf _ => (.inf sg, sg, dyIsZero u)
      | _, _ => (.inf sg, sg, false)
    let (p, sp, b1) := mul x c false
    let (q, sq, b2) := mul y s sub
    if b1 || b2 then (vNan bf, 2, [])
    else if valOpposite p q then (vNan bf, 3, [])
    else vRound bf (valIsZero p && valIsZero q && sp && sq) (valAdd p q)

/-! ## Approximated functions (R218) -/

/-- |r − 1/x| ≤ u, for x ≠ 0: |r·x − 1| ≤ u·|x|. -/
def recipWithin (x r u : Dy) : Bool := dyLe (dyAbs (dySub (dyMul r x) ⟨1, 0⟩)) (dyMul u (dyAbs x))
/-- |r − 1/√x| ≤ u, for x > 0: (r−u)²·x ≤ 1 ≤ (r+u)²·x, r − u ≥ 0. -/
def rsqrtWithin (x r u : Dy) : Bool :=
  let a := dySub r u
  let b := dyAdd r u
  !dyNegative a && dyLe (dyMul (dyMul a a) x) ⟨1, 0⟩ && dyLe ⟨1, 0⟩ (dyMul (dyMul b b) x)

/-- ⌊√n⌋ by binary digits. -/
def isqrtBits (n : Nat) : Nat → Nat → Nat
  | 0, r => r
  | b + 1, r => let t := r + 2 ^ b; isqrtBits n b (if t * t ≤ n then t else r)

/-- 1/√a to more than 40 significant bits, for a > 0. -/
def dyRsqrt (a : Dy) : Dy :=
  let a : Dy := if a.e % 2 = 0 then a else ⟨2 * a.m, a.e - 1⟩
  let k := (a.m.natAbs.log2 + 1) / 2 * 2 + 120
  let r := isqrtBits (2 ^ k / a.m.natAbs) (k / 2 + 1) 0
  ⟨(r : Int), -((k : Int) / 2) - a.e / 2⟩

/-- One ulp of binary32 at a value (R218). -/
def ulp32 (a : Dy) : Dy := ⟨1, ieeeUnit 23 a⟩

/-- VRCP in binary32 on a finite non-zero operand: the silicon's value where it keeps the bound, and the nearest value where
it would not. Exact for ±2^k with k in −126..127. Answers code and overflow. -/
def rcp32 (x : Nat) : Nat × Bool :=
  match f32Decode x with
  | .fin a =>
    let exact := dyRecip a
    let pow2 : Bool := a.m.natAbs == 2 ^ a.m.natAbs.log2
    let near := f32Encode (dyNegative a) (.fin exact)
    if pow2 && -126 ≤ dyLog2 a && dyLog2 a ≤ 127 then f32Encode false (.fin ⟨if dyNegative a then -1 else 1, -dyLog2 a⟩)
    else if dyLog2 a < -128 then ((if dyNegative a then 2 ^ 31 else 0) + 0x7F800000, true)
    else
      let c := (Config.vrcp (BitVec.ofNat 32 x)).toNat
      match f32Decode c with
      | .fin r => if recipWithin a r (ulp32 exact) then (c, false) else near
      | .inf n => if dyLog2 a < -127 && n == dyNegative a then (c, true) else near
      | .nan => near
  | _ => (0, false)

/-- VRSQRT in binary32 on a positive finite operand. Exact for 2^(2k), k in −74..63. -/
def rsqrt32 (x : Nat) : Nat :=
  match f32Decode x with
  | .fin a =>
    let exact := dyRsqrt a
    let l := dyLog2 a
    if a.m.natAbs == 2 ^ a.m.natAbs.log2 && l % 2 == 0 then (f32Encode false (.fin ⟨1, -(l / 2)⟩)).1
    else
      let c := (Config.vrsqrt (BitVec.ofNat 32 x)).toNat
      match f32Decode c with
      | .fin r => if rsqrtWithin a r (ulp32 exact) then c else (f32Encode false (.fin exact)).1
      | _ => (f32Encode false (.fin exact)).1
  | _ => 0

/-- VEXP in binary32 on a finite operand: the range edges as stated; between them the silicon's value where it keeps the bound, and the
nearest value where it would not. Infinity is an overflow (R236). Code and overflow. -/
def exp32 (x : Nat) : Nat × Bool :=
  match f32Decode x with
  | .fin a =>
    if dyIsZero a then (0x3F800000, false)
    else if dyLe ⟨8872284, 0⟩ (dyMul a ⟨100000, 0⟩) then (0x7F800000, true)
    else if dyLe (dyMul a ⟨100, 0⟩) ⟨-10398, 0⟩ then (0, false)
    else
      let exact := dyExp a
      let u := dyMul ⟨2, 0⟩ (ulp32 exact)
      let near := f32Encode false (.fin exact)
      let c := (Config.vexp (BitVec.ofNat 32 x)).toNat
      match f32Decode c with
      | .fin r => if c < 2 ^ 31 && dyLe (dyAbs (dySub r exact)) u then (c, false) else near
      | .inf n => if !n && dyLe ⟨2 ^ 25 - 1, 103⟩ (dyAdd exact u) then (c, true) else near
      | .nan => near
  | _ => (0, false)

/-- A binary32 result rounded again when BF = 1 (R218). -/
def vNarrow (bf : Bool) (r : Nat × Bool) : LaneOut :=
  if bf then
    let (c, ovf) := bf16Encode (ieeeSign 23 r.1) (f32Decode r.1)
    (c, 0, if ovf || r.2 then [5] else [])
  else (r.1, 0, if r.2 then [5] else [])

/-- A lane of VEXP (0), VRCP (1) or VRSQRT (2) (R217, R218). -/
def vApprox (bf : Bool) (f : Nat) (c : Nat) : LaneOut :=
  let x32 := if bf then c * 65536 else c
  let sgn := vSign bf c
  let inf (n : Bool) : Nat := (if n then 2 ^ (vMb bf + 8) else 0) + 255 * 2 ^ vMb bf
  let zero (n : Bool) : Nat := if n then 2 ^ (vMb bf + 8) else 0
  match vVal bf c with
  | .nan => (vNan bf, 1, [])
  | .inf n =>
    if f = 0 then (if n then zero false else inf false, 0, [])
    else if f = 1 then (zero n, 0, [])
    else if n then (vNan bf, 5, []) else (zero false, 0, [])
  | .fin a =>
    if f = 0 then vNarrow bf (exp32 x32)
    else if dyIsZero a then (inf sgn, 0, [6])
    else if f = 1 then vNarrow bf (rcp32 x32)
    else if dyNegative a then (vNan bf, 5, [])
    else vNarrow bf (rsqrt32 x32, false)

/-! ## Reductions (R219) -/

/-- Pairs of a level combined; a list of odd length keeps its last element. -/
def pairUp {α : Type} (f : α → α → α) : List α → List α
  | a :: b :: rest => f a b :: pairUp f rest
  | l => l
/-- The tree of d levels. -/
def treeReduce {α : Type} (f : α → α → α) : Nat → List α → List α
  | 0, l => l
  | d + 1, l => treeReduce f d (pairUp f l)

/-- VRED: the root's lane code, its cause and position, and its flags. The special cases apply node by node: a NaN takes the place of the
nodes above it, and every other node sets its own flags. -/
def vReduce (bf : Bool) (sub : Nat) (codes : List Nat) : Nat × Nat × Nat × List Nat :=
  let d := if bf then 7 else 6
  let nanAt := codes.findIdx? (fun c => valIsNan (vVal bf c))
  if sub = 0 then
    let start := codes.map (fun c => ((if bf then c * 65536 else c), 0, ([] : List Nat)))
    let f (x y : LaneOut) : LaneOut := let r := vAdd false false x.1 y.1; (r.1, r.2.1, x.2.2 ++ y.2.2 ++ r.2.2)
    let root := (treeReduce f d start).getD 0 (0, 0, [])
    match nanAt with
    | some p => (vNan bf, 1, p, root.2.2)
    | none =>
      if root.2.1 != 0 then (vNan bf, 3, 0, root.2.2)
      else
        let r := vNarrow bf (root.1, false)
        (r.1, 0, 0, root.2.2 ++ r.2.2)
  else
    match nanAt with
    | some p => (vNan bf, 1, p, [])
    | none =>
      let f (x y : Nat) : Nat := (vMaxMin bf (sub == 1) x y).1
      ((treeReduce f d codes).getD 0 0, 0, 0, [])

/-! ## Whole operations -/

/-- A VXE event at step s of an operation. -/
def vxeEvent (pr : Progress) (pos cause flag : Nat) : NumEvent where
  beat := pr.beat + BitVec.ofNat 48 pr.step
  slot := 2
  cycle := false
  row := 0
  pos := pos
  stp := pr.step
  addr := pr.addr
  cause := cause
  flag := flag
  tileId := 0
  gpass := 0
  set := 0
  final := false
  chain := false
  narrow := false

/-- Events of lane outcomes. -/
def laneEvents (pr : Progress) (outs : List LaneOut) : List NumEvent :=
  (List.range outs.length).flatMap (fun p =>
    let o := outs.getD p (0, 0, [])
    (if o.2.1 != 0 then [vxeEvent pr p o.2.1 0] else []) ++ o.2.2.map (fun f => vxeEvent pr p 0 f))

/-- A lane-wise result written. -/
def vLanewise (pr : Progress) (bf : Bool) (vd : BitVec 4) (f : Nat → LaneOut) (v : VxeSt) : VxeSt × List NumEvent :=
  let outs := (List.range (vLanes bf)).map f
  (vWrite v vd (vPack bf (outs.map (·.1))), laneEvents pr outs)

/-- The rotation of lane p (R220). -/
def vRotLane (bf : Bool) (half : Bool) (va vb vc : List Byte) (p : Nat) : LaneOut :=
  let n := vLanes bf
  let ln (b : List Byte) (i : Nat) : Nat := vLane bf b i
  let (a, b) := if half then (p % (n / 2), p % (n / 2) + n / 2) else (p / 2 * 2, p / 2 * 2 + 1)
  let x := ln va a
  let y := ln va b
  let c := ln vb a
  let s := ln vc a
  if p = a then vDot bf true x c y s else vDot bf false x s y c

/-- Lane comparison (R221). -/
def vCompare (bf : Bool) (cond : Nat) (x y : Nat) : Bool :=
  let vx := vVal bf x
  let vy := vVal bf y
  if valIsNan vx || valIsNan vy then cond == 3
  else
    let gt := valGt vx vy
    let lt := valGt vy vx
    match cond with
    | 0 => lt | 1 => !gt | 2 => !gt && !lt | 3 => gt || lt | 4 => !lt | _ => gt

/-- VCMP's result (R221). -/
def vcmpResult (v : VxeSt) (a : VcmpArgs) : Bool :=
  let va := vReg v a.va
  let vb := vReg v a.vb
  let r (p : Nat) : Bool := vCompare a.bf a.cond.toNat (vLane a.bf va p) (vLane a.bf vb p)
  let ps := List.range (vLanes a.bf)
  match a.mode.toNat with
  | 0 => r 0
  | 1 => ps.any r
  | _ => ps.all r

/-- VTOOF's value (R224). -/
def vtoofResult (v : VxeSt) (a : VtoofArgs) : OfReg := BitVec.ofNat 48 (leNat ((vReg v a.va).take 6))

/-- The one-beat operations that write a vector register at step 0 (R215..R217, R220, R222, R223). -/
def vxeNow (pr : Progress) (op : VxeOp) (v : VxeSt) : VxeSt × List NumEvent :=
  let two (a : VarithArgs) (f : Nat → Nat → LaneOut) : VxeSt × List NumEvent :=
    let x := vReg v a.va
    let y := vReg v a.vb
    vLanewise pr a.bf a.vd (fun p => f (vLane a.bf x p) (vLane a.bf y p)) v
  match op with
  | .vadd a => two a (vAdd a.bf false)
  | .vsub a => two a (vAdd a.bf true)
  | .vmul a => two a (fun x y => vFma a.bf (some (x, y)) false none)
  | .vfma a =>
    let z := vReg v a.vc
    let x := vReg v a.va
    let y := vReg v a.vb
    vLanewise pr a.bf a.vd (fun p => vFma a.bf (some (vLane a.bf x p, vLane a.bf y p)) false (some (vLane a.bf z p))) v
  | .vmax a => two a (vMaxMin a.bf true)
  | .vmin a => two a (vMaxMin a.bf false)
  | .vrot a =>
    let x := vReg v a.va
    let y := vReg v a.vb
    let z := vReg v a.vc
    vLanewise pr a.bf a.vd (vRotLane a.bf (a.sub == 1) x y z) v
  | .vcvt a =>
    let x := vReg v a.va
    let y := vReg v a.vb
    if a.sub == 0 then
      let outs := (List.range 128).map (fun p =>
        let c := if p < 64 then vLane false x p else vLane false y (p - 64)
        let (k, ovf) := bf16Encode (vSign false c) (vVal false c)
        (k, 0, if ovf then [5] else []))
      (vWrite v a.vd (vPack true (outs.map (·.1))), laneEvents pr outs)
    else
      let base := if a.sub == 1 then 0 else 64
      (vWrite v a.vd (vPack false ((List.range 64).map (fun p => vLane true x (p + base) * 65536))), [])
  | .vbcast a =>
    let c := vLane a.bf (vReg v a.va) a.j.toNat
    (vWrite v a.vd (vPack a.bf (List.replicate (vLanes a.bf) c)), [])
  | _ => (v, [])

/-- The two-beat operations at step 1, from the operand bytes read at step 0 (R212, R218, R219). -/
def vxeLate (pr : Progress) (op : VxeOp) (va : List Byte) (v : VxeSt) : VxeSt × List NumEvent :=
  let one (a : VarithArgs) (f : Nat) : VxeSt × List NumEvent := vLanewise pr a.bf a.vd (fun p => vApprox a.bf f (vLane a.bf va p)) v
  match op with
  | .vexp a => one a 0
  | .vrcp a => one a 1
  | .vrsqrt a => one a 2
  | .vred a =>
    let codes := (List.range (vLanes a.bf)).map (vLane a.bf va)
    let (c, cause, pos, fl) := vReduce a.bf a.sub.toNat codes
    (vWrite v a.vd (vPack a.bf (List.replicate (vLanes a.bf) c)),
      (if cause != 0 then [vxeEvent pr pos cause 0] else []) ++ fl.map (fun f => vxeEvent pr 0 0 f))
  | _ => (v, [])

end Sys2Proof.Machine
end

