-- ==== Sys2Proof/Machine/Engines.lean ====
section
/-! DEFINITION. The MXE, VXE and OST slots of a bundle (chapters 03, 05, 07, 08): operands latched at issue (R25, R88..R92), the
step of an operation in progress (R26), its commit, and what a failing read leaves for a rerun (R161, R214, R496..R499). -/
namespace Sys2Proof.Machine

/-! ## Operands (R25, R87..R92) -/

/-- The latch of a core's present beat. -/
def latchOf (i : IssueSt) (addr : BitVec 18) : Latched := ⟨i.ofs, i.pfs, i.guards, i.ext, addr, i.beat⟩
/-- Slot 1..6 executes (R91). -/
def guardOn (t : Latched) (slot : Nat) : Bool := t.guards.getLsbD (slot - 1)
/-- The extension of a slot (R90). -/
def extOf (t : Latched) (slot : Nat) : BitVec 23 := match t.ext with | some (k, x) => if k.toNat = slot then x else 0 | none => 0
/-- A latched offset register. -/
def latOf (t : Latched) (r : BitVec 5) : OfReg := t.ofs.get r.toFin
/-- An offset register written. -/
def ofWrite (r : BitVec 5) (v : OfReg) (i : IssueSt) : IssueSt := { i with ofs := i.ofs.set r.toNat v }
/-- A predicate flag written; PF0 ignores writes (R73). -/
def pfWrite (d : BitVec 3) (v : Bool) (i : IssueSt) : IssueSt :=
  if d == 0 then i else { i with pfs := if v then i.pfs ||| (1#8 <<< d.toNat) else i.pfs &&& ~~~(1#8 <<< d.toNat) }
/-- The ledge address of OF + d·unit, extended by the slot's X (R88, R90). -/
def latRef (t : Latched) (slot : Nat) (base : BitVec 5) {w : Nat} (d : BitVec w) (unit : Nat) : Nat :=
  refAddr (latOf t base) (extOf t slot ++ d).toNat unit unit
/-- The progress of an operation that a slot starts. -/
def startOp (t : Latched) (off : Bool) : Progress := ⟨t.addr, t.beat, 0, off⟩

/-- A counter of w bits that wraps. -/
def incr48 (n : BitVec 48) : BitVec 48 := n + 1

/-! ## Failing reads (R496, R497, R499) -/

/-- Distinct lines of parity hits. -/
def hitLines (hs : List ParityHit) : List (BitVec 9) := (hs.map (·.line)).eraseDups
/-- The first failing read of a run opens its slot's suspect span (R499). -/
def suspectNote (slot : Nat) (beat : BitVec 48) (step : Nat) (hs : List ParityHit) (k : Core) : Core :=
  if hs.isEmpty then k else { k with err := suspectOpen slot beat step k.err }
/-- An operation's first run reached its commit step with failing reads: it waits for a rerun. -/
def rerunAdd (op : RerunOp) (off : Bool) (slot : Nat) (opcode : BitVec 6) (addr : BitVec 18) (beat commit : BitVec 48) (hs : List ParityHit)
    (k : Core) : Core :=
  { k with err := { k.err with rerun := k.err.rerun ++ [⟨op, off, slot, opcode, addr, beat, commit, 1, hitLines hs⟩] } }
/-- A one-step operation: its span, its read's outcome, and its commit when the read passed. -/
def oneStep (slot : Nat) (opcode : BitVec 6) (t : Latched) (off : Bool) (op : RerunOp) (hs : List ParityHit) (commit : Core → Core) (k : Core) : Core :=
  if hs.isEmpty then commit k
  else
    let k := { k with err := spanOpen slot t.beat t.beat k.err }
    rerunAdd op off slot opcode t.addr t.beat t.beat hs (suspectNote slot t.beat 0 hs k)

/-! ## MXE (R98..R101, R143..R162) -/

/-- Opcode of an operation in the MXE slot. -/
def mxeOpcode : MxeRun → BitVec 6
  | .mcfg _ _ => 1
  | .malat _ _ _ => 2
  | .mtld _ _ => 4
  | .pass p => if p.tile then 5 else 3
/-- Ledge slots of a step: reads and writes (R98). -/
def mxeSlots (pr : Progress) (r : MxeRun) : Nat × Nat :=
  match r with
  | .pass p => ((passReads p pr.step).length, if !p.final && (if p.tile then pr.step ≥ passSteps p else pr.step + 1 = passSteps p) then 1 else 0)
  | _ => (1, 0)
/-- Cell cycles of a step, and their event code (R140, R442). -/
def mxeCells (pr : Progress) (r : MxeRun) : Nat × Nat :=
  match r with
  | .pass p => (if passBf p then 1 else 0, if pr.step < passSteps p then (if p.tile && passBf p then 2 else 1) else 0)
  | _ => (0, 0)

/-- A pass whose set fails the check is recorded, and its operation does nothing (R160). -/
def passFail (pr : Progress) (p : MxePass) (code : Nat) (opcode : BitVec 6) (k : Core) : Core :=
  if code != 0 then
    eventsPost [{ mxeEvent pr p false 0 0 7 0 with stp := 0 }]
      { k with mxe := { k.mxe with configTrapped := true, cfgFail := cfgFailNote code p.c opcode k.mxe.cfgFail } }
  else k
/-- A pass issues: configuration check, indices, cursor, tile, increment (R89, R101, R145, R149, R154, R160). -/
def passStart (env : Env) (t : Latched) (p : MxePass) (opcode : BitVec 6) (inc : IssueSt → IssueSt) (k : Core) : Core × Progress × MxeRun :=
  let code := if guardOn t 1 then mxeCheck env.mx6 p else 0
  let off := !guardOn t 1 || code != 0
  let pr := startOp t off
  let k := passFail pr p code opcode k
  (if off then k else { k with mxe := passIssue p k.mxe, issue := inc k.issue }, pr, .pass p)

/-- The operation that an MXE slot starts; MCLR acts at once. -/
def mxeStart (env : Env) (t : Latched) (op : MxeOp) (k : Core) : Core × Option (Progress × MxeRun) :=
  let on := guardOn t 1
  let pr := startOp t (!on)
  match op with
  | .nop => (k, none)
  | .mcfg a => (k, some (pr, .mcfg a.c (latRef t 1 a.base a.d 1024)))
  | .malat a =>
    (if on && a.reset then { k with mxe := { k.mxe with cursor := BitVec.ofNat 14 (1024 * a.s.toNat) } } else k,
      some (pr, .malat (a.n1.toNat + 1) a.s.toNat (latRef t 1 a.base a.d 1024)))
  | .mwsp a =>
    let p := mwspPass t.ofs k.mxe a (extOf t 1)
    let inc (i : IssueSt) : IssueSt :=
      if a.winc then ofWrite a.base (latOf t a.base + BitVec.ofNat 48 (1024 * passWeightLines a.wcls p.ksteps)) i else i
    let q := passStart env t p 3 inc k
    (q.1, some q.2)
  | .mtld a => (k, some (pr, .mtld (if a.wcls == 1 then 2 else 1) (latRef t 1 a.base a.d 1024)))
  | .mtp a =>
    let q := passStart env t (mtpPass t.ofs k.mxe a) 5 id k
    (q.1, some q.2)
  | .mclr => (if on then { k with mxe := { k.mxe with resHi := [], resLo := [], cursor := 0 } } else k, none)

/-- What a step of the MXE leaves in it and in the ledge; at step 0 the operation's span opens (R499). -/
def mxeTake (pr : Progress) (r : MxeRun) (q : MxeSt × LedgeSt × List NumEvent × List ParityHit) (hits : List ParityHit) (k : Core) : Core :=
  { k with
    mxe := { q.1 with hits := hits }
    ledge := q.2.1
    err := if pr.step = 0 then spanOpen 1 pr.beat (pr.beat + BitVec.ofNat 48 (mxeCommitStep r)) k.err else k.err }
/-- At its commit step an operation is done, or waits for a rerun (R161, R496). -/
def mxeDone (pr : Progress) (r : MxeRun) (at_ : BitVec 48) (hits : List ParityHit) (k : Core) : Core :=
  if pr.step = mxeCommitStep r then
    (if hits.isEmpty then { k with err := spanClose 1 pr.beat k.err }
    else rerunAdd (.mxe r) pr.off 1 (mxeOpcode r) pr.addr pr.beat at_ hits k)
  else k
/-- The step that the MXE's operation makes in this beat (R26). -/
def mxeAdvance (env : Env) (k : Core) : Core :=
  match k.mxe.run with
  | none => { k with mxe := { k.mxe with second := false } }
  | some (pr, r) =>
    let before := if pr.step = 0 then [] else k.mxe.hits
    let q := mxeStep env pr r before.isEmpty k.mxe k.ledge
    let hits := before ++ q.2.2.2
    let at_ := pr.beat + BitVec.ofNat 48 pr.step
    let k := eventsPost q.2.2.1 (suspectNote 1 at_ pr.step q.2.2.2 (mxeTake pr r q hits k))
    let k := mxeDone pr r at_ hits k
    { k with mxe := { k.mxe with
      run := if pr.step + 1 < mxeLen r then some ({ pr with step := pr.step + 1 }, r) else none, second := (mxeCells pr r).2 = 2 } }

/-- The MXE slot of a beat: its operation starts, or the one in progress advances. -/
def mxeSlot (env : Env) (t : Latched) (op : MxeOp) (k : Core) : Core :=
  if k.mxe.run.isSome then mxeAdvance env k
  else
    let q := mxeStart env t op k
    mxeAdvance env { q.1 with mxe := { q.1.mxe with run := q.2, hits := [] } }

/-! ## VXE (R210..R226) -/

/-- Opcodes of the VXE slot that read the ledge. -/
def vloadLen (line : Bool) : Nat := if line then 1024 else 256
/-- Bytes loaded into vd, or vd..vd+3 (R211). -/
def vloadPut (v : BitVec 4) (bs : List Byte) (q : VxeSt) : VxeSt := { q with vregs := memWrite q.vregs (256 * v.toNat) bs }
/-- The increment of a VXE memory operation (R89). -/
def vmemInc (t : Latched) (a : VmemArgs) (unit : Nat) (i : IssueSt) : IssueSt :=
  if a.inc then ofWrite a.base (latOf t a.base + BitVec.ofNat 48 unit) i else i
/-- VLD or VLDL. -/
def vxeLoad (env : Env) (t : Latched) (a : VmemArgs) (line : Bool) (k : Core) : Core :=
  let on := guardOn t 2
  let n := vloadLen line
  let base := latRef t 2 a.base a.d n
  let q := ledgeRead env 2 base n k.ledge
  let k := { k with ledge := q.1, issue := if on then vmemInc t a n k.issue else k.issue }
  oneStep 2 (if line then 3 else 1) t (!on) (.vload a.v n base) q.2.2 (fun k => if on then { k with vxe := vloadPut a.v q.2.1 k.vxe } else k) k
/-- VST or VSTL. -/
def vxeStore (env : Env) (t : Latched) (a : VmemArgs) (line : Bool) (k : Core) : Core :=
  if guardOn t 2 then
    let n := vloadLen line
    { k with
      ledge := ledgeWrite env 2 (latRef t 2 a.base a.d n) (memRead k.vxe.vregs (256 * a.v.toNat) n) k.ledge
      issue := vmemInc t a n k.issue }
  else k

/-- The operand of a two-beat operation. -/
def vxeTwoBeat : VxeOp → Option (BitVec 4)
  | .vexp a | .vrcp a | .vrsqrt a | .vred a => some a.va
  | _ => none
/-- The operation that a VXE slot starts, at its step 0 (R212). -/
def vxeStart (env : Env) (t : Latched) (op : VxeOp) (k : Core) : Core :=
  let on := guardOn t 2
  let pr := startOp t (!on)
  let k := { k with vxe := { k.vxe with opCount := if on && op != .nop then incr48 k.vxe.opCount else k.vxe.opCount } }
  match op with
  | .nop => k
  | .vld a => vxeLoad env t a false k
  | .vldl a => vxeLoad env t a true k
  | .vst a => vxeStore env t a false k
  | .vstl a => vxeStore env t a true k
  | .vcmp a => if on then { k with issue := pfWrite a.d (vcmpResult k.vxe a) k.issue } else k
  | .vtoof a => if on then { k with issue := ofWrite a.d (vtoofResult k.vxe a) k.issue } else k
  | _ =>
    match vxeTwoBeat op with
    | some va => { k with vxe := { k.vxe with run := some ({ pr with step := 1 }, ⟨op, vReg k.vxe va⟩) } }
    | none =>
      if on then
        let q := vxeNow pr op k.vxe
        eventsPost q.2 { k with vxe := q.1 }
      else k
/-- The second step of a two-beat operation. -/
def vxeAdvance (k : Core) : Core :=
  match k.vxe.run with
  | none => k
  | some (pr, r) =>
    let k := { k with vxe := { k.vxe with run := none } }
    if pr.off then k
    else
      let q := vxeLate pr r.op r.va k.vxe
      eventsPost q.2 { k with vxe := q.1 }
/-- The VXE slot of a beat. -/
def vxeSlot (env : Env) (t : Latched) (op : VxeOp) (k : Core) : Core :=
  if k.vxe.run.isSome then vxeAdvance k else vxeStart env t op k
/-- Ledge slots of the VXE slot's operation, and its event code (R442). -/
def vxeSlots : VxeOp → Nat × Nat
  | .vld _ | .vldl _ => (1, 0)
  | .vst _ | .vstl _ => (0, 1)
  | _ => (0, 0)
def vxeCode (op : VxeOp) : Nat := if (vxeTwoBeat op).isSome then 3 else 2

/-! ## OST (R193..R209) -/

/-- An OCVT whose set fails the check is recorded, and it does nothing (R206). -/
def ostFail (pr : Progress) (code : Nat) (a : OcvtArgs) (k : Core) : Core :=
  if code != 0 then
    eventsPost [ostEvent pr 0 7 0] { k with ost := { k.ost with
      configTrapped := true
      cfgFail := cfgFailNote code a.c 2 k.ost.cfgFail
      failSrc := if k.ost.cfgFail.code == 0 then a.src else k.ost.failSrc } }
  else k
/-- The operation that an OST slot starts: OCFG's read, or an OCVT after its check (R101, R206). -/
def ostStart (env : Env) (t : Latched) (op : OstOp) (k : Core) : Core :=
  let on := guardOn t 3
  match op with
  | .nop => k
  | .ocfg a =>
    let base := latRef t 3 a.base a.d 1024
    let q := ledgeRead env 3 base 1024 k.ledge
    oneStep 3 1 t (!on) (.ocfg a.c base) q.2.2
      (fun k => if on then { k with ost := { k.ost with cfg := memWrite k.ost.cfg (1024 * a.c.toNat) q.2.1 } } else k) { k with ledge := q.1 }
  | .ocvt a =>
    let set := ostLatch k.ost a.c
    let rows := a.r1.toNat + 1
    let code := if on then ostCheck env.mx6 a.src rows set else 0
    let off := !on || code != 0
    let pr := startOp t off
    let k := ostFail pr code a k
    let base := refAddr (latOf t a.base) (extOf t 3 ++ a.d).toNat 1024 64
    { k with
      issue := if !off && a.inc then ofWrite a.base (latOf t a.base + BitVec.ofNat 48 (rows * ostPitch set)) k.issue else k.issue
      ost := { k.ost with run := some (pr, ⟨a.c, rows, a.r0.toNat, a.src, base, set, []⟩) } }
/-- The step that an OCVT makes in this beat. -/
def ostAdvance (env : Env) (k : Core) : Core :=
  match k.ost.run with
  | none => k
  | some (pr, r) =>
    let q := ostStep env pr r k.mxe k.vxe.vregs k.ost k.ledge
    let k := { k with
      ledge := q.2.2.1
      ost := { q.1 with run := if pr.step + 1 < q.2.1.rows then some ({ pr with step := pr.step + 1 }, q.2.1) else none } }
    eventsPost q.2.2.2 k
/-- The OST slot of a beat. -/
def ostSlot (env : Env) (t : Latched) (op : OstOp) (k : Core) : Core :=
  if k.ost.run.isSome then ostAdvance env k else ostAdvance env (ostStart env t op k)

end Sys2Proof.Machine
end

