-- ==== Sys2Proof/Machine/TxSlots.lean ====
section
/-! DEFINITION. The TXA, TXB, SYN and EXT slots of a bundle (chapters 03, 11, 13, 14): readiness (R106, R107, R274, R333, R358)
and effect at issue. Remote effects pass through the commit gate (R500). -/
namespace Sys2Proof.Machine

/-! ## Transfer slots (R104, R105, R272..R277, R305, R312) -/

/-- Stream number of a handle of an engine (R272). -/
def streamOf (eng : Bool) (h : BitVec 2) : Fin 8 := if eng then ⟨4 + h.toNat, by omega⟩ else ⟨h.toNat, by omega⟩
/-- Slot of an engine. -/
def txSlotNo (eng : Bool) : Nat := if eng then 5 else 4
/-- Requester code of an engine's foreground reads. -/
def txReq (eng : Bool) : BitVec 4 := if eng then 5 else 4

/-- Descriptors of a burst that the engine decodes: up to the first END or LINK, at most 16 (R274). -/
def burstCount : Nat → List Byte → Nat
  | 0, _ => 0
  | n + 1, bs => if bs.length < 64 then 0 else if descKind bs = 0 || descKind bs = 3 then 1 else 1 + burstCount n (bs.drop 64)

/-- A stream starts: it takes its handle with an empty record, its deadlines' origin, its epoch, and a tracker entry when one is free that
no queued stream awaits (R305, R312, R349). -/
def streamStart (c : CoreId) (x : Fin 8) (beat : BitVec 48) (base : Nat) (s : State) : State :=
  let ep := (getCore s c).epoch.stack.head?
  let free := s.trk.tracked < 16384 && s.trk.queue.isEmpty
  let s := if free then
      { s with trk := { s.trk with tracked := s.trk.tracked + 1, trackedHwm := max s.trk.trackedHwm (s.trk.tracked + 1) } }
    else { s with trk := { s.trk with queue := s.trk.queue ++ [(c, x)] } }
  modStream c x (fun q => { q with
    st := .run, burst := [], burstOff := base, fetching := true, ended := false, cur := none, chunks := [], nextChunk := 0, nextSignal := 0
    reqs := [], listErr := none, goBeat := beat, anchor := beat, missed := [], epoch := ep, gated := true, tracked := free
    fcode := 0, fwrite := false, flevel := 0, fvalid := false, fchunk := 0, fva := 0, fidx := [0, 0, 0, 0, 0], fdesc := 0 }) s
/-- The first burst has been read. -/
def streamBurst (c : CoreId) (x : Fin 8) (bs : List Byte) (s : State) : State :=
  let n := burstCount 16 bs
  modXfer c (fun f =>
    let f := if x.val < 4 then { f with decodeA := n } else { f with decodeB := n }
    { f with streams := f.streams.set x { f.streams.get x with burst := bs, fetching := false } }) s

/-- The write that a TXPUT makes, before its data is known (R105). -/
def putWrite (t : Latched) (a : TxputArgs) : OutWrite :=
  let len := if a.size == 0 then 64 else if a.size == 1 then 256 else 1024
  let dst := latOf t a.dst
  let off := (bitsAt dst 0 19).toNat / len * len
  ⟨a.die, bitsAt dst 40 6, bitsAt dst 32 7, off, len, [], (List.range len).map (off + ·), if a.sig then some a.k else none, .none, none⟩
/-- The data of a TXPUT's write. -/
def putData (w : OutWrite) (bs : List Byte) : OutWrite := { w with bytes := memWrite [] w.off bs }
/-- The source address of a TXPUT. -/
def putSource (t : Latched) (a : TxputArgs) : Nat := let n := (putWrite t a).len; refAddr (latOf t a.src) 0 n n

/-- TXGO at issue. -/
def txgoSlot (env : Env) (c : CoreId) (t : Latched) (eng : Bool) (a : TxgoArgs) (s : State) : State :=
  let n := txSlotNo eng
  let on := guardOn t n
  let x := streamOf eng a.h
  let base := latRef t n a.base a.d 1024
  let (l, bs, hs) := ledgeRead env (txReq eng) base 1024 (getCore s c).ledge
  let s := modCore c (fun k => oneStep n 1 t (!on) (.txgo x base) hs id { k with ledge := l }) s
  if on then
    let s := gatePut c t.beat (.stream x) (streamStart c x t.beat base s)
    if hs.isEmpty then streamBurst c x bs s else s
  else s
/-- TXPUT at issue: an entry of the outbound queue, and store space when the write will be held (R274, R356). -/
def txputSlot (env : Env) (c : CoreId) (t : Latched) (eng : Bool) (a : TxputArgs) (s : State) : State :=
  let n := txSlotNo eng
  let on := guardOn t n
  let w := putWrite t a
  let base := putSource t a
  let (l, bs, hs) := ledgeRead env (txReq eng) base w.len (getCore s c).ledge
  let s := modCore c (fun k => oneStep n 3 t (!on) (.txput eng w.len base) hs id { k with ledge := l }) s
  if on then
    let held := putHeld s c w
    let s := match held with
      | some slots => storeUnwait c.clus (.put c.core) (modClus c.clus (fun k => { k with gateEntries := k.gateEntries + 1, gateSlots := k.gateSlots + slots }) s)
      | none => s
    let s := modXfer c (fun f => if eng then { f with queueB := f.queueB + 1 } else { f with queueA := f.queueA + 1 }) s
    let n := (getCore s c).xfer.nextWrite
    let s := if held.isNone then numberWrite c s else s
    gatePut c t.beat (.put eng (putData w bs) ((getCore s c).epoch.stack.head?) held (if held.isNone then n else 0)) s
  else s
/-- A transfer slot at issue. -/
def txSlot (env : Env) (c : CoreId) (t : Latched) (eng : Bool) (op : TxOp) (s : State) : State :=
  match op with
  | .nop => s
  | .txgo a => txgoSlot env c t eng a s
  | .txcancel a => if guardOn t (txSlotNo eng) then streamCancel c (streamOf eng a.h) s else s
  | .txput a => txputSlot env c t eng a s
/-- A transfer slot is ready (R274); a predicated-off one is ready at once (R92). -/
def txReady (s : State) (c : CoreId) (t : Latched) (eng : Bool) (op : TxOp) : Bool :=
  let f := (getCore s c).xfer
  !guardOn t (txSlotNo eng) ||
    (match op with
    | .txgo a => (getStream s c (streamOf eng a.h)).st == .idle && (if eng then f.decodeB else f.decodeA) = 0
    | .txput _ => (if eng then f.queueB else f.queueA) < 8
    | _ => true)
/-- Store slots that a transfer slot needs at issue (R356). -/
def txHeld (s : State) (c : CoreId) (t : Latched) (eng : Bool) (op : TxOp) : Option Nat :=
  match op with
  | .txput a => if guardOn t (txSlotNo eng) then putHeld s c (putWrite t a) else none
  | _ => none
/-- Ledge reads of a transfer slot. -/
def txSlots : TxOp → Nat
  | .txgo _ | .txput _ => 1
  | _ => 0

/-! ## SYN (R106, R107, R322, R333, R348) -/

/-- The core holds no unreleased arrival at a context, and none is withheld there. -/
def arrivalFree (s : State) (c : CoreId) (ctx : BitVec 4) : Bool :=
  (smGet none (getCore s c).cairn.arrivals ctx.toNat).isNone && (smGet [] (getCore s c).cairn.withheld ctx.toNat).isEmpty
/-- A context is DISABLED for a core. -/
def ctxDisabled (s : State) (c : CoreId) (ctx : BitVec 4) : Bool := match massifOf s c with | some m => ctxScope s m ctx = 0 | none => true
/-- An arrival of a SARR, which covers the writes numbered below `before`: it is made, and passes the gate, or is withheld while an earlier
one at the context is unreleased (R333, R334, R500). A later SWAIT waits for it in either case (log entry 18). -/
def arrivalMake (c : CoreId) (ctx : BitVec 4) (beat : BitVec 48) (before : Nat) (waiting : Bool) (s : State) : State :=
  let free := arrivalFree s c ctx
  let s := modCairn c (fun k =>
    let k := { k with made := k.made ||| (1#16 <<< ctx.toNat) }
    if free then { k with arrivals := smSet none k.arrivals ctx.toNat (some ⟨false, before, true, false, waiting⟩) }
    else { k with withheld := smSet [] k.withheld ctx.toNat (smGet [] k.withheld ctx.toNat ++ [(beat, before, waiting)]) }) s
  if free then gatePut c beat (.arrive ctx) s else s
/-- A SARR with WAIT = 1 has made its arrival, or had it withheld, and its bundle has not issued. -/
def arrivalWaits (s : State) (c : CoreId) (ctx : BitVec 4) : Bool :=
  (match smGet none (getCore s c).cairn.arrivals ctx.toNat with | some a => a.waiting | none => false) ||
    (smGet [] (getCore s c).cairn.withheld ctx.toNat).any (fun e => e.2.2)

/-- What the SYN slot waits for: nothing, its unit, or a cairn or a summit with its number and need. -/
inductive SynWait where
  | ready
  | unit
  | cairn (k : BitVec 6) (n : BitVec 32)
  | summit (ctx : BitVec 4)
  deriving DecidableEq, Repr

/-- The count of a CWAIT or a CSIG with its extension (R90). -/
def synCount (t : Latched) (n : BitVec 16) : BitVec 32 := bitsAt (extOf t 6) 0 16 ++ n

/-- Readiness of the SYN slot (R106, R333, R358). -/
def synReady (s : State) (c : CoreId) (t : Latched) (op : SynOp) : SynWait :=
  if !guardOn t 6 then .ready
  else match op with
    | .cwait a =>
      let n := synCount t a.n
      if n.toNat ≤ smGet 0 (getCore s c).cairn.counts a.k.toNat then .ready else .cairn a.k n
    | .sarr a =>
      if ctxDisabled s c a.ctx then .ready
      else if a.wait && !(getCore s c).cairn.released.getLsbD a.ctx.toNat then .summit a.ctx else .ready
    | .swait a =>
      if ctxDisabled s c a.ctx || arrivalFree s c a.ctx || !(getCore s c).cairn.made.getLsbD a.ctx.toNat then .ready else .summit a.ctx
    | .ecommit => if commitReady s c then .ready else .unit
    | _ => .ready

/-- The SYN slot at issue, its operation ready. An arrival is made here; epochs and cairns change (R322, R333, R348). -/
def synSlot (c : CoreId) (t : Latched) (before : Nat) (op : SynOp) (s : State) : State :=
  if !guardOn t 6 then s
  else match op with
    | .nop => s
    | .cwait a => if a.keep then s else modCairn c (fun k => { k with counts := smSet 0 k.counts a.k.toNat (smGet 0 k.counts a.k.toNat - (synCount t a.n).toNat) }) s
    | .csig a => modCairn c (cairnAdd a.k.toNat (synCount t a.n).toNat) s
    | .cwin a => modCairn c (fun k => { k with
        closed := smSet false k.closed a.k.toNat (!a.opn)
        counts := if a.zero then smSet 0 k.counts a.k.toNat 0 else k.counts }) s
    | .sarr a =>
      if ctxDisabled s c a.ctx then modCairn c (fun k => { k with disabledCtx := true }) s
      else if a.wait then modCairn c (fun k => { k with released := k.released &&& ~~~(1#16 <<< a.ctx.toNat) }) s
      else arrivalMake c a.ctx t.beat before false s
    | .swait a =>
      if ctxDisabled s c a.ctx then modCairn c (fun k => { k with disabledCtx := true }) s
      else modCairn c (fun k => { k with
        swaitEmpty := k.swaitEmpty || !k.made.getLsbD a.ctx.toNat, made := k.made &&& ~~~(1#16 <<< a.ctx.toNat) }) s
    | .eopen => epochOpen c s
    | .ecommit => epochCommit c s
    | .ediscard => epochDiscard c s

/-! ## EXT (R90, R91, R108) -/

/-- Guards and extension that an EXT operation supplies, from the flags at issue (R90, R91). -/
def extGuards (pfs : BitVec 8) : ExtOp → BitVec 6 × Option (BitVec 3 × BitVec 23)
  | .psel a => (BitVec.ofNat 6 ((List.range 6).foldl (fun g s => g + (if pfs.getLsbD (bitsAt a.sel (3 * s) 3).toNat != a.inv.getLsbD s then 2 ^ s else 0)) 0), none)
  | .ximm a => (0x3F, some (a.tgt, a.x))
  | .pximm a =>
    let f := pfs.getLsbD a.flag.toNat != a.inv
    (if f then 0x3F else ~~~a.gmask, some (a.tgt, a.x.setWidth 23))
  | _ => (0x3F, none)

/-- The value that OFIDX's SRC names (R74, R108). -/
def idxValue (env : Env) (src : Nat) : Nat :=
  match src with
  | 0 => env.coreIdx
  | 1 => env.clusIdx
  | 2 => env.mclusIdx
  | 3 => env.mclusCount
  | 4 => env.mclusIdx * 64 + env.coreIdx
  | 5 => env.dieIdx
  | 6 => env.massifIdx
  | n => env.lcs.getD (n - 8) 0
/-- CMP (R108). -/
def ofCompare (cmp : Nat) (a b : OfReg) : Bool :=
  match cmp with
  | 0 => a == b
  | 1 => a != b
  | 2 => a.toNat < b.toNat
  | 3 => b.toNat ≤ a.toNat
  | 4 => a.toInt < b.toInt
  | _ => b.toInt ≤ a.toInt
/-- OP (R108). -/
def pfLogic (op : Nat) (a b : Bool) : Bool := match op with | 0 => a && b | 1 => a || b | 2 => a != b | _ => a && !b

/-- The register that an EXT operation writes (R108). -/
def extSlot (env : Env) (t : Latched) (op : ExtOp) (i : IssueSt) : IssueSt :=
  match op with
  | .ofadd a => ofWrite a.d (latOf t a.a + a.imm.signExtend 48) i
  | .ofidx a => ofWrite a.d (latOf t a.a + BitVec.ofNat 48 (idxValue env a.src.toNat * a.m.toNat * 2 ^ a.sh.toNat)) i
  | .ofset a => ofWrite a.d (BitVec.ofNat 48 (a.imm.toNat * 2 ^ a.sh.toNat)) i
  | .pset a => pfWrite a.d (ofCompare a.cmp.toNat (latOf t a.a) (latOf t a.b)) i
  | .pseti a => pfWrite a.d (ofCompare a.cmp.toNat (latOf t a.a) (a.imm.setWidth 48)) i
  | .plog a => pfWrite a.d (pfLogic a.op.toNat (t.pfs.getLsbD a.a.toNat) (t.pfs.getLsbD a.b.toNat)) i
  | _ => i

end Sys2Proof.Machine
end

