-- ==== Sys2Proof/Machine/Issue.lean ====
section
/-! DEFINITION. Issue of a bundle by a core (chapter 01, R22..R42): what holds it (R24, R30), its slots in order (R31..R33), the
ledge cycle of its beat (R248..R252), deadlines (R314), the broadcast FIFO (R41, R67, R495), reruns (R496..R499) and released items
that leave a cluster (R360, R495). -/
namespace Sys2Proof.Machine

/-! ## The bundle in the window -/

/-- The eight operations of a bundle. -/
structure BundleOps where
  seq : SeqOp
  mxe : MxeOp
  vxe : VxeOp
  ost : OstOp
  txa : TxOp
  txb : TxOp
  syn : SynOp
  ext : ExtOp
  deriving DecidableEq, Repr

/-- The extension that an EXT operation gives a slot. -/
def extFor (op : ExtOp) (slot : Nat) : BitVec 23 := match (extGuards 1 op).2 with | some (k, x) => if k.toNat = slot then x else 0 | none => 0
/-- A bundle read from its slots; the load check has left no slot that does not decode (R85). The walk of the check goes on from a slot that
does not, which it has reported, as from a NOP (R81; DESIGN CHOICE, log entry 129). -/
def readBundle (w : Vector Slot 8) : BundleOps :=
  let ext := (decodeExtOp (w.get 7)).getD .nop
  { seq := (decodeSeqOp (extFor ext 0) (w.get 0)).getD .nop
    mxe := (decodeMxeOp (w.get 1)).getD .nop
    vxe := (decodeVxeOp (w.get 2)).getD .nop
    ost := (decodeOstOp (w.get 3)).getD .nop
    txa := (decodeTxOp (w.get 4)).getD .nop
    txb := (decodeTxOp (w.get 5)).getD .nop
    syn := (decodeSynOp (extFor ext 6) (w.get 6)).getD .nop
    ext := ext }

/-- The FIFO entry in a core's window, when the drift bound lets the core take it (R42). -/
def windowEntry (s : State) (c : CoreId) : Option FifoEntry :=
  let b := (getCore s c).issue.beat
  let near : Bool := match massifOf s c with
    | some m => (match minBeat s m with | some l => (b - l).toNat < 2048 | none => true)
    | none => false
  if near then (getClus s c.clus).fifo.find? (fun e => e.beat == b) else none

/-! ## Readiness (R24, R30) -/

/-- The cause of an empty window: the FIFO of a running massif, or no program. -/
def emptyCause (s : State) (c : CoreId) : WaitCause :=
  match massifOf s c with | some m => if running s m then .fifoEmpty else .halted | none => .halted
/-- The cause that holds issue at a core whose next bundle has not been tried: of those that stand by themselves the lowest (R30). -/
def nextCause (s : State) (c : CoreId) : WaitCause :=
  if (getCore s c).issue.halted then .halted
  else if (windowEntry s c).isNone then emptyCause s c
  else if rerunning s c then .rerun else .none
/-- WAIT_CAUSE as it reads: a FIFO that was empty may have been filled since (R30). -/
def waitShown (s : State) (c : CoreId) : WaitCause :=
  if (getCore s c).issue.waitCause == .fifoEmpty then nextCause s c else (getCore s c).issue.waitCause

/-- Slots that are named or occupied, bit s-1 for slot s. -/
def activeUnits (k : Core) (o : BundleOps) : BitVec 7 :=
  BitVec.ofNat 7 (bitOf (o.mxe != .nop || k.mxe.run.isSome) + 2 * bitOf (o.vxe != .nop || k.vxe.run.isSome) + 4 * bitOf (o.ost != .nop || k.ost.run.isSome) +
    8 * bitOf (o.txa != .nop) + 16 * bitOf (o.txb != .nop) + 32 * bitOf (o.syn != .nop) + 64 * bitOf (o.ext != .nop))
/-- Units that have not acknowledged: the MXE within the second cell cycle of the step before, while that lasts (R140, R141), a transfer
engine, and the cairn unit. The VXE and the OST always acknowledge at once (R213). -/
def lateUnits (s : State) (c : CoreId) (t : Latched) (o : BundleOps) (late : BitVec 7) : BitVec 7 :=
  let k := getCore s c
  let mxe : BitVec 7 := if k.mxe.second then late &&& activeUnits k o &&& 1 else 0
  let own := BitVec.ofNat 7 (8 * bitOf (!txReady s c t false o.txa) + 16 * bitOf (!txReady s c t true o.txb) + 32 * bitOf (synReady s c t o.syn == .unit))
  mxe ||| own
/-- Store space for the bundle's held TXPUTs is free, and it is the core's turn (R356). -/
def spaceReady (s : State) (c : CoreId) (t : Latched) (o : BundleOps) : Bool :=
  match [txHeld s c t false o.txa, txHeld s c t true o.txb].filterMap id with
  | [] => true
  | l => storeFits (getClus s c.clus) l.length (l.foldl (· + ·) 0) && storeTurn (getClus s c.clus) (.put c.core)

/-- A SYN wait shown in CORE_SYN_WAIT and COMMIT_WAIT; scree load begins with a summit wait (R333, R342, R358). -/
def synNote (c : CoreId) (w : SynWait) (s : State) : State :=
  let scree (ctx : BitVec 4) : Nat := match massifOf s c with | some m => 4 * ctxScree s m ctx | none => 0
  modCore c (fun k =>
    let k := { k with epoch := { k.epoch with commitWait := w == .unit } }
    match w with
    | .cairn i n => { k with cairn := { k.cairn with waitKind := 1, waitIdx := i, waitNeed := n } }
    | .summit x =>
      if k.cairn.waitKind == 2 && k.cairn.waitIdx == x.setWidth 6 then k
      else { k with cairn := { k.cairn with waitKind := 2, waitIdx := x.setWidth 6, waitNeed := 0, scree := scree x, screeSince := s.tb.count } }
    | _ => { k with cairn := { k.cairn with waitKind := 0, waitIdx := 0, waitNeed := 0, scree := if k.cairn.rampQuarter.toNat < 4 then k.cairn.scree else 0 } }) s
/-- Issue is held. -/
def holdIssue (c : CoreId) (w : WaitCause) (units : BitVec 7) (s : State) : State := modIssue c (fun i => { i with waitCause := w, waitUnits := units }) s

/-- A SARR with WAIT = 1 in the window makes its arrival once every earlier bundle has issued whole; behind an unreleased one of its context
it is withheld (R333). -/
def waitArrive (c : CoreId) (t : Latched) (o : BundleOps) (s : State) : State :=
  match o.syn with
  | .sarr a =>
    if guardOn t 6 && a.wait && !rerunning s c && !ctxDisabled s c a.ctx && !arrivalWaits s c a.ctx &&
        !(getCore s c).cairn.released.getLsbD a.ctx.toNat
      then gateRun c (arrivalMake c a.ctx t.beat (getCore s c).xfer.nextWrite true s) else s
  | _ => s

/-! ## Issue -/

/-- Ledge slots that a beat's operations take, slot by slot: reads and writes (R249). -/
def mxeFore (mx : Option (Progress × MxeRun)) : Nat × Nat := match mx with | some (pr, r) => mxeSlots pr r | none => (0, 0)
def vxeFore (k : Core) (op : VxeOp) : Nat × Nat := if k.vxe.run.isSome then (0, 0) else vxeSlots op
def ostFore (k : Core) (op : OstOp) : Nat × Nat :=
  match op with
  | .ocvt _ => (0, 1)
  | .ocfg _ => (1, 0)
  | .nop => if k.ost.run.isSome then (0, 1) else (0, 0)
/-- The beat's slots together. -/
def foreSlots (k : Core) (o : BundleOps) (mx : Option (Progress × MxeRun)) : Nat × Nat :=
  let m := mxeFore mx
  let v := vxeFore k o.vxe
  let w := ostFore k o.ost
  (m.1 + v.1 + w.1 + txSlots o.txa + txSlots o.txb, m.2 + v.2 + w.2)
/-- Ledge slots counted (R442). -/
def slotCount (c : CoreId) (n : Nat × Nat) (s : State) : State := countCore c 7 n.1 (countCore c 8 n.2 s)
/-- What a step of a unit counts (R442). -/
def mxeCount (c : CoreId) (mx : Option (Progress × MxeRun)) (s : State) : State :=
  match mx with | some (pr, q) => countCore c (mxeCells pr q).1 (mxeCells pr q).2 s | none => s
def vxeCount (c : CoreId) (op : VxeOp) (s : State) : State := if op != .nop then countCore c (vxeCode op) 1 s else s
def ostCount (c : CoreId) (k : Core) (op : OstOp) (s : State) : State := countCore c 4 (ostFore k op).2 s
/-- What the beat counts (R442). -/
def issueCounts (c : CoreId) (k : Core) (o : BundleOps) (mx : Option (Progress × MxeRun)) (s : State) : State :=
  ostCount c k o.ost (vxeCount c o.vxe (mxeCount c mx (slotCount c (foreSlots k o mx) (countCore c 5 1 s))))

/-- Chunks whose deadline is the beat that issues, and that have not signalled, miss (R314). -/
def missBeat (c : CoreId) (b : BitVec 48) (s : State) : State :=
  (List.finRange 8).foldl (fun s x =>
    let q := getStream s c x
    if q.st == .run || q.st == .faulted then
      let made := (q.chunks.filter (fun r => r.deadline == some b)).map (·.num)
      let rest := match q.cur with
        | some d => (List.range (d.first + d.count - q.nextChunk)).filterMap (fun j => if curDeadline d (q.nextChunk + j) == some b then some (q.nextChunk + j) else none)
        | none => []
      (made ++ rest).foldl (fun s n => noteMiss c x n s) s
    else s) s

/-- The MXE's operation in this beat: the one in progress, or the one that the slot starts. -/
def mxeBeat (env : Env) (t : Latched) (o : BundleOps) (k : Core) : Option (Progress × MxeRun) :=
  if k.mxe.run.isSome then k.mxe.run else (mxeStart env t o.mxe k).2

/-- One slot of a bundle acts (R25, R33). At slot 6 what may leave the gate leaves it: before an operation that could change what the
effects of slots 4 and 5 belong to, and after an arrival. -/
def slotRun (c : CoreId) (env : Env) (r : BeatRest) (o : BundleOps) (slot : Nat) (s : State) : State :=
  let t := r.latch
  match slot with
  | 1 => modCore c (mxeSlot env t o.mxe) s
  | 2 => modCore c (vxeSlot env t o.vxe) s
  | 3 => modCore c (ostSlot env t o.ost) s
  | 4 => txSlot env c t false o.txa s
  | 5 => txSlot env c t true o.txb s
  | 6 =>
    match o.syn with
    | .sarr _ => gateRun c (synSlot c t r.before o.syn s)
    | _ => synSlot c t r.before o.syn (gateRun c s)
  | _ => modIssue c (extSlot env t o.ext) s
/-- Slots of a bundle, in order (R31, R33). With `stop`, those after a slot whose operation waits for a rerun wait behind it: the
rerun's effects come first (R29, R511). -/
def slotsRun (stop : Bool) (c : CoreId) (env : Env) (r : BeatRest) (o : BundleOps) : List Nat → State → State
  | [], s => s
  | n :: l, s =>
    if stop && rerunning s c then modErr c (fun e => { e with rest := some { r with next := n } }) s
    else slotsRun stop c env r o l (slotRun c env r o n s)
/-- The slots of a bundle that issues. -/
def issueSlots (c : CoreId) (env : Env) (r : BeatRest) (o : BundleOps) (s : State) : State := slotsRun true c env r o [1, 2, 3, 4, 5, 6, 7] s
/-- The slots that waited behind a rerun go on. -/
def restRun (stop : Bool) (c : CoreId) (s : State) : State :=
  match (getCore s c).err.rest with
  | none => s
  | some r =>
    slotsRun stop c (coreEnv s c (r.lcs) r.faults) r (readBundle r.slots) ([2, 3, 4, 5, 6, 7].filter (fun n => r.next ≤ n))
      (modErr c (fun e => { e with rest := none }) s)
/-- The cause shown after a rerun has begun or ended outside ISSUE_BUNDLE: a lower one that the last bundle tried has met stands (R30). -/
def showRerun (c : CoreId) (s : State) : State :=
  let w := (getCore s c).issue.waitCause
  if (getCore s c).issue.halted || w == .none || w == .rerun then holdIssue c (nextCause s c) 0 s else s

/-- Ledge cycles that a rerun, and the beat whose issue it held, leave to background (R251, R252, R498): they come after every effect of that
beat (R250). -/
def cyclesServe (c : CoreId) (faults : List ReadFault) (l : List (Nat × Nat)) (s : State) : State :=
  l.foldl (fun s e =>
    let s := if insertDue (getCore s c).ledge then insertServe c faults s else s
    beatCycle c faults e.1 e.2 (bgPending (getCore s c).ledge false) (bgPending (getCore s c).ledge true) s) s
/-- Those owed are made, unless a rerun still holds the beat. -/
def cyclesRun (c : CoreId) (faults : List ReadFault) (s : State) : State :=
  if rerunning s c then s
  else cyclesServe c faults (getCore s c).err.cycles (modErr c (fun e => { e with cycles := [] }) s)

/-- The end of a beat: the count advances, and causes are shown anew (R22, R30, R39, R307). -/
def issueEnd (c : CoreId) (o : BundleOps) (s : State) : State :=
  let e := effective s c
  let s := modCore c (fun k =>
    let i := k.issue
    { k with
      issue := { i with
        beat := i.beat + 1, wrapped := i.wrapped || i.beat == BitVec.allOnes 48, guards := 0x3F, ext := none
        ended := i.ended || o.seq == .halt, halted := i.halted || o.seq == .halt, paceCeil := BitVec.ofNat 12 e }
      xfer := if e = 0 then k.xfer else { k.xfer with dlCeil := e } }) s
  let s := progress c (synNote c .ready (trapStop c s))
  holdIssue c (nextCause s c) 0 s

/-- A bundle issues. -/
def issueGo (c : CoreId) (e : FifoEntry) (o : BundleOps) (t : Latched) (faults : List ReadFault) (s : State) : State :=
  let env := coreEnv s c (e.lcs.toList.map (·.toNat)) faults
  let k := getCore s c
  let mx := mxeBeat env t o k
  let (r, w) := foreSlots k o mx
  let s := issueCounts c k o mx s
  let s := issueSlots c env ⟨1, t, e.slots, e.lcs.toList.map (·.toNat), faults, k.xfer.nextWrite⟩ o s
  let s := missBeat c t.beat s
  -- while slots wait behind a rerun, the beat has effects to come, and its background accesses come after them (R250)
  let s := if rerunning s c then modErr c (fun e => { e with cycles := [(2 - r, 1 - w)] }) s
    else beatCycle c faults (2 - r) (1 - w) (bgPending k.ledge false) (bgPending k.ledge true) s
  issueEnd c o s

/-- A core meets the bundle in its window: it issues it, or something holds it (R24, R30). -/
def issueTry (c : CoreId) (v : IssueEnv) (e : FifoEntry) (s : State) : State :=
  let o := readBundle e.slots
  let i := (getCore s c).issue
  let (g, x) := extGuards i.pfs o.ext
  let s := modIssue c (fun i => { i with guards := g, ext := x }) s
  let t := latchOf (getCore s c).issue e.addr
  let s := waitArrive c t o s
  let syn := synReady s c t o.syn
  let s := synNote c syn s
  let units := lateUnits s c t o v.late
  let synBit : BitVec 7 := if syn == .ready then 0 else 32
  if !v.paced || effective s c = 0 then holdIssue c .pace 0 s
  else if units != 0 then holdIssue c .unit (units ||| synBit) s
  else if insertDue (getCore s c).ledge then holdIssue c .ledge 0 s
  else if syn != .ready then holdIssue c .cairn synBit s
  else if !spaceReady s c t o then
    -- the request for space is made once nothing but space is lacking
    holdIssue c .heldFull 0 (if rerunning s c || (getClus s c.clus).heldWait.contains (.put c.core) then s else noteFull c.clus (.put c.core) s)
  else if rerunning s c then holdIssue c .rerun 0 s
  else issueGo c e o t v.faults s

/-- What holds issue before a bundle that cannot be read, while a rerun is under way (R30). -/
def badWait (c : CoreId) (v : IssueEnv) (s : State) : State :=
  let k := getCore s c
  if !v.paced || effective s c = 0 then holdIssue c .pace 0 s
  else if k.mxe.run.isSome && k.mxe.second && v.late.getLsbD 0 then holdIssue c .unit 1 s
  else if insertDue k.ledge then holdIssue c .ledge 0 s
  else holdIssue c .rerun 0 s
/-- ISSUE_BUNDLE (R24). -/
def issueBundle (c : CoreId) (v : IssueEnv) (s : State) : State :=
  if (getCore s c).presence != .on || (massifOf s c).isNone then s
  else if (getCore s c).issue.halted then holdIssue c .halted 0 s
  else match windowEntry s c with
    | none => holdIssue c (emptyCause s c) 0 s
    | some e =>
      if v.fifoBad || e.bad then
        let s := modClus c.clus (fun k => { k with fifo := k.fifo.map (fun f => if f.beat == e.beat then { f with bad := true } else f) }) s
        if rerunning s c then badWait c v s else hardError c 3 0 0 0 e.addr e.beat none s
      else issueTry c v e s
/-- ISSUE_BUNDLE (R24). -/
def execIssueBundle (c : CoreId) (e : IssueEnv) (s : State) : Host.Outcome State Fault Refusal := whenAwake s (issueBundle c e)

/-! ## Single slots -/

/-- What the operation of a slot command takes from outside its core: the loop counters of its massif's sequencer, and the parity
failures that the command names (log entry 5). -/
def slotEnv (s : State) (p : SlotAt) : Env :=
  coreEnv s p.core (match massifOf s p.core with | some m => (getSeq s m).lcs.toList.map (·.toNat) | none => []) p.faults
/-- A slot's operation starts alone at its core's present beat: its core acts, no rerun holds it, and its unit is free (log entry 5). -/
def slotAct (p : SlotAt) (free : Core → Bool) (f : Env → Latched → State → State) (s : State) : State :=
  let k := getCore s p.core
  if k.presence == .on && !k.issue.halted && !rerunning s p.core && free k then
    let s := trapRaised p.core k (f (slotEnv s p) (latchOf k.issue p.addr) s)
    if rerunning s p.core then showRerun p.core s else s
  else s
/-- The MXE slot alone. -/
def mxeAlone (p : SlotAt) (op : MxeOp) (s : State) : Host.Outcome State Fault Refusal :=
  whenAwake s (slotAct p (fun k => k.mxe.run.isNone) (fun env t s =>
    let mx := mxeBeat env t ⟨.nop, op, .nop, .nop, .nop, .nop, .nop, .nop⟩ (getCore s p.core)
    gateRun p.core (modCore p.core (mxeSlot env t op) (mxeCount p.core mx (slotCount p.core (mxeFore mx) s)))))
/-- The VXE slot alone. -/
def vxeAlone (p : SlotAt) (op : VxeOp) (s : State) : Host.Outcome State Fault Refusal :=
  whenAwake s (slotAct p (fun k => k.vxe.run.isNone) (fun env t s =>
    modCore p.core (vxeSlot env t op) (vxeCount p.core op (slotCount p.core (vxeSlots op) s))))
/-- The OST slot alone. -/
def ostAlone (p : SlotAt) (op : OstOp) (s : State) : Host.Outcome State Fault Refusal :=
  whenAwake s (slotAct p (fun k => k.ost.run.isNone) (fun env t s =>
    let k := getCore s p.core
    modCore p.core (ostSlot env t op) (ostCount p.core k op (slotCount p.core (ostFore k op) s))))
/-- A transfer slot alone: it acts when its engine is ready (R274). -/
def txAlone (p : SlotAt) (eng : Bool) (op : TxOp) (s : State) : Host.Outcome State Fault Refusal :=
  whenAwake s (slotAct p (fun _ => true) (fun env t s =>
    let o : BundleOps := ⟨.nop, .nop, .nop, .nop, if eng then .nop else op, if eng then op else .nop, .nop, .nop⟩
    if txReady s p.core t eng op && spaceReady s p.core t o
      then gateRun p.core (txSlot env p.core t eng op (slotCount p.core (txSlots op, 0) s)) else s))
/-- The SYN slot alone: it acts when it is ready; a SARR with WAIT = 1 makes its arrival first (R333). -/
def synAlone (p : SlotAt) (op : SynOp) (s : State) : Host.Outcome State Fault Refusal :=
  whenAwake s (slotAct p (fun _ => true) (fun _ t s =>
    let s := waitArrive p.core t ⟨.nop, .nop, .nop, .nop, .nop, .nop, op, .nop⟩ s
    let w := synReady s p.core t op
    let s := synNote p.core w s
    if w == .ready then gateRun p.core (synSlot p.core t (getCore s p.core).xfer.nextWrite op s) else s))
/-- The EXT slot alone: guards and extension stand until the bundle issues. -/
def extAlone (p : SlotAt) (op : ExtOp) (s : State) : Host.Outcome State Fault Refusal :=
  whenAwake s (slotAct p (fun _ => true) (fun env t s =>
    let (g, x) := extGuards t.pfs op
    modIssue p.core (fun i => extSlot env t op { i with guards := g, ext := x }) s))

/-! ## Reruns (R496..R499) -/

/-- The failing read that decides a hard error, among the failures of one step (R497). -/
def rerunDecide (r : Rerun) (hs : List ParityHit) : Option ParityHit := hs.find? (fun h => 3 ≤ r.runs || r.lines.contains h.line)
/-- What a run found: the engine and the ledge after it, events, failures, and the read that decides. -/
structure RunOut where
  m : MxeSt
  l : LedgeSt
  evs : List NumEvent
  hits : List ParityHit
  decided : Option ParityHit
  /-- Ledge slots that each step took, reads and writes, and cell cycles made. -/
  fore : List (Nat × Nat)
  cells : Nat
/-- The reads of a step up to the one that decides a hard error: the ledge after them, their number, their failures, and that read's (R497). -/
def rerunReads (env : Env) (r : Rerun) : List (Nat × Nat) → LedgeSt × Nat × List ParityHit → LedgeSt × Nat × List ParityHit × Option ParityHit
  | [], (l, n, hs) => (l, n, hs, none)
  | a :: as, (l, n, hs) =>
    let q := ledgeRead env 1 a.1 a.2 l
    match rerunDecide r q.2.2 with
    | some h => (q.1, n + 1, hs ++ q.2.2, some h)
    | none => rerunReads env r as (q.1, n + 1, hs ++ q.2.2)
/-- Steps of a rerun of an MXE operation, n from a step on: it stops at the read that decides. -/
def rerunSteps (env : Env) (r : Rerun) (run : MxeRun) : Nat → Nat → RunOut → RunOut
  | 0, _, o => o
  | n + 1, step, o =>
    let pr : Progress := ⟨r.addr, r.beat, step, r.off⟩
    match rerunReads env r (mxeReads run step) (o.l, 0, []) with
    | (l, k, hs, some h) => { o with l := l, hits := o.hits ++ hs, decided := some h, fore := o.fore ++ [(k, 0)] }
    | _ =>
      let q := mxeStep env pr run o.hits.isEmpty o.m o.l
      rerunSteps env r run n (step + 1)
        ⟨q.1, q.2.1, o.evs ++ q.2.2.1, o.hits ++ q.2.2.2, none, o.fore ++ [mxeSlots pr run], o.cells + (mxeCells pr run).2⟩
/-- The tile that a tile pass issued with (R154). -/
def rerunTile (run : MxeRun) (m : MxeSt) : MxeSt := match run with | .pass p => if p.tile then { m with active := p.tile0 } else m | _ => m

/-- A run has been made, whose ledge cycles took so many slots each. When the last rerun of a beat has committed, its slots that waited go
on, and then the cycles' background accesses are made (R250, R498, R511). -/
def rerunFinish (c : CoreId) (r : Rerun) (evs : List NumEvent) (hs : List ParityHit) (decided : Option ParityHit) (fore : List (Nat × Nat))
    (faults : List ReadFault) (commit : State → State) (s : State) : State :=
  let s := modErr c (fun e => { e with reruns := satInc 32 e.reruns, cycles := e.cycles ++ fore.map (fun n => (2 - n.1, 1 - n.2)) })
    (fore.foldl (fun s n => slotCount c n s) s)
  match decided with
  -- the bundle in issue completes in every slot; what it sends is gated, and discarded (R504)
  | some h =>
    let owed := (getCore s c).err.cycles
    cyclesServe c faults owed
      (hardError c (if r.lines.contains h.line then 1 else 2) h.req r.opcode (r.runs + 1) r.addr r.commit (some h) (restRun false c s))
  | none =>
    if hs.isEmpty then
      let s := commit (modErr c (fun e => { e with rerun := e.rerun.drop 1 }) s)
      let s := modCore c (fun k => suspectClose r.slot evs { k with err := spanClose r.slot r.beat k.err }) s
      showRerun c (trapStop c (cyclesRun c faults (gateRun c (restRun true c s))))
    else modErr c (fun e => { e with rerun := { r with runs := r.runs + 1, lines := (r.lines ++ hitLines hs).eraseDups } :: e.rerun.drop 1 }) s

/-- A one-line reread. -/
def rerunRead (c : CoreId) (r : Rerun) (env : Env) (req : BitVec 4) (base len : Nat) (commit : List Byte → State → State) (s : State) : State :=
  let q := ledgeRead env req base len (getCore s c).ledge
  rerunFinish c r [] q.2.2 (rerunDecide r q.2.2) [(1, 0)] env.faults (if r.off then id else commit q.2.1) (modLedge c (fun _ => q.1) s)

/-- The rerun of an MXE operation: its steps again from the first (R497), with the cell cycles and the ledge slots of those made (R442). -/
def rerunMxe (c : CoreId) (r : Rerun) (run : MxeRun) (env : Env) (s : State) : State :=
  let k := getCore s c
  let o := rerunSteps env r run (mxeCommitStep run + 1) 0 ⟨rerunTile run k.mxe, k.ledge, [], [], none, [], 0⟩
  rerunFinish c r o.evs o.hits o.decided o.fore env.faults id
    (countCore c (mxeCells ⟨r.addr, r.beat, 0, r.off⟩ run).1 o.cells (modCore c (fun k => { k with
      mxe := { o.m with
        run := k.mxe.run, second := k.mxe.second, cursor := k.mxe.cursor, hits := if o.hits.isEmpty then [] else k.mxe.hits }
      ledge := o.l }) s))

/-- PASS_RERUN (R497): the first operation that waits for a rerun makes its next run. -/
def passRerun (c : CoreId) (faults : List ReadFault) (s : State) : State :=
  match (getCore s c).err.rerun with
  | [] => s
  | r :: _ =>
    if effective s c = 0 then s
    else
      let env := coreEnv s c [] faults
      match r.op with
      | .mxe run => rerunMxe c r run env s
      | .ocfg set base => rerunRead c r env 3 base 1024 (fun bs => modCore c (fun k => { k with ost := { k.ost with cfg := memWrite k.ost.cfg (1024 * set.toNat) bs } })) s
      | .vload v len base => rerunRead c r env 2 base len (fun bs => modCore c (fun k => { k with vxe := vloadPut v bs k.vxe })) s
      | .txgo x base => rerunRead c r env (if x.val < 4 then 4 else 5) base 1024 (streamBurst c x) s
      | .txput eng len base => rerunRead c r env (txReq eng) base len (fun bs =>
          modErr c (fun e => { e with gate := e.gate.map (fun g => match g with
            | (b, .put e2 w ep held n) => if b == r.beat && e2 == eng then (b, .put e2 (putData w bs) ep held n) else g
            | _ => g) })) s
/-- PASS_RERUN (R497). -/
def execPassRerun (c : CoreId) (faults : List ReadFault) (s : State) : Host.Outcome State Fault Refusal := whenAwake s (passRerun c faults)

/-! ## Released items (R360, R361, R495) -/

/-- The first released item of a core in placement order. -/
def releasedHead (s : State) (c : CoreId) : Option HeldItem := (getClus s c.clus).held.find? (fun h => h.core == c.core && h.released)
/-- The first released item leaves the store. -/
def releasedTake (c : CoreId) (s : State) : State :=
  modClus c.clus (fun k => match k.held.findIdx? (fun h => h.core == c.core && h.released) with
    | some i => { k with held := k.held.eraseIdx i }
    | none => k) s
/-- An earlier write of a core, numbered below n, has left its cluster and is not yet acknowledged: it neither waits in the store nor in
the gate. -/
def earlierOut (s : State) (c : CoreId) (n : Nat) : Bool :=
  let stays (m : Nat) : Bool := (getClus s c.clus).held.any (fun h => h.core == c.core && h.num == m) ||
    (getCore s c).err.gate.any (fun g => match g.2 with | .put _ _ _ _ k => k == m | _ => false)
  (getCore s c).xfer.outWrites.any (fun m => m < n && !stays m)
/-- RELEASE_ITEM_LEAVES (R360): the first released item of a core leaves, or is found bad and dropped (R495). A signal leaves once
every earlier write of the core that has left has been acknowledged, so that it follows its data (log entry 56). -/
def releaseLeave (c : CoreId) (bad : Bool) (s : State) : State :=
  match releasedHead s c with
  | none => s
  | some h =>
    if bad && h.slots > 0 then
      let s := afterAck c (numberDone c h.num (releasedTake c s))
      if s.err.fatal then s else hardError c 4 0 0 0 0 (getCore s c).issue.beat none (restRun false c s)
    else match h.what with
      | .write w =>
        let s := match h.va with
          | some v => modXfer c (fun f => { f with memOut := f.memOut ++ [(h.num, v, h.stale)] }) s
          | none => s
        sendOrAck c w (releasedTake c s)
      | .signal die lclus lcore k =>
        if earlierOut s c h.num then s
        else afterAck c (sendSignal c die lclus lcore k h.num true (numberDone c h.num (releasedTake c s)))
      | .own x id bytes mask => postBg c (.txw x id bytes mask) 1 (releasedTake c s)
/-- RELEASE_ITEM_LEAVES (R360). -/
def execReleaseItemLeaves (c : CoreId) (bad : Bool) (s : State) : Host.Outcome State Fault Refusal := whenAwake s (releaseLeave c bad)

end Sys2Proof.Machine
end

