-- ==== Sys2Proof/Machine/Sequencer.lean ====
section
/-! DEFINITION. Sequencers (chapter 02): commands and their tests (R56..R65, R547), the SEQ slot (R69..R72, R76, R77), broadcast
(R41, R55, R67, R268), the ends of a run (R61, R64, R66, R235, R366, R505) and the watchdog (R82). -/
namespace Sys2Proof.Machine

/-! ## Commands (R50, R52, R56, R57, R60, R482, R547) -/

/-- A command completes with a result and no other effect. -/
def seqResult (m : Massif) (r : SeqResult) (s : State) : State := modSeq m (fun q => { q with result := r }) s
/-- Why a command of the table is rejected before R547: the massif, a command in progress (a START that waits for R324 counts
as one: DESIGN CHOICE, log entry 45), the state. -/
def seqReject (s : State) (m : Massif) (accepts : SeqSt → Bool) (anyState : Bool) : Option SeqResult :=
  let k := (getMassif s m).state
  let q := getSeq s m
  if k == .resetting then some .busy
  else if k != .active then some .noMassif
  else if anyState then none
  else if q.state == .loading || q.state == .checking || q.startPend then some .busy
  else if !accepts q then some .badState
  else none
/-- LOAD (R51). -/
def seqLoad (m : Massif) (s : State) : State :=
  match seqReject s m (fun q => q.state == .idle || q.state == .halted) false with
  | some r => seqResult m r s
  | none =>
    match seqTests s m false true false with
    | some r => seqResult m r s
    | none => loadNext m (modSeq m (fun q => { q with
        prev := q.state, state := .loading, checked := false, loaded := 0, loadFault := false, loadBusy := false, loadOld := false
        loadGen := q.loadGen + 1 }) s)
/-- LOAD (R51). -/
def execLoad (m : Massif) (s : State) : Host.Outcome State Fault Refusal := whenAwake s (seqLoad m)
/-- LOAD_COMPLETE (R51): every bundle has been copied, or a condition of R51 has been met. -/
def execLoadComplete (m : Massif) (s : State) : Host.Outcome State Fault Refusal :=
  whenAwake s (modSeq m (fun q =>
    if q.state == .loading && (q.loadFault || q.loaded == q.loadCount.toNat) then
      { q with state := q.prev, result := if q.loadFault then .loadFault else .ok, loadBusy := false, loadOld := false }
    else q))
/-- CHECK (R78). -/
def seqCheck (m : Massif) (s : State) : State :=
  match seqReject s m (fun q => q.state == .idle || q.state == .halted) false with
  | some r => seqResult m r s
  | none =>
    match seqTests s m true false false with
    | some r => seqResult m r s
    | none => modSeq m (fun q => { q with prev := q.state, state := .checking }) s
/-- CHECK (R78). -/
def execCheck (m : Massif) (s : State) : Host.Outcome State Fault Refusal := whenAwake s (seqCheck m)
/-- START is accepted in IDLE, and in HALTED after PROGRAM_END or STOP (R60). -/
def startAccepts (q : SeqSt) : Bool :=
  q.state == .idle || (q.state == .halted && (q.haltCause == .programEnd || q.haltCause == .stop))
/-- START (R59); it waits for the acknowledgements of R324. -/
def seqStart (m : Massif) (s : State) : State :=
  match seqReject s m startAccepts false with
  | some r => seqResult m r s
  | none =>
    match seqTests s m true false true with
    | some r => seqResult m r s
    | none => startIfAcked m (modSeq m (fun q => { q with startPend := true }) s)
/-- START (R59). -/
def execStart (m : Massif) (s : State) : Host.Outcome State Fault Refusal := whenAwake s (seqStart m)
/-- STOP (R64). -/
def seqStop (m : Massif) (s : State) : State :=
  match seqReject s m (fun q => q.state == .running) false with
  | some r => seqResult m r s
  | none => modSeq m (fun q => { q with state := .stopping, result := .ok }) s
/-- STOP (R64). -/
def execStop (m : Massif) (s : State) : Host.Outcome State Fault Refusal := whenAwake s (seqStop m)

/-- The run ends: cache mode with it (R261). -/
def cacheEnd (m : Massif) (s : State) : State :=
  (massifCores s m).foldl (fun s c => modLedge c (fun l => { l with cacheActive := false }) s) s
/-- A load or check ends as under ABORT (R65). -/
def commandAbort (m : Massif) (s : State) : State :=
  let s := { s with tc := { s.tc with walks := s.tc.walks.map (fun k => { k with waiters := k.waiters.filter (fun w => w.1 != .load m) }) } }
  modSeq m (fun q => { q with state := q.prev, checked := false, result := .aborted, loadBusy := false, loadFault := false, loadOld := false }) s
/-- A run is abandoned (R55, R65, R82). -/
def runAbandon (m : Massif) (st : SeqState) (cause : HaltCause) (s : State) : State :=
  cacheEnd m (modSeq m (fun q => { q with state := st, haltCause := cause, hold := .ended }) s)
/-- What ABORT does in each state (R65). -/
def abortAct (m : Massif) (cause : HaltCause) (s : State) : State :=
  let q := getSeq s m
  if q.state == .loading || q.state == .checking then commandAbort m s
  else if q.state == .running || q.state == .stopping then runAbandon m .aborted cause s
  else s
/-- ABORT (R65). -/
def seqAbort (m : Massif) (s : State) : State :=
  match seqReject s m (fun _ => true) true with
  | some r => seqResult m r s
  | none =>
    let q := getSeq s m
    if q.state == .loading || q.state == .checking then commandAbort m s
    else seqResult m .ok (abortAct m .abort s)
/-- ABORT (R65). -/
def execAbort (m : Massif) (s : State) : Host.Outcome State Fault Refusal := whenAwake s (seqAbort m)
/-- BAD_CMD: a reserved code completes with BAD_CMD and has no other effect. -/
def execBadCmd (m : Massif) (s : State) : Host.Outcome State Fault Refusal := whenAwake s (seqResult m .badCmd)

/-! ## The SEQ slot (R69..R72, R93, R94) -/

/-- The end tests at a body's end, innermost first (R70): the next address, the loops open there, the counters. -/
def endTests (e : Nat) : List OpenLoop → Vector (BitVec 32) 4 → Nat × List OpenLoop × Vector (BitVec 32) 4
  | [], lcs => (e + 1, [], lcs)
  | l :: r, lcs =>
    if l.end_ = e then
      let i := (lcs.get l.n.toFin).toNat + 1
      if i < l.count then (l.start, l :: r, lcs.set l.n.toNat (BitVec.ofNat 32 i))
      else endTests e r (lcs.set l.n.toNat (BitVec.ofNat 32 l.count))
    else (e + 1, l :: r, lcs)
/-- The count N of a LOOP. -/
def loopCount (file : Vector (BitVec 64) 8) (a : LoopArgs) : Nat :=
  if a.src then (file.get (bitsAt a.cnt 0 3).toFin).toNat % 2 ^ 32 else a.cnt.toNat + 1
/-- A BRANCH's condition holds (R71). -/
def branchTaken (lcs : Vector (BitVec 32) 4) (file : Vector (BitVec 64) 8) (a : BranchArgs) (x : BitVec 23) : Bool :=
  let lc := (lcs.get (bitsAt a.sel 0 2).toFin).toNat
  let p := file.get a.sel.toFin
  let v := (branchImm a x).toNat
  match a.cond.toNat with
  | 0 => true
  | 1 => lc == v
  | 2 => lc != v
  | 3 => lc < v
  | 4 => v ≤ lc
  | 5 => p.getLsbD (bitsAt a.imm 0 6).toNat
  | 6 => !p.getLsbD (bitsAt a.imm 0 6).toNat
  | _ => p.toNat % 2 ^ 16 == v
/-- A BRANCH's offset (R94): extended, or OFS11 sign-extended. -/
def branchOfs (a : BranchArgs) : Option (BitVec 23) → Int
  | none => a.ofs.toInt
  | some x => (bitsAt x 8 15 ++ a.ofs).toInt
/-- Where the SEQ operation of the bundle at A leads: the next address, the open loops, the counters. -/
def seqNext (q : SeqSt) (op : SeqOp) (x : Option (BitVec 23)) : Nat × List OpenLoop × Vector (BitVec 32) 4 :=
  let a := q.fetchAddr.toNat
  match op with
  | .loop l =>
    let n := loopCount q.file l
    let e := a + loopLen l (x.getD 0)
    let lcs := q.lcs.set l.n.toNat 0
    if n = 0 then endTests e q.loops lcs else (a + 1, ⟨l.n, a + 1, e, n⟩ :: q.loops, lcs)
  | .branch b =>
    if branchTaken q.lcs q.file b (x.getD 0) then
      let t := ((a : Int) + branchOfs b x).toNat
      (t, q.loops.filter (fun l => l.start ≤ t && t ≤ l.end_), q.lcs)
    else endTests a q.loops q.lcs
  | .halt => (a, q.loops, q.lcs)
  | _ => endTests a q.loops q.lcs

/-- The lowest rate of a massif's cores (R307, R449). -/
def massifRate (s : State) (m : Massif) : Nat :=
  match massifCores s m with
  | [] => 250
  | c :: cs => cs.foldl (fun a d => min a (rateOf s d)) (rateOf s c)
/-- The time at which the massif reaches beat b (R449). -/
def hintTime (s : State) (m : Massif) (b : Nat) : Int :=
  let low := (minBeat s m).getD (getSeq s m).nextBeat
  (now s : Int) + ((BitVec.ofNat 48 b - low).toInt * 1000).tdiv (max 1 (massifRate s m))
/-- A hint posted at the beat of its bundle: the four latest are kept (R76, R449). -/
def hintPost (m : Massif) (cls : BitVec 3) (lead len : Nat) (s : State) : State :=
  let b0 := (getSeq s m).nextBeat.toNat + lead
  let h : Hint := ⟨cls, b0, b0 + len, hintTime s m b0, hintTime s m (b0 + len)⟩
  retarget (modSeq m (fun q => { q with hints := (q.hints ++ [h]).drop ((q.hints.length + 1) - 4) }) s)
/-- The SEQ operation of the bundle at the fetch address resolved. -/
def seqResolve (m : Massif) (op : SeqOp) (x : Option (BitVec 23)) (s : State) : State :=
  let s := modSeq m (fun q =>
    let (a, loops, lcs) := seqNext q op x
    { q with fetchAddr := BitVec.ofNat 18 a, loops := loops, lcs := lcs, sentHalt := q.sentHalt || op == .halt }) s
  match op with
  | .hint h => hintPost m h.cls h.lead.toNat (hintLen h (x.getD 0)) s
  | .mark a => modSeq m (fun q => { q with marks := q.marks ++ [(q.nextBeat, a.imm)] }) s
  | _ => s
/-- The sequencer fetches: it runs, and has reached neither HALT nor its clean point. -/
def fetching (s : State) (m : Massif) : Bool := running s m && !(getSeq s m).sentHalt && !(getSeq s m).atClean
/-- A SEQ operation alone (log entry 5): it is resolved at the fetch address; no bundle is broadcast. -/
def seqAlone (q : SeqAt) (op : SeqOp) (s : State) : Host.Outcome State Fault Refusal :=
  whenAwake s (fun s => if fetching s q.s then seqResolve q.s op q.x s else s)
/-- LOOP (R69). -/
def execLoop (q : SeqAt) (a : LoopArgs) (s : State) : Host.Outcome State Fault Refusal := seqAlone q (.loop a) s
/-- BRANCH (R71). -/
def execBranch (q : SeqAt) (a : BranchArgs) (s : State) : Host.Outcome State Fault Refusal := seqAlone q (.branch a) s
/-- HALT (R61). -/
def execHalt (q : SeqAt) (s : State) : Host.Outcome State Fault Refusal := seqAlone q .halt s
/-- HINT (R76). -/
def execHint (q : SeqAt) (a : HintArgs) (s : State) : Host.Outcome State Fault Refusal := seqAlone q (.hint a) s
/-- MARK (R77). -/
def execMark (q : SeqAt) (a : MarkArgs) (s : State) : Host.Outcome State Fault Refusal := seqAlone q (.mark a) s

/-! ## Broadcast (R41, R55, R67, R68) -/

/-- The slots of the bundle at a bundle address of a sequencer's region (R48). -/
def bundleAt (s : State) (q : SeqSt) (a : Nat) : Vector Slot 8 :=
  let w (i : Nat) : BitVec 64 := smGet 0 s.store.words (q.base.toNat * 512 + 4 * a + i)
  Vector.ofFn (fun (i : Fin 8) => bitsAt (w (i.val / 2)) (32 * (i.val % 2)) 32)
/-- The extension that a bundle gives slot 0. -/
def seqExt (w : Vector Slot 8) : Option (BitVec 23) :=
  match (extGuards 1 ((decodeExtOp (w.get 7)).getD .nop)).2 with
  | some (k, x) => if k == 0 then some x else none
  | none => none
/-- Beats that an operation occupies its unit: MXE, VXE, OST, TXA, TXB; 0 names none (R26). -/
def mxeOpRun : MxeOp → Option MxeRun
  | .nop | .mclr => none
  | .mcfg a => some (.mcfg a.c 0)
  | .malat a => some (.malat (a.n1.toNat + 1) a.s.toNat 0)
  | .mtld a => some (.mtld (if a.wcls == 1 then 2 else 1) 0)
  | .mwsp a => some (.pass (mwspPass (Vector.replicate 32 0) MxeSt.reset a 0))
  | .mtp a => some (.pass (mtpPass (Vector.replicate 32 0) MxeSt.reset a))
def unitLens (o : BundleOps) : Vector Nat 5 :=
  let mx := if o.mxe == .nop then 0 else match mxeOpRun o.mxe with | some r => mxeLen r | none => 1
  let vx := if o.vxe == .nop then 0 else if (vxeTwoBeat o.vxe).isSome then 2 else 1
  let os := match o.ost with | .nop => 0 | .ocfg _ => 1 | .ocvt a => a.r1.toNat + 1
  #v[mx, vx, os, if o.txa == .nop then 0 else 1, if o.txb == .nop then 0 else 1]
/-- Beats that each unit stays occupied after a beat. -/
def occNext (occ : Vector Nat 5) (o : BundleOps) : Vector Nat 5 :=
  let l := unitLens o
  Vector.ofFn (fun i => if occ.get i > 0 then occ.get i - 1 else l.get i - 1)

/-- A cluster receives a broadcast entry. -/
def fifoPut (e : FifoEntry) (k : Cluster) : Cluster :=
  { k with fifo := k.fifo ++ [e], highWater := max k.highWater (k.fifo.length + 1) }
/-- A full FIFO holds the tree (R41). -/
def treeHold (m : Massif) (full : List PClus) (s : State) : State :=
  let s := if (getSeq s m).hold == .tree then s else full.foldl (fun s p => modClus p (fun k => { k with fullCount := satInc 16 k.fullCount }) s) s
  modSeq m (fun q => { q with hold := .tree }) s
/-- The zero-fill of R268 is under way in a massif. -/
def zeroing (s : State) (m : Massif) : Bool :=
  (massifCores s m).any (fun c => (getCore s c).ledge.bg.any (fun b => match b.1 with | .zero _ => true | _ => false))

/-- BROADCAST_BUNDLE (R41): bad1 and bad2 say that the fetch and its reread fail parity (R55). After a failing fetch whose reread has not
failed, the reread is under way: HOLD_CAUSE shows FETCH (R68), and the next of these commands is its outcome. -/
def broadcast (m : Massif) (bad1 bad2 : Bool) (s : State) : State :=
  if !fetching s m then s
  else if bad1 && (bad2 || (getSeq s m).hold == .fetch) then runAbandon m .faulted .fetchParity (modSeq m (fun q => { q with fetchParity := true }) s)
  else if bad1 then modSeq m (fun q => { q with hold := .fetch }) s
  else
    let q := getSeq s m
    if q.state == .stopping && q.occ.toList.all (· == 0) then modSeq m (fun q => { q with atClean := true, hold := .ended }) s
    else
      let ps := massifClus s m
      let full := ps.filter (fun p => 2048 ≤ (getClus s p).fifo.length)
      if zeroing s m then modSeq m (fun q => { q with hold := .tree }) s
      else if !full.isEmpty then treeHold m full s
      else
        let w := bundleAt s q q.fetchAddr.toNat
        let o := readBundle w
        let e : FifoEntry := ⟨q.fetchAddr, q.nextBeat, w, q.lcs, false⟩
        let s := ps.foldl (fun s p => modClus p (fifoPut e) s) s
        let s := seqResolve m o.seq (seqExt w) s
        modSeq m (fun q => { q with
          nextBeat := q.nextBeat + 1, occ := occNext q.occ o, hold := if q.sentHalt then .ended else .none }) s
/-- BROADCAST_BUNDLE (R41). -/
def execBroadcastBundle (m : Massif) (bad1 bad2 : Bool) (s : State) : Host.Outcome State Fault Refusal := whenAwake s (broadcast m bad1 bad2)

/-! ## The ends of a run (R61, R64, R66, R235, R366, R505) -/

/-- A stream of the massif is in flight. -/
def inFlight (s : State) (m : Massif) : Bool :=
  (massifCores s m).any (fun c => (List.finRange 8).any (fun x => (getStream s c x).st != .idle))
/-- Every released item has landed or been dropped (R366). -/
def relDrained (s : State) (m : Massif) : Bool := (massifCores s m).all (fun c => (getCore s c).epoch.relOut.isEmpty)
/-- Every core of the massif has issued every bundle that was broadcast, each whole, and none has failed. -/
def runIssued (s : State) (m : Massif) : Bool :=
  (massifCores s m).all (fun c => !(getCore s c).err.failed && !rerunning s c && (getCore s c).issue.beat == (getSeq s m).nextBeat)
/-- The conditions of R61 and R366. -/
def runDrained (s : State) (m : Massif) : Bool := !inFlight s m && relDrained s m
/-- A core at the end of its run. -/
def coreHalt (c : CoreId) (s : State) : State :=
  modIssue c (fun i => { i with halted := true, waitCause := .halted, waitUnits := 0 }) (epochEnd c s)
/-- The sequencer enters HALTED. -/
def enterHalted (m : Massif) (cause : HaltCause) (s : State) : State :=
  let s := (massifCores s m).foldl (fun s c => coreHalt c s) s
  runAbandon m .halted cause s
/-- PROGRAM_END (R61). -/
def execProgramEnd (m : Massif) (s : State) : Host.Outcome State Fault Refusal :=
  whenAwake s (fun s => if running s m && (getSeq s m).sentHalt && runIssued s m && runDrained s m then enterHalted m .programEnd s else s)
/-- STOP_HALT (R64). -/
def execStopHalt (m : Massif) (s : State) : Host.Outcome State Fault Refusal :=
  whenAwake s (fun s =>
    if (getSeq s m).state == .stopping && (getSeq s m).atClean && runIssued s m && runDrained s m then enterHalted m .stop s else s)

/-- A core waits at a held summit: its window holds a SARR or SWAIT on a context that is held for it (R235, R339). -/
def waitsHeld (s : State) (m : Massif) (c : CoreId) : Bool :=
  let k := (getCore s c).cairn
  let ctx := bitsAt k.waitIdx 0 4
  let scope := ctxScope s m ctx
  let i := getInst s m (instKey scope ctx (getClus s c.clus).repair.lclus.toNat)
  !rerunning s c && k.waitKind == 2 && (i.trap || (scope = 3 && (getMassif s m).summit.held.getLsbD ctx.toNat))
/-- The conditions of a trap halt: R505 with a failed core, R235 under HALT_MASSIF otherwise. -/
def trapHalts (s : State) (m : Massif) : Bool :=
  let cs := massifCores s m
  if cs.any (fun c => (getCore s c).err.failed) then
    cs.all (fun c => let k := getCore s c; k.err.failed || waitsHeld s m c || k.issue.ended || k.issue.halted)
  else
    2 ≤ (getMassif s m).runTrapMode.toNat && (getMassif s m).haltPending && cs.any (waitsHeld s m) &&
      cs.all (fun c => waitsHeld s m c || (getCore s c).issue.halted)
/-- TRAP_HALT (R235). -/
def execTrapHalt (m : Massif) (s : State) : Host.Outcome State Fault Refusal :=
  whenAwake s (fun s => if running s m && trapHalts s m && runDrained s m then enterHalted m .trap s else s)

/-- The watchdog's interval: 2^LIMIT ticks, LIMIT clamped to 10..40 (R82). -/
def wdogTicks (q : SeqSt) : Nat := 2 ^ max 10 (min 40 q.wdogLimit.toNat)
/-- WATCHDOG (R82). -/
def watchdog (m : Massif) (s : State) : State :=
  let q := getSeq s m
  if running s m && q.wdogLimit != 0 && !q.wdogActed && wdogTicks q ≤ now s - q.wdogTick.toNat then
    let s := raiseEvt (pageSeq m) 0x108 (modSeq m (fun q => { q with wdogExpired := true, wdogActed := true }) s)
    if q.wdogAction then abortAct m .watchdog s else s
  else s
/-- WATCHDOG (R82). -/
def execWatchdog (m : Massif) (s : State) : Host.Outcome State Fault Refusal := whenAwake s (watchdog m)

end Sys2Proof.Machine
end

