-- ==== Sys2Proof/Machine/LoadCheck.lean ====
section
/-! DEFINITION. The load check (chapter 02, R78..R81; chapter 03, R85, R86, R90): encodings of every bundle of a region, the control
edges from SEQ_ENTRY, occupancy and ledge slots along them, and the report. -/
namespace Sys2Proof.Machine

/-- A violation: bundle address, slot, code. -/
structure Violation where
  addr : Nat
  slot : Nat
  code : Nat
  deriving DecidableEq, Repr
/-- The order of the report (R81). -/
def violationBefore (a b : Violation) : Bool :=
  a.addr < b.addr || (a.addr == b.addr && (a.slot < b.slot || (a.slot == b.slot && a.code < b.code)))

/-! ## Encodings (R85, R86, R90) -/

/-- Opcode of a slot. -/
def slotOp (w : Vector Slot 8) (i : Fin 8) : Nat := (bitsAt (w.get i) 26 6).toNat
/-- The operation of a slot takes an extension (R90). -/
def takesExt (slot op : Nat) : Bool :=
  match slot with
  | 0 => op == 1 || op == 2 || op == 4
  | 1 => 1 ≤ op && op ≤ 4
  | 2 => 1 ≤ op && op ≤ 4
  | 3 => op == 1 || op == 2
  | 4 | 5 => op == 1
  | 6 => op == 1 || op == 2
  | _ => false
/-- Bits of X that must be 0 for an operation are 0 (R90, R94). -/
def extZeros (w : Vector Slot 8) (slot : Nat) (x : BitVec 23) : Bool :=
  if slot = 0 then
    match readSeqOp (w.get 0) with
    | some (.loop _) => bitsAt x 7 16 == 0
    | some (.hint _) => bitsAt x 5 18 == 0
    | some (.branch a) => if a.cond == 0 || a.cond == 5 || a.cond == 6 then bitsAt x 0 8 == 0 else true
    | _ => true
  else if slot = 6 then bitsAt x 16 7 == 0
  else true
/-- Slot 7 is well encoded, its extension included. -/
def extOk (w : Vector Slot 8) : Bool :=
  match decodeExtOp (w.get 7) with
  | none => false
  | some op =>
    match (extGuards 1 op).2 with
    | none => true
    | some (t, x) => if h : t.toNat < 7 then takesExt t.toNat (slotOp w ⟨t.toNat, by omega⟩) && extZeros w t.toNat x else false
/-- Slot 0 is well encoded by its own bits; the extension counts where it widens an operand. -/
def seqOk (w : Vector Slot 8) : Bool :=
  match readSeqOp (w.get 0) with
  | none => false
  | some (.branch a) => SeqOp.wf (if a.cond == 0 || a.cond == 5 || a.cond == 6 then 0 else (seqExt w).getD 0) (.branch a)
  | some op => SeqOp.wf ((seqExt w).getD 0) op
/-- Violations of R85 and R86 in one bundle. -/
def encodingViolations (mx6 epoch : Bool) (a : Nat) (w : Vector Slot 8) : List Violation :=
  let x6 := extFor ((decodeExtOp (w.get 7)).getD .nop) 6
  let bad : List Nat := (if seqOk w then [] else [0]) ++ (if (decodeMxeOp (w.get 1)).isSome then [] else [1]) ++
    (if (decodeVxeOp (w.get 2)).isSome then [] else [2]) ++ (if (decodeOstOp (w.get 3)).isSome then [] else [3]) ++
    (if (decodeTxOp (w.get 4)).isSome then [] else [4]) ++ (if (decodeTxOp (w.get 5)).isSome then [] else [5]) ++
    (if (decodeSynOp x6 (w.get 6)).isSome then [] else [6]) ++ (if extOk w then [] else [7])
  let m := slotOp w 1
  let noMx6 := !mx6 && (m == 3 || m == 4 || m == 5) && bitsAt (w.get 1) 22 2 == 2
  let y := slotOp w 6
  let noEpoch := !epoch && 6 ≤ y && y ≤ 8
  bad.map (fun s => ⟨a, s, 1⟩) ++ (if noMx6 then [⟨a, 1, 2⟩] else []) ++ (if noEpoch then [⟨a, 6, 2⟩] else [])

/-! ## Control edges (R69..R72, R79) -/

/-- A loop of the program: its LOOP bundle, end, counter, whether it has a back edge and a zero-count skip. -/
structure LoopRec where
  at_ : Nat
  end_ : Nat
  n : BitVec 2
  back : Bool
  skip : Bool
  deriving DecidableEq, Repr
/-- An address lies in a loop's body. -/
def inBody (l : LoopRec) (a : Nat) : Bool := l.at_ < a && a ≤ l.end_
/-- The loop that a bundle opens; its end may lie outside the region (TARGET), and its form and edges are checked all the same (R81). -/
def loopAt (w : Vector Slot 8) (a : Nat) : Option LoopRec :=
  match (readBundle w).seq with
  | .loop l => some ⟨a, a + loopLen l ((seqExt w).getD 0), l.n, l.src || l.cnt != 0, l.src⟩
  | _ => none
/-- Where the end tests at address e lead: back edges of the loops that hold a and end at e, and the address after it. -/
def endEdges (loops : List LoopRec) (a e : Nat) : List Nat :=
  ((loops.filter (fun l => inBody l a && l.end_ == e && l.back)).map (fun l => l.at_ + 1)) ++ [e + 1]
/-- The target of a BRANCH. -/
def branchTarget (w : Vector Slot 8) (a : Nat) (b : BranchArgs) : Int := (a : Int) + branchOfs b (seqExt w)
/-- Edges out of a bundle, targets outside the region left out. -/
def edgesOf (n : Nat) (loops : List LoopRec) (w : Vector Slot 8) (a : Nat) : List Nat :=
  let l := match (readBundle w).seq with
    | .halt => []
    | .branch b =>
      let t := branchTarget w a b
      (if 0 ≤ t then [t.toNat] else []) ++ (if b.cond == 0 then [] else endEdges loops a a)
    | .loop _ =>
      match loopAt w a with
      | some r => (a + 1) :: (if r.skip then endEdges loops a r.end_ else [])
      | none => [a + 1]
    | _ => endEdges loops a a
  (l.filter (· < n)).eraseDups
/-- An edge leaves the region (FALL_OFF). -/
def fallsOff (n : Nat) (loops : List LoopRec) (w : Vector Slot 8) (a : Nat) : Bool :=
  match (readBundle w).seq with
  | .halt => false
  | .branch b => b.cond != 0 && (endEdges loops a a).any (n ≤ ·)
  | .loop _ =>
    match loopAt w a with
    | some r => n ≤ a + 1 || (r.skip && (endEdges loops a r.end_).any (n ≤ ·))
    | none => n ≤ a + 1
  | _ => (endEdges loops a a).any (n ≤ ·)

/-- Addresses reached, and the loops among them: one round, and rounds until nothing is new. -/
def reachRound (n : Nat) (f : Nat → Vector Slot 8) (seen : List Nat) : List Nat :=
  let loops := seen.filterMap (fun a => loopAt (f a) a)
  (seen ++ seen.flatMap (fun a => edgesOf n loops (f a) a)).eraseDups
def reachAll (n : Nat) (f : Nat → Vector Slot 8) : Nat → List Nat → List Nat
  | 0, seen => seen
  | k + 1, seen =>
    let next := reachRound n f seen
    if next.length = seen.length then seen else reachAll n f k next

/-! ## Occupancy (R79, R80) -/

/-- One unit's occupancy: none, or the issuing address and the beats that remain. -/
abbrev OccState := List (Option (Nat × Nat))
/-- Every unit idle. -/
def occIdle : OccState := List.replicate 5 none
/-- Occupancy after a bundle. -/
def occAfter (w : Vector Slot 8) (a : Nat) (st : OccState) : OccState :=
  let lens := (unitLens (readBundle w)).toList
  (List.range 5).map (fun i =>
    match st.getD i none with
    | some (b, r) => if r ≤ 1 then none else some (b, r - 1)
    | none => let l := lens.getD i 0; if l ≤ 1 then none else some (a, l - 1))
/-- Ledge slots, reads and writes, that each of slots 1..5 takes in a beat (R249). -/
def beatSlots (f : Nat → Vector Slot 8) (a : Nat) (st : OccState) : List (Nat × Nat) :=
  let o := readBundle (f a)
  let mx := match st.getD 0 none with
    | some (b, r) => (match mxeOpRun (readBundle (f b)).mxe with | some q => mxeSlots ⟨0, 0, mxeLen q - r, false⟩ q | none => (0, 0))
    | none => match mxeOpRun o.mxe with | some q => mxeSlots ⟨0, 0, 0, false⟩ q | none => (0, 0)
  let vx := if (st.getD 1 none).isSome then (0, 0) else vxeSlots o.vxe
  let os := if (st.getD 2 none).isSome then (0, 1) else match o.ost with | .ocvt _ => (0, 1) | .ocfg _ => (1, 0) | .nop => (0, 0)
  [mx, vx, os, (txSlots o.txa, 0), (txSlots o.txb, 0)]
/-- The lowest slot whose access, in slot order, exceeds two reads or one write. -/
def slotsOver (l : List (Nat × Nat)) : Option Nat :=
  (l.foldl (fun (acc : Nat × Nat × Nat × Option Nat) e =>
    let (i, r, w, found) := acc
    let r := r + e.1
    let w := w + e.2
    (i + 1, r, w, if found.isNone && (r > 2 || w > 1) && e != (0, 0) then some i else found)) (1, 0, 0, none)).2.2.2

/-- Predecessors of an address among the reached. -/
def predsOf (n : Nat) (loops : List LoopRec) (f : Nat → Vector Slot 8) (seen : List Nat) (a : Nat) : List Nat :=
  seen.filter (fun b => (edgesOf n loops (f b) b).contains a)
/-- The lowest of a list. -/
def leastOf : List Nat → Option Nat
  | [] => none
  | a :: l => some (l.foldl min a)
/-- States given to addresses: SEQ_ENTRY is idle; any other takes the state of the edge from its lowest predecessor (R81). Where
that predecessor has no state yet in a whole round, the lowest predecessor that has one stands in (DESIGN CHOICE, log entry 46). -/
def stateRound (entry : Nat) (f : Nat → Vector Slot 8) (preds : List (Nat × List Nat)) (any : Bool) (t : SMap (Option OccState)) :
    SMap (Option OccState) × Bool :=
  preds.foldl (fun (acc : SMap (Option OccState) × Bool) p =>
    let (t, new) := acc
    let (a, ps) := p
    if (smGet none t a).isSome || (any && new) then acc
    else if a = entry then (smSet none t a (some occIdle), true)
    else
      let from_ := if any then leastOf (ps.filter (fun b => (smGet none t b).isSome)) else leastOf ps
      match from_ with
      | none => acc
      | some b =>
        match smGet none t b with
        | some st => (smSet none t a (some (occAfter (f b) b st)), true)
        | none => acc) (t, false)
def stateAll (entry : Nat) (f : Nat → Vector Slot 8) (preds : List (Nat × List Nat)) : Nat → SMap (Option OccState) → SMap (Option OccState)
  | 0, t => t
  | k + 1, t =>
    let (t1, new) := stateRound entry f preds false t
    if new then stateAll entry f preds k t1
    else
      let (t2, new) := stateRound entry f preds true t
      if new then stateAll entry f preds k t2 else t

/-! ## Violations along the edges -/

/-- LOOP_FORM of a bundle (R70, R72). DESIGN CHOICE (log entry 109): only loops whose LOOP bundle is reached have bodies that a BRANCH must
not enter; a LOOP that is the last bundle of an enclosing body, its own body wholly outside, breaks the form. -/
def formBad (entry : Nat) (loops : List LoopRec) (w : Vector Slot 8) (a : Nat) : Bool :=
  (a == entry && loops.any (fun l => inBody l a)) ||
  match (readBundle w).seq with
  | .loop _ =>
    (match loops.find? (fun l => l.at_ == a) with
    | some l => loops.any (fun k => inBody k a && (k.end_ < l.end_ || k.n == l.n))
    | none => false)
  | .branch b =>
    let t := branchTarget w a b
    0 ≤ t && loops.any (fun l => inBody l t.toNat && !inBody l a)
  | _ => false
/-- TARGET of a bundle. -/
def targetBad (n : Nat) (w : Vector Slot 8) (a : Nat) : Bool :=
  match (readBundle w).seq with
  | .loop _ => (loopAt w a).any (fun l => n ≤ l.end_)
  | .branch b => let t := branchTarget w a b; t < 0 || (n : Int) ≤ t
  | _ => false
/-- Violations of one reached bundle, entered with an occupancy; the states of its other edges are compared with it. -/
def walkViolations (n entry : Nat) (loops : List LoopRec) (f : Nat → Vector Slot 8) (t : SMap (Option OccState)) (ps : List Nat) (a : Nat) :
    List Violation :=
  let w := f a
  match smGet none t a with
  | none => []
  | some st =>
    let lens := (unitLens (readBundle w)).toList
    let busy := (List.range 5).filter (fun i => (st.getD i none).isSome && lens.getD i 0 != 0)
    let others := (if a = entry then [occIdle] else []) ++ ps.filterMap (fun b => (smGet none t b).map (occAfter (f b) b))
    let joins := others.filterMap (fun o => (List.range 5).find? (fun i => o.getD i none != st.getD i none))
    let halt := (readBundle w).seq == .halt && (occAfter w a st).any (·.isSome)
    busy.map (fun i => ⟨a, i + 1, 3⟩) ++
    (match slotsOver (beatSlots f a st) with | some i => [⟨a, i, 4⟩] | none => []) ++
    joins.map (fun i => ⟨a, i + 1, 5⟩) ++
    (if targetBad n w a then [⟨a, 0, 6⟩] else []) ++ (if formBad entry loops w a then [⟨a, 0, 7⟩] else []) ++
    (if halt then [⟨a, 0, 8⟩] else []) ++ (if fallsOff n loops w a then [⟨a, 0, 9⟩] else [])
/-- Every violation of a program of n bundles, each once (R78..R81). -/
def programViolations (mx6 epoch : Bool) (n entry : Nat) (f : Nat → Vector Slot 8) : List Violation :=
  let enc := (List.range n).flatMap (fun a => encodingViolations mx6 epoch a (f a))
  let seen := (List.range n).filter (reachAll n f n [entry]).contains
  let loops := seen.filterMap (fun a => loopAt (f a) a)
  let preds := seen.map (fun a => (a, predsOf n loops f seen a))
  let t := stateAll entry f preds (n + 1) []
  let walk := preds.flatMap (fun p => walkViolations n entry loops f t p.2 p.1)
  (enc ++ walk).eraseDups
/-- The violation that is reported. -/
def firstViolation : List Violation → Option Violation
  | [] => none
  | v :: l => some (l.foldl (fun a b => if violationBefore b a then b else a) v)

/-- The check of a sequencer's region; a feature is present when DIE_CAP and the negotiated mask both have it (R86). -/
def loadCheck (s : State) (m : Massif) : List Violation :=
  let q := getSeq s m
  programViolations (featMx6 s) (featEpoch s) (128 * q.size.toNat) q.entry.toNat (bundleAt s q)
/-- A check that ends with its violations (R81). -/
def checkReport (l : List Violation) (q : SeqSt) : SeqSt :=
  let q := { q with state := q.prev, checked := l.isEmpty, result := if l.isEmpty then .ok else .checkFail, violations := min l.length 0xFFFF }
  match firstViolation l with
  | none => { q with checkCode := 0, checkAddr := 0, checkSlot := 0 }
  | some v => { q with checkCode := BitVec.ofNat 4 v.code, checkAddr := BitVec.ofNat 18 v.addr, checkSlot := BitVec.ofNat 3 v.slot }
/-- CHECK_COMPLETE (R81). -/
def execCheckComplete (m : Massif) (s : State) : Host.Outcome State Fault Refusal :=
  whenAwake s (fun s => if (getSeq s m).state == .checking then modSeq m (checkReport (loadCheck s m)) s else s)

end Sys2Proof.Machine
end

