-- ==== Sys2Proof/Machine/Resets.lean ====
section
/-! DEFINITION. Massifs (chapter 20): creation, massif reset, compute reset and teardown, what each clears and keeps; and a fatal
die error (R507..R510). -/
namespace Sys2Proof.Machine

/-! ## Entry of a core into reset (R303, R366, R382, R512) -/

/-- Landings in the landing buffer and reads not yet granted are answered ABSENT; a zero-fill of R268 is completed. -/
def bgAbsent (c : CoreId) (s : State) : State :=
  let l := (getCore s c).ledge.bg
  let gone (b : BgReq) : Bool := bgKind b == 8 || bgKind b == 9 || bgKind b == 0xD
  let s := modLedge c (fun k => { k with bg := k.bg.filter (fun e => !gone e.1) }) s
  l.foldl (fun s e => match e.1 with
    | .land w => landAck w 1 s
    | .rread r => deliverRead c r.back 1 (List.replicate (if r.shape != 0 then 1024 else r.len) 0) s
    | .zero n => bgServe c [] (.zero n) s
    | _ => s) s
/-- A core that a reset reaches, before its streams and epochs end. Arrivals that have not left it are gone. -/
def coreStopped (k : Core) : Core :=
  { k with
    presence := .reset
    issue := { k.issue with halted := true, waitCause := .halted, waitUnits := 0 }
    mxe := { k.mxe with run := none }
    ost := { k.ost with run := none }
    vxe := { k.vxe with run := none }
    ledge := { cacheClear k.ledge with cacheActive := false }
    cairn := { k.cairn with
      arrivals := k.cairn.arrivals.filter (fun a => match a.2 with | some r => r.left | none => false), withheld := [], waitKind := 0 }
    err := { k.err with rerun := [], rest := none, cycles := [], spans := [], suspect := [], heldEvents := [] } }
/-- A core enters reset. -/
def coreEnterReset (c : CoreId) (s : State) : State :=
  let s := modCore c coreStopped (gateDiscardAll c s)
  let s := (List.finRange 8).foldl (fun s x => streamCancel c x s) s
  bgAbsent c (storeUnwait c.clus (.put c.core) (epochDropAll c (epochDepth s c) s))

/-- Steps 1 to 3 of R487: the sequencer stops, FIFOs are emptied, every core enters reset. -/
def massifStop (m : Massif) (st : MassifState) (s : State) : State :=
  let q := getSeq s m
  let s := if q.state == .loading || q.state == .checking then commandAbort m s else s
  let s := modSeq m (fun q => { q with state := .idle, hold := .ended, startPend := false }) s
  let s := (massifClus s m).foldl (fun s p => modClus p (fun k => { k with fifo := [] }) s) s
  let s := (massifCores s m).foldl (fun s c => coreEnterReset c s) s
  modMassif m (fun k => { k with state := st }) s
/-- Step 4 of R487: every write issued or released has landed or been dropped, and every stream has ended. -/
def massifDrained (s : State) (m : Massif) : Bool :=
  !inFlight s m && relDrained s m && (massifCores s m).all (fun c => (getCore s c).xfer.outWrites.isEmpty)

/-! ## What a reset clears (R99, R485, R486) -/

/-- A ledge after a reset: contents, parity, scrub, residency and scrubbed state are kept. -/
def ledgeCleared (l : LedgeSt) : LedgeSt :=
  { LedgeSt.reset with
    mem := l.mem, bad := l.bad, bg := l.bg, parity := l.parity, perr := l.perr, perrMultiple := l.perrMultiple, perrCount := l.perrCount
    scrubMap := l.scrubMap, keyTag := l.keyTag, kept := l.kept, scrubbed := l.scrubbed, written := l.written
    scrubDone := l.scrubDone }
/-- A core's fields at their C: values, fields without one kept (R18), counters at their P: values (R486); with `p`, at their P: values
(R484, R490). -/
def coreCleared (p : Bool) (k : Core) : Core :=
  let i := k.issue
  { presence := k.presence
    issue := { IssueSt.reset with
      hostLimit := if p then 0xFFF else i.hostLimit, charCeil := i.charCeil, ageDerate := i.ageDerate
      paceCeil := i.paceCeil, paceCal := i.paceCal }
    mxe := { MxeSt.reset with laneColumn := k.mxe.laneColumn, laneBit := k.mxe.laneBit, laneValid := k.mxe.laneValid }
    ost := OstSt.reset
    vxe := { VxeSt.reset with selVreg := if p then 0 else k.vxe.selVreg, selWord := if p then 0 else k.vxe.selWord }
    trap := TrapSt.reset
    ledge := ledgeCleared k.ledge
    xfer := { XferSt.reset with sel := if p then 0 else k.xfer.sel, nextWrite := k.xfer.nextWrite }
    cairn := { CairnSt.reset with sel := if p then 0 else k.cairn.sel }
    epoch := { EpochSt.reset with next := k.epoch.next }
    err := { ErrSt.reset with reruns := k.err.reruns, gateDropped := k.err.gateDropped } }
/-- Cluster page 0 after a reset, its FIFO and held-write store empty; the router's registers and CLUS_DROOP are kept (R486). -/
def clusCleared (k : Cluster) : Cluster :=
  { Cluster.reset with
    droopCount := k.droopCount, droopActive := k.droopActive, droopStep := k.droopStep, droopSince := k.droopSince
    droopBase := k.droopBase, dataHolds := k.dataHolds, promoted := k.promoted, flits := k.flits, repair := k.repair }
/-- The sequencer at its C: values: IDLE, its region, CHECKED and settings kept; its hints are the power manager's (R449, R462). -/
def seqCleared (q : SeqSt) : SeqSt :=
  { SeqSt.reset with
    checked := q.checked, base := q.base, size := q.size, entry := q.entry, loadSrc := q.loadSrc, loadCount := q.loadCount
    loadDest := q.loadDest, checkCode := q.checkCode, checkAddr := q.checkAddr, checkSlot := q.checkSlot, violations := q.violations
    params := q.params, file := q.file, wdogLimit := q.wdogLimit, wdogAction := q.wdogAction, loadGen := q.loadGen, hints := q.hints }
/-- The sequencer at its P: values, the RW fields kept (R484). -/
def seqCreated (q : SeqSt) : SeqSt :=
  { SeqSt.reset with
    base := q.base, size := q.size, entry := q.entry, loadSrc := q.loadSrc, loadCount := q.loadCount, loadDest := q.loadDest
    params := q.params, wdogLimit := q.wdogLimit, wdogAction := q.wdogAction, loadGen := q.loadGen, hints := q.hints }
/-- Summit state without its instances and status; tree, contexts and selectors kept. -/
def summitCleared (k : SummitSt) : SummitSt :=
  { SummitSt.reset with
    nodeId := k.nodeId, parent := k.parent, children := k.children, follow := k.follow, selCtx := k.selCtx, selClus := k.selClus
    ctxs := k.ctxs }
/-- The massif's status fields at their C: values. -/
def massifCleared (k : MassifSt) : MassifSt :=
  { k with
    haltPending := false, txErrored := false, missRaised := false, dlMisses := 0, heldFull := false, summit := summitCleared k.summit }

/-- A reset applied to the massif's cores and clusters. -/
def partsCleared (m : Massif) (p : Bool) (s : State) : State :=
  let s := (massifCores s m).foldl (fun s c => modCore c (coreCleared p) s) s
  (massifClus s m).foldl (fun s q => modClus q clusCleared s) s
/-- Translation-cache entries of a massif invalidated; walks in progress insert none (R295, R296). -/
def tcDrop (m : Massif) (s : State) : State :=
  { s with tc := { s.tc with
    entries := s.tc.entries.filter (fun e => e.massif != m)
    walks := s.tc.walks.map (fun k => if k.massif == m then { k with stale := true } else k) } }

/-- Cores that leave reset; after a fatal die error they stay in it (R508). -/
def coresRelease (m : Massif) (s : State) : State :=
  if s.err.fatal then s else (massifCores s m).foldl (fun s c => modCore c (fun k => { k with presence := .on }) s) s

/-! ## Compute reset (R488) -/

/-- The die-level C: values. -/
def dieCleared (s : State) : State :=
  let s := allMassifs.foldl (fun s m => tcDrop m s) s
  { s with
    store := { s.store with blocked := 0, readParity := false }
    err := { s.err with
      trapValid := false, trapMultiple := false, trapMassif := 0, trapCause := 0, trapEngine := 0, trapClus := 0, trapCore := 0
      trapStamp := 0 }
    tc := { s.tc with hits := 0, misses := 0, inval := [] }
    trk := { s.trk with trackedHwm := 0, tagHwm := 0, waits := 0 }
    bring := { s.bring with compBusy := false } }
/-- A compute reset ends once every massif that it met has completed. -/
def compDone (s : State) : State :=
  if s.bring.compBusy && allMassifs.all (fun m => !(getMassif s m).inCompReset) then dieCleared s else s
/-- COMP_RESET.GO written (R488); during bring-up it is ignored (R480). -/
def compReset (s : State) : State :=
  if bringingUp s then { s with bring := { s.bring with ignoredReset := true } }
  else if !isReady s || s.bring.compBusy then s
  else
    let s := { s with bring := { s.bring with compBusy := true, compCount := satInc 16 s.bring.compCount } }
    compDone (allMassifs.foldl (fun s m =>
      let k := getMassif s m
      if k.state == .none then s
      else
        let s := modMassif m (fun k => { k with inCompReset := true }) s
        if k.state == .active then massifStop m .resetting s else s) s)
/-- GO (R488). -/
def execGo (s : State) : Host.Outcome State Fault Refusal := whenAwake s compReset

/-! ## Creation (R269, R270, R483..R485) -/

/-- A MASSIF_CTL command completes with a result. -/
def massifResult (m : Massif) (r : MassifResult) (s : State) : State := modMassif m (fun k => { k with result := r }) s
/-- A command of the massif is in progress (R494). -/
def massifBusy (k : MassifSt) : Bool := k.state == .creating || k.state == .resetting || k.state == .tearingDown

/-- Blocks of the ledge range. -/
def rangeBlocks (lines : Nat) : BitVec 96 := BitVec.ofNat 96 (2 ^ (lines / 4) - 1)
/-- The survivor set of a core (R270). -/
def survivors (lines : Nat) (key : BitVec 64) (resident : BitVec 96) (l : LedgeSt) : BitVec 96 :=
  if key != 0 && l.keyTag == key then l.kept &&& resident &&& rangeBlocks lines else 0
/-- Blocks in a set of blocks. -/
def blockCount (b : BitVec 96) : Nat := ((List.range 96).filter (fun i => b.getLsbD i)).length
/-- A ledge with every block outside a set zero; the blocks of another are filled, and have good parity (R257, R484). -/
def ledgeKeep (keep filled : BitVec 96) (l : LedgeSt) : LedgeSt :=
  { l with
    mem := l.mem.filter (fun e => keep.getLsbD (e.1 / 4096)), bad := l.bad.filter (fun e => !filled.getLsbD (e.1 / 64))
    written := l.written &&& keep }
/-- The blocks that creation fills at a core, outside a set: those not scrubbed, or written since their last fill (R484). -/
def fillBlocks (lines : Nat) (keep : BitVec 96) (l : LedgeSt) : BitVec 96 :=
  rangeBlocks lines &&& ~~~keep &&& (~~~l.scrubbed ||| l.written)

/-- ZERO writes of the lines of a set of blocks at a core, counted for a massif or for none (R442, R459). -/
def countFill (c : CoreId) (m : Option Massif) (b : BitVec 96) (s : State) : State := countAt c.clus.val 8 0 m (4 * blockCount b) s
/-- A command of class BG from the die-level port to each cluster of a massif (R370; one flit each, log entry 125). -/
def fillCommands (m : Massif) (s : State) : State := (massifClus s m).foldl (fun s p => ridgeMove diePort p.val 4 none 1 s) s
/-- Steps 1 to 3 of R484, and the invalidation of step 4. -/
def massifCreating (m : Massif) (s : State) : State :=
  let lines := dieLines s
  let k := getMassif s m
  let s := modMassif m (fun k => { k with state := .creating, members := k.mask, latchedKey := k.tenantKey, filling := true }) s
  let cs := massifCores s m
  let sv (c : CoreId) : BitVec 96 := survivors lines k.tenantKey k.resident (getCore s c).ledge
  let least := (cs.map (fun c => blockCount (sv c))).foldl min 96
  let s := cs.foldl (fun s c => countFill c (some m) (fillBlocks lines (sv c) (getCore s c).ledge) s) s
  let s := cs.foldl (fun s c => modCore c (fun q =>
    let keep := survivors lines k.tenantKey k.resident q.ledge
    { q with
      presence := .reset
      ledge := { ledgeKeep keep (fillBlocks lines keep q.ledge) q.ledge with keyTag := 0, kept := 0, scrubbed := BitVec.allOnes 96 } }) s) s
  let s := modSeq m seqCreated (partsCleared m true s)
  tcDrop m (modMassif m (fun k => { massifCleared k with
    result := .ok, survived := least, cacheRun := false, runSeed := 0, runSeedMode := false, runTrapMode := 0 }) s)
/-- CREATE (R483). -/
def massifCreate (m : Massif) (s : State) : State :=
  let k := getMassif s m
  if massifBusy k then massifResult m .busy s
  else if !isReady s then massifResult m .notReady s
  else if k.state != .none then massifResult m .badState s
  else if k.mask == 0 then massifResult m .empty s
  else if k.mask >>> s.bring.active.toNat != 0 then massifResult m .range s
  else if allMassifs.any (fun n => n != m && massifHolds (getMassif s n) && (getMassif s n).members &&& k.mask != 0) then massifResult m .overlap s
  else massifCreating m s
/-- CREATE (R483). -/
def execCreate (m : Massif) (s : State) : Host.Outcome State Fault Refusal := whenAwake s (massifCreate m)
/-- CREATE_DONE (R484): the fills are done; the energy counters go to 0, and the cores leave reset. -/
def massifCreated (m : Massif) (s : State) : State :=
  if (getMassif s m).state == .creating then
    compDone (modMassif m (fun k => { k with
      state := .active, result := .ok, filling := false, inCompReset := false, energy := Vector.replicate 6 0 }) (coresRelease m s))
  else s
/-- CREATE_DONE (R484). -/
def execCreateDone (m : Massif) (s : State) : Host.Outcome State Fault Refusal := whenAwake s (massifCreated m)

/-! ## Teardown (R269, R490, R491) -/

/-- Blocks a core keeps at teardown: those marked, but for cache-region blocks of a run in cache mode (R269). -/
def keptBlocks (lines : Nat) (k : MassifSt) : BitVec 96 :=
  k.resident &&& rangeBlocks (if k.cacheRun then lines - 128 else lines)
/-- A core's ledge at step 2 of R490. -/
def ledgeTorn (lines : Nat) (keep : BitVec 96) (key : BitVec 64) (l : LedgeSt) : LedgeSt :=
  { ledgeKeep keep (~~~keep) l with keyTag := key, kept := keep, scrubbed := keep ||| ~~~(rangeBlocks lines) }
/-- Blocks of the program region that lie in no other bound region become zero. -/
def regionZero (m : Massif) (s : State) : State :=
  let q := getSeq s m
  let others := allMassifs.filter (fun k => k != m && (getSeq s k).size != 0)
  { s with store := { s.store with words := s.store.words.filter (fun e =>
    !(wordInRegion q e.1) || others.any (fun k => wordInRegion (getSeq s k) e.1)) } }
/-- Steps 2 and 3 of R490; the fills of step 4 begin. -/
def massifTorn (m : Massif) (s : State) : State :=
  let lines := dieLines s
  let k := getMassif s m
  let keep := keptBlocks lines k
  let s := (massifCores s m).foldl (fun s c =>
    countFill c none (rangeBlocks lines &&& ~~~keep) (modLedge c (ledgeTorn lines keep k.latchedKey) s)) (fillCommands m s)
  let s := regionZero m (partsCleared m true s)
  tcDrop m (modMassif m (fun k => { MassifSt.reset with
    state := .tearingDown, members := k.members, inCompReset := k.inCompReset, filling := true, energy := k.energy
    energyInc := k.energyInc }) (modSeq m (fun q => { SeqSt.reset with loadGen := q.loadGen, hints := q.hints }) s))
/-- A teardown whose drain is complete goes on to its fills. -/
def teardownDrained (m : Massif) (s : State) : State :=
  let k := getMassif s m
  if k.state == .tearingDown && !k.filling && massifDrained s m then massifTorn m s else s
/-- TEARDOWN (R490, R494). -/
def massifTeardown (m : Massif) (s : State) : State :=
  match (getMassif s m).state with
  | .creating | .tearingDown => massifResult m .busy s
  | .none => massifResult m .badState s
  | .resetting => modMassif m (fun k => { k with tearAfter := true }) s
  | .active => teardownDrained m (massifStop m .tearingDown s)
/-- TEARDOWN (R490). -/
def execTeardown (m : Massif) (s : State) : Host.Outcome State Fault Refusal := whenAwake s (massifTeardown m)
/-- TEARDOWN_FILL_DONE (R490): every fill has completed. When the drain came after TEARDOWN, the fills begin first. -/
def massifGone (m : Massif) (s : State) : State :=
  let k := getMassif s m
  if k.state != .tearingDown then s
  else if !k.filling then teardownDrained m s
  else
    let s := (massifCores s m).foldl (fun s c => modLedge c (fun l => { l with scrubbed := BitVec.allOnes 96 }) s) s
    let s := modMassif m (fun k => { k with state := .none, members := 0, filling := false, inCompReset := false }) s
    compDone { s with bring := { s.bring with teardowns := satInc 16 s.bring.teardowns } }
/-- TEARDOWN_FILL_DONE (R490). -/
def execTeardownFillDone (m : Massif) (s : State) : Host.Outcome State Fault Refusal := whenAwake s (massifGone m)

/-! ## Massif reset (R487) -/

/-- MASSIF_RESET (R487, R494, R508); during bring-up it is ignored (R480). -/
def massifReset (m : Massif) (s : State) : State :=
  let k := getMassif s m
  if bringingUp s then { s with bring := { s.bring with ignoredReset := true } }
  else if massifBusy k then massifResult m .busy s
  else if s.err.fatal then massifResult m .notReady s
  else if k.state == .none then massifResult m .badState s
  else massifStop m .resetting s
/-- MASSIF_RESET (R487). -/
def execMassifReset (m : Massif) (s : State) : Host.Outcome State Fault Refusal := whenAwake s (massifReset m)
/-- MASSIF_RESET_DONE (R487): the drain is complete; steps 5 and 6. A teardown that waits begins. -/
def massifResetEnd (m : Massif) (s : State) : State :=
  let k := getMassif s m
  if k.state == .resetting && massifDrained s m then
    let s := coresRelease m (modSeq m seqCleared (partsCleared m false s))
    let s := modMassif m (fun k => { massifCleared k with
      state := .active, result := if k.inCompReset then k.result else .ok, inCompReset := false, tearAfter := false }) s
    let s := compDone s
    if k.tearAfter then massifTeardown m s else s
  else s
/-- MASSIF_RESET_DONE (R487). -/
def execMassifResetDone (m : Massif) (s : State) : Host.Outcome State Fault Refusal := whenAwake s (massifResetEnd m)
/-- MASSIF_BAD_CMD (R483). -/
def execMassifBadCmd (m : Massif) (s : State) : Host.Outcome State Fault Refusal := whenAwake s (massifResult m .badCmd)

/-! ## Power gates (R437) -/

/-- A cluster loses its power; what the spine holds for it stands (R437, R522), and AGE_DERATE, which only a characterisation lowers (R40). -/
def gateCore (k : Core) : Core :=
  { Core.reset with
    issue := { IssueSt.reset with charCeil := k.issue.charCeil, ageDerate := k.issue.ageDerate }
    mxe := { MxeSt.reset with laneColumn := k.mxe.laneColumn, laneBit := k.mxe.laneBit, laneValid := k.mxe.laneValid } }
/-- One core power-gated. -/
def gateCoreAt (c : CoreId) (s : State) : State := modCore c gateCore s
/-- A cluster power-gated with its cores; the router's registers stand. -/
def gateClus (p : PClus) (s : State) : State :=
  let s := modClus p (fun k => { Cluster.reset with
    dataHolds := k.dataHolds, promoted := k.promoted, flits := k.flits, absentCount := k.absentCount, absentDie := k.absentDie
    absentLclus := k.absentLclus, absentLcore := k.absentLcore, absentWrite := k.absentWrite, absentValid := k.absentValid
    repair := { k.repair with powered := false } }) s
  allPCores.foldl (fun s q => gateCoreAt ⟨p, q⟩ s) s
/-- Every cluster power-gated. -/
def gateAll (s : State) : State := allClus.foldl (fun s p => gateClus p s) s

/-! ## Fatal die errors (R507..R509) -/

/-- The partner on a col is told of a fatal error (R509): on every col in UP or MGMT_ONLY once discovery is complete, when every partner
holds an endpoint code. Before, a hub holds one, and a die behind an UP port may (DESIGN CHOICE, log entry 47). -/
def notified (s : State) (c : Col) : Bool :=
  (colUp s c || (colMgmt s c && (s.disc.done || (getCol s c).partnerKind == 1))) && !crossesFailed s diePort (colRouter c)
/-- One REG_WR to ERR_NOTIFY of each such partner. -/
def notifyPartners (cause : BitVec 4) (s : State) : State :=
  allCols.foldl (fun s c =>
    if notified s c then
      let b : MsgBody := .regWr (BitVec.ofNat 23 (0x2190 / 8)) (cause.setWidth 64 <<< 56 ||| s.fuse.serial.setWidth 64)
      toCol c ⟨⟨mkHdr s 0xF 0 0 0 b, b⟩, some .reg, none, none, none, 0, false, none, none⟩ diePort s
    else s) s
/-- A packet that crosses a router that has failed is discarded; a request or a write is answered ABSENT (R508). -/
def packetDrop (p : Packet) (s : State) : State :=
  match p.what with
  | .land w => landAck w 1 s
  | .read r => deliverRead r.dst r.back 1 (List.replicate (if r.shape != 0 then 1024 else r.len) 0) s
  | .out c e => egressDrop c e s
  | .pass _ _ _ => s
/-- Those in the network when the router fails. -/
def netPurge (s : State) : State :=
  let lost (p : Packet) : Bool := p.path.any (failedRouter s)
  (s.net.filter lost).foldl (fun s p => packetDrop p s) { s with net := s.net.filter (fun p => !lost p) }
/-- A fatal die error: the first stands (R508). A failure of bring-up or of the spine is told to the partners (R509). -/
def fatalError (cause unit : BitVec 4) (p : BitVec 6) (s : State) : State :=
  if s.err.fatal then s
  else
    let s := netPurge { s with err := { s.err with fatal := true, cause := cause, unit := unit, pclus := p, time := s.tb.count } }
    let s := allMassifs.foldl (fun s m => modSeq m (fun q => { q with startPend := false }) (abortAct m .abort s)) s
    let s := allMassifs.foldl (fun s m => (massifCores s m).foldl (fun s c =>
      if (getCore s c).presence == .on then coreEnterReset c s else s) s) s
    let s := { s with bring := { s.bring with step := 0xB } }
    if cause == 2 then s else notifyPartners cause s

/-- A router, or its route table, has failed parity. -/
def routerFatal (r : PClus) (unit : BitVec 4) (p : BitVec 6) (s : State) : State :=
  if s.err.fatal then s else fatalError 3 unit p { s with err := { s.err with router := BitVec.ofNat 6 r.val } }

end Sys2Proof.Machine
end

