-- ==== Sys2Proof/Machine/Ports.lean ====
section
/-! DEFINITION. Port states and training of the cols (chapter 16, R388..R398, R410): attempts, HELLO, credits, the ways into DOWN, and
what becomes of the work of a port that leaves MGMT_ONLY or UP. -/
namespace Sys2Proof.Machine

/-! ## Leaving MGMT_ONLY or UP (R393) -/

/-- A message that answers a register request received on a col. -/
def answersAt (c : Col) (e : EgressItem) : Bool := e.answers == some c
/-- Responses to a port's register requests that have not been sent are discarded, wherever they wait (R393). -/
def answersDrop (c : Col) (s : State) : State :=
  { s with
    net := s.net.filter (fun p => match p.what with | .out _ e => !answersAt c e | _ => true)
    cols := s.cols.map (fun k => { k with egress := k.egress.filter (fun e => !answersAt c e) }) }
/-- The messages that wait at a col's egress, or are on their way to it. -/
def colQueue (s : State) (c : Col) : List EgressItem :=
  (getCol s c).egress ++ s.net.filterMap (fun p => match p.what with | .out d e => if d = c then some e else none | _ => none)
/-- The port has left MGMT_ONLY or UP (R393). The register requests that it holds are performed once the command that took it down has acted
(`regDrain`). -/
def linkWork (c : Col) (s : State) : State :=
  let s := answersDrop c s
  let queue := colQueue s c
  let k := getCol s c
  let s := modCol c (fun k => { k with
    egress := [], owed := [], forwarded := [], partialIn := false, credits := Vector.replicate 6 0, advertised := false
    skips := Vector.replicate 6 0, fill := 0, rxFill := 0
    position := none, positionSent := false, childEnd := none })
    { s with net := s.net.filter (fun p => match p.what with | .out d _ => d != c | _ => true) }
  let s := queue.foldl (fun s e => egressDrop c e s) s
  let s := k.owed.foldl (fun s e => match e.2 with | some w => absentOwn c w s | none => s) s
  let s := (k.forwarded.filter (fun m => !queue.any (fun e => e.msg == m))).foldl (fun s m => absentReply c m s) s
  treeBreak c s
/-- The port carries messages. -/
def colLive (k : ColSt) : Bool := k.state == .up || k.state == .mgmtOnly
/-- An instruction register code takes the lanes from the cols (R435). -/
def takesLanes (ir : BitVec 8) : Bool := ir == 0 || ir == 3 || ir == 4
/-- Entry into DOWN (R392): LINK_DOWN goes first, unless the TAP has the lanes (R435). -/
def enterDown (c : Col) (cause : BitVec 4) (s : State) : State :=
  let k := getCol s c
  if k.state == .off then s
  else
    let s := if colLive k && !takesLanes s.jtag.ir then sendLink c (.linkDown cause) s else s
    let s := modCol c (fun k => { k with
      state := .down, downCause := cause, linkUp := false
      downEvents := if k.state == .down then k.downEvents else satInc 8 k.downEvents }) s
    let s := if k.state == .down then s else raiseEvt (pageCol c) 0x108 s
    if colLive k then linkWork c s else s
/-- A training attempt begins, with MAX_RATE and MAX_WIDTH as they stand (R390, R410); no lane has failed in it yet. -/
def beginTraining (c : Col) (s : State) : State :=
  modCol c (fun k => { k with
    state := .training, retrains := satInc 8 k.retrains, usable := 0, linkUp := false, failedReplays := 0, laneFail := 0
    tryRate := k.maxRate, tryWidth := k.maxWidth }) s
/-- A port in MGMT_ONLY or UP retrains. -/
def linkRetrain (c : Col) (cause : BitVec 4) (s : State) : State :=
  let k := getCol s c
  let s := beginTraining c (modCol c (fun k => { k with downCause := cause }) s)
  if colLive k then linkWork c s else s
/-- The port is held DOWN: COL_CTL.DISABLE, or EXTEST, CLAMP or HIGHZ (R435). -/
def portHeld (s : State) (c : Col) : Bool := (getCol s c).disable || takesLanes s.jtag.ir
/-- The partner on a col is absent: what it held and offered has ended (R415). -/
def partnerGone (c : Col) (s : State) : State := modCol c (fun k => { k with reqHeld := false, drivesRck := false, offer := none }) s

/-! ## Training (R390, R391, R396, R397) -/

/-- PARTNER_DETECT_TIMEOUT (R390): the partner is absent, so a CLOCK_REQ it held has ended (R415). -/
def execPartnerDetectTimeout (c : Col) (s : State) : Host.Outcome State Fault Refusal :=
  whenAwake s (fun s =>
    let k := getCol s c
    if k.state == .training && !k.linkUp then enterDown c 5 (partnerGone c s) else s)
/-- A half is usable when at most two of its data lanes fail. -/
def halfUsable (lanes : BitVec 64) (upper : Bool) : Bool :=
  ((List.range 32).filter (fun i => lanes.getLsbD (if upper then 32 + i else i))).length ≤ 2
/-- TRAINING_ATTEMPT (R390): what the attempt found decides its outcome; COL_LANE_FAIL shows its lanes whatever that is. -/
def trainingAttempt (c : Col) (t : TrainArgs) (s : State) : State :=
  let k := getCol s c
  if k.state != .training || k.linkUp then s
  else
    let s := modCol c (fun k => { k with laneFail := t.lanes }) s
    if !t.present then enterDown c 5 (partnerGone c s)
    else if !t.shared then enterDown c 0xB s
    else match t.rate with
    | none => enterDown c 6 s
    | some r =>
      let lo := halfUsable t.lanes false
      let hi := halfUsable t.lanes true
      let usable : BitVec 2 := (if lo then 1 else 0) ||| (if hi then 2 else 0)
      let rate : BitVec 2 := if max r.toNat k.tryRate.toNat ≥ 2 then 2 else BitVec.ofNat 2 (max r.toNat k.tryRate.toNat)
      if usable == 0 || (k.widthLimit && !(if k.limitUpper then hi else lo)) then enterDown c 7 s
      else
        let x32 := !(lo && hi) || k.tryWidth || k.widthLimit
        let upper := x32 && (if k.widthLimit then k.limitUpper else !lo)
        modCol c (fun k => { k with usable := usable, rate := rate, x32 := x32, upper := upper }) s
/-- TRAINING_ATTEMPT (R390). -/
def execTrainingAttempt (c : Col) (t : TrainArgs) (s : State) : Host.Outcome State Fault Refusal := whenAwake s (trainingAttempt c t)
/-- This end's HELLO. -/
def ownHello (c : Col) (k : ColSt) : HelloArgs := ⟨1, 0, BitVec.ofNat 4 c.val, 0, k.x32, k.upper, k.usable, k.rate⟩
/-- PHYSICAL_LINK_UP (R391). -/
def execPhysicalLinkUp (c : Col) (s : State) : Host.Outcome State Fault Refusal :=
  whenAwake s (fun s =>
    let k := getCol s c
    if k.state == .training && !k.linkUp && k.usable != 0 then sendLink c (.hello (ownHello c k)) (modCol c (fun k => { k with linkUp := true }) s)
    else s)

/-- The credits the die advertises (R397), and the least it accepts. -/
def ownCredits : CreditArgs := #v[64, 1024, 256, 1024, 64, 64]
def minCredits : Vector Nat 6 := #v[2, 66, 2, 74, 32, 16]
/-- This die's POSITION on a col (R419). -/
def ownPosition (s : State) (c : Col) : PositionArgs :=
  ⟨s.fuse.serial, 0, BitVec.ofNat 4 c.val, 0, s.disc.clockCol == some c, 1, 0, s.fuse.stepping, s.fuse.features.setWidth 32, s.disc.crownSerial⟩
/-- A DISC message sent over one link (R418). -/
def sendDisc (c : Col) (op : DiscOp) (s : State) : State := enqueueLink c ⟨mkHdr s 0xF 0 0 0 (.disc op), .disc op⟩ none none s
/-- Entry into MGMT_ONLY or UP: credits are advertised, and POSITION is sent. -/
def enterLive (c : Col) (st : ColState) (s : State) : State :=
  let s := sendLink c (.credit ownCredits) (modCol c (fun k => { k with state := st, advertised := false, credits := Vector.replicate 6 0 }) s)
  sendDisc c (.position (ownPosition s c)) (modCol c (fun k => { k with positionSent := true }) s)
/-- A width mismatch (R396). The 100 ms are the oscillator's, which runs whether or not the timebase does (R412). -/
def widthMismatch (c : Col) (common : BitVec 2) (s : State) : State :=
  let n := s.tb.ranNs
  let s := modCol c (fun k => { k with
    mismatches := k.mismatches.filter (fun t => n < t + 100000000) ++ [n]
    widthLimit := true, limitUpper := !common.getLsbD 0 && common.getLsbD 1 }) s
  if (getCol s c).mismatches.length ≥ 3 then enterDown c 8 s
  else if common == 0 then enterDown c 7 s
  else beginTraining c s
/-- A message with a reserved bit, or of a reserved kind, is discarded (R405). -/
def noteMalformed (c : Col) (s : State) : State := modCol c (fun k => { k with malformed := satInc 8 k.malformed }) s
/-- A port receives flits: the physical link is up, or it carries messages. -/
def colHears (k : ColSt) : Bool := colLive k || (k.state == .training && k.linkUp)
/-- A good flit has come (R388). -/
def goodFlit (c : Col) (s : State) : State := modCol c (fun k => { k with failedReplays := 0 }) s
/-- The cell of a link message has come, of class 6 (R410, R442; log entry 123), to a port that receives; one with a reserved bit is
discarded (R405). -/
def linkReceive (c : Col) (h : LinkHdr) (f : State → State) (s : State) : State :=
  if colHears (getCol s c) then
    let s := takeCells c h.joins 1 6 s
    if h.rsvd then noteMalformed c s else f s
  else s
/-- HELLO (R391). -/
def helloReceive (c : Col) (a : HelloArgs) (s : State) : State :=
  let k := getCol s c
  if k.state != .training || !k.linkUp then s
  else
    let s := modCol c (fun k => { k with partnerMajor := a.major, partnerMinor := a.minor, partnerPort := a.port, partnerKind := a.kind }) s
    if k.x32 != a.x32 || (k.x32 && k.upper != a.upper) then widthMismatch c (k.usable &&& a.usable) s
    else enterLive c (if a.major == 1 then .up else .mgmtOnly) s
/-- HELLO (R391). -/
def execHello (c : Col) (a : HelloArgs) (h : LinkHdr) (s : State) : Host.Outcome State Fault Refusal :=
  whenAwake s (linkReceive c h (helloReceive c a))
/-- HELLO_TIMEOUT (R391). -/
def execHelloTimeout (c : Col) (s : State) : Host.Outcome State Fault Refusal :=
  whenAwake s (fun s => if (getCol s c).state == .training && (getCol s c).linkUp then enterDown c 0xB s else s)
/-- CREDIT (R397, R398): the first advertises the totals. -/
def creditReceive (c : Col) (a : CreditArgs) (s : State) : State :=
  let k := getCol s c
  if !colLive k then s
  else if !k.advertised && (List.finRange 6).any (fun v => (a.get v).toNat < minCredits.get v) then enterDown c 0xB s
  else
    let s := modCol c (fun k => { k with
      advertised := true, credits := Vector.ofFn (fun v => (if k.advertised then k.credits.get v else 0) + (a.get v).toNat) }) s
    pumpAll c s
/-- IDLE (R386): it shows a live partner and carries nothing. -/
def execIdle (c : Col) (rsvd : Bool) (s : State) : Host.Outcome State Fault Refusal :=
  whenAwake s (fun s =>
    if !colHears (getCol s c) then s
    else
      let s := countAt (84 + c.val) 0x0C 6 none 1 (goodFlit c s)
      if rsvd then noteMalformed c s else s)
/-- IDLE_FLIT_SEND (R386). -/
def execIdleFlitSend (c : Col) (s : State) : Host.Outcome State Fault Refusal :=
  whenAwake s (fun s => if colLive (getCol s c) then countAt (84 + c.val) 0x0B 6 none 1 (putLink c .idle s) else s)

/-! ## Transitions (R388, R392, R394) -/

/-- LINK_DOWN (R392); before HELLO it ends the attempt (R391). -/
def linkDownReceive (c : Col) (s : State) : State :=
  if colLive (getCol s c) then enterDown c 0xA s
  else if (getCol s c).state == .training && (getCol s c).linkUp then enterDown c 0xB s
  else s
/-- FLIT_CRC_FAIL (R388): the flit is replayed; its eighth failed replay ends the port's state, and no replay follows. -/
def flitCrcFail (c : Col) (s : State) : State :=
  let k := getCol s c
  if !colLive k && !k.linkUp then s
  else if k.failedReplays ≥ 8 then linkRetrain c 0xD (modCol c (fun k => { k with crcErrors := satInc 16 k.crcErrors }) s)
  else modCol c (fun k => { k with
    crcErrors := satInc 16 k.crcErrors, replays := satInc 16 k.replays, failedReplays := k.failedReplays + 1 }) s
/-- PARTNER_LOSS (R394): no good flit has come for 1,000 ticks, or the sideband reports the partner absent. In an attempt the absent partner
ends it (R390), and on any port its CLOCK_REQ is held no longer (R415); a link that is silent alone ends neither. -/
def partnerLoss (c : Col) (absent : Bool) (s : State) : State :=
  let k := getCol s c
  let s := if absent then partnerGone c s else s
  if colLive k then enterDown c 9 s
  else if absent && k.state == .training then enterDown c 5 s
  else s
/-- The cols are idle in steps RAILS to SPINE of a bring-up, and train from DISCOVERY on (R544). -/
def colsIdle (s : State) : Bool := 1 ≤ s.bring.step.toNat && s.bring.step.toNat ≤ 3
/-- A port in DOWN may begin an attempt. -/
def mayTrain (s : State) (c : Col) : Bool := !portHeld s c && (colMask s).getLsbD c.val && !colsIdle s
/-- A port in DOWN begins an attempt of its own (R392). -/
def autoTrain (c : Col) (s : State) : State :=
  let k := getCol s c
  if k.state == .down && k.autoRetrain && k.downCause != 8 && mayTrain s c then beginTraining c s else s
/-- PARTNER_TRAINING (R392). -/
def execPartnerTraining (c : Col) (s : State) : Host.Outcome State Fault Refusal := whenAwake s (autoTrain c)
/-- AUTO_RETRAIN (R392). -/
def execAutoRetrain (c : Col) (s : State) : Host.Outcome State Fault Refusal := whenAwake s (autoTrain c)
/-- COL_CTL.RETRAIN written (R392). -/
def colRetrain (c : Col) (s : State) : State :=
  let k := getCol s c
  if colLive k then linkRetrain c 0xC s
  else if k.state == .down && mayTrain s c then beginTraining c s
  else s
/-- COL_CTL.PORT_RESET written (R392, R396). -/
def colReset (c : Col) (s : State) : State :=
  if (getCol s c).state == .off || !(colMask s).getLsbD c.val then s
  else
    let s := modCol c (fun k => { k with widthLimit := false, mismatches := [] }) (enterDown c 4 s)
    if mayTrain s c then beginTraining c s else s
/-- COL_CTL.DISABLE set (R392). -/
def colDisable (c : Col) (s : State) : State :=
  if (getCol s c).state == .off then s else enterDown c 3 (modCol c (fun k => { k with disable := true }) s)

end Sys2Proof.Machine
end

