-- ==== Sys2Proof/Machine/Messages.lean ====
section
/-! DEFINITION. Messages received on a col (chapter 16, R400..R409; R326, R338, R427): malformed ones, forwarding, signals, ledge
accesses from other dies, summit messages, and the responses to this die's own requests. -/
namespace Sys2Proof.Machine

/-! ## Arrival (R391, R405) -/

/-- The endpoint code a message is for is this die's, or the link partner's. -/
def forMe (s : State) (h : MsgHdr) : Bool := h.dst == 0xF || (s.disc.idValid && h.dst == s.disc.id)
/-- A malformed message: discarded, counted, and a request with a valid SRC answered ABSENT. -/
def malformedDrop (c : Col) (m : Msg) (s : State) : State :=
  let s := returnCredit c m (noteMalformed c s)
  if badCode m.hdr.src || (m.hdr.src == 0xF && !(m.hdr.dst == 0xF && allowsPartner m.body)) then s else absentReply c m s
/-- A message reaches a col: before HELLO it ends the attempt; a malformed one is discarded; its credits go back once it has left the
ingress, at which a register request may be held (R398, R408). -/
def arrive (c : Col) (m : Msg) (f : State → State) (s : State) : State :=
  let k := getCol s c
  if !colHears k then s
  else
    let s := takeCells c m.hdr.joins (msgCells m) (match msgVc m with | some v => vcClass v | none => 6) (modCol c (fun k => { k with partialIn := false }) s)
    if !colLive k then enterDown c 0xB s
    else if malformed k.state m then malformedDrop c m s
    else
      let s := f s
      if colLive (getCol s c) && (getCol s c).regHeld.length ≤ k.regHeld.length then returnCredit c m s else s

/-! ## Forwarding (R427) -/

/-- Target logical core, or MPA bits [11:8] (R426). -/
def bodyMix : MsgBody → Nat
  | .lread a => a.lcore.toNat
  | .lwrite a => a.lcore.toNat
  | .mread b => b.toNat % 16
  | .mwrite a => a.block.toNat % 16
  | _ => 0
/-- A message forwarded from its ingress col to its egress col; one without a col is answered at its ingress as R393 gives. -/
def forward (c : Col) (m : Msg) (s : State) : State :=
  let s := match absentBody m.body with
    | none =>
      -- a response ends the request that was forwarded the other way
      modCol c (fun k => { k with forwarded := k.forwarded.eraseP (fun r => r.hdr.tag == m.hdr.tag && r.hdr.src == m.hdr.dst) }) s
    | some _ => s
  match (egressCol s m.hdr.dst ((bodyVc m.body).getD 0) (colRouter c) (bodyMix m.body)).filter (fun d => !crossesFailed s (colRouter c) (colRouter d)) with
  | some d =>
    let s := if (absentBody m.body).isSome then modCol d (fun k => { k with forwarded := k.forwarded ++ [m] }) s else s
    toCol d ⟨m, none, dueOf s m.hdr, none, some (colRouter c, bodyMix m.body), 0, false, none, none⟩ (colRouter c) s
  | none => forwardDrop c m s
/-- FORWARD_MESSAGE (R427): a message for another endpoint. A message of a reserved TYPE or OP, which has no command of its own, comes by
this one whatever its DST, and is malformed. -/
def execForwardMessage (c : Col) (msg : Msg) (s : State) : Host.Outcome State Fault Refusal :=
  whenAwake s (fun s =>
    match msg.body with
    | .other _ | .disc (.reserved _) => arrive c msg id s
    | .disc _ | .summit _ => s
    | _ => if (bodyVc msg.body).isNone || forMe s msg.hdr then s else arrive c msg (forward c msg) s)
/-- A message that is not DISC or SUMMIT: for this die, or forwarded. -/
def receive (c : Col) (h : MsgHdr) (b : MsgBody) (f : State → State) (s : State) : Host.Outcome State Fault Refusal :=
  whenAwake s (arrive c ⟨h, b⟩ (fun s => if forMe s h then f s else forward c ⟨h, b⟩ s))

/-! ## Signals and accesses from other dies (R326, R328, R380, R403) -/

/-- A CSIG message for a core of this die. -/
def csigIn (c : Col) (h : MsgHdr) (a : CsigMsgArgs) (s : State) : State :=
  match physCore s a.lclus.toNat a.lcore.toNat with
  | none => s
  | some t => if crossesFailed s (colRouter c) t.clus.val then s else signalCore t a.k h.src none h.job (ridgeMove (colRouter c) t.clus.val 0 none 1 s)
/-- CSIG_MSG (R326). -/
def execCsigMsg (c : Col) (h : MsgHdr) (a : CsigMsgArgs) (s : State) : Host.Outcome State Fault Refusal := receive c h (.csig a) (csigIn c h a) s
/-- A request that the ingress answers as absent (R380). -/
def ingressAbsent (c : Col) (h : MsgHdr) (b : MsgBody) (s : State) : State :=
  match absentBody b with
  | some r => replyTo c h r 1 (dueOf s h) s
  | none => s
/-- An LREAD for a core of this die. -/
def lreadIn (c : Col) (h : MsgHdr) (a : LreadArgs) (s : State) : State :=
  match (physCore s a.lclus.toNat a.lcore.toNat).filter (fun t => !crossesFailed s (colRouter c) t.clus.val) with
  | none => ingressAbsent c h (.lread a) s
  | some t =>
    netPut (colRouter c) t.clus.val portCol 1 (dueOf s h)
      (.read ⟨t, a.off.toNat, a.cnt1.toNat + 1, a.shape, a.stride, none, .col h.src h.tag (dueOf s h), h.job, h.host⟩) s
/-- LREAD (R403). -/
def execLread (c : Col) (h : MsgHdr) (a : LreadArgs) (s : State) : Host.Outcome State Fault Refusal := receive c h (.lread a) (lreadIn c h a) s
/-- MREAD (R403): this die holds no module memory, so a request for it is absent (DEDUCED, log entry 48). -/
def execMread (c : Col) (h : MsgHdr) (block : BitVec 32) (s : State) : Host.Outcome State Fault Refusal :=
  receive c h (.mread block) (ingressAbsent c h (.mread block)) s
/-- An LWRITE for a core of this die. -/
def lwriteIn (c : Col) (h : MsgHdr) (a : LwriteArgs) (s : State) : State :=
  match (physCore s a.lclus.toNat a.lcore.toNat).filter (fun t => !crossesFailed s (colRouter c) t.clus.val) with
  | none => ingressAbsent c h (.lwrite a) s
  | some t =>
    let n := a.cnt1.toNat + 1
    let idx := (List.range n).filter (fun i => match a.mask with | some k => k.getD i false | none => true)
    let bytes := idx.foldl (fun m i => memSet m (a.off.toNat + i) (a.data.getD i 0)) ([] : Mem)
    netPut (colRouter c) t.clus.val portCol (packetFlits n) (dueOf s h)
      (.land ⟨t, bytes, idx.map (a.off.toNat + ·), h.src, none, h.job, h.host, if a.sig && !h.host then some a.k else none,
        .col h.src h.tag (dueOf s h), false⟩) s
/-- LWRITE (R403). -/
def execLwrite (c : Col) (h : MsgHdr) (a : LwriteArgs) (s : State) : Host.Outcome State Fault Refusal := receive c h (.lwrite a) (lwriteIn c h a) s
/-- MWRITE (R403), as MREAD. -/
def execMwrite (c : Col) (h : MsgHdr) (a : MwriteArgs) (s : State) : Host.Outcome State Fault Refusal :=
  receive c h (.mwrite a) (ingressAbsent c h (.mwrite a)) s
/-- WALK_RD (R295), as MREAD. -/
def execWalkRd (c : Col) (h : MsgHdr) (entry : BitVec 37) (s : State) : Host.Outcome State Fault Refusal :=
  receive c h (.walkRd entry) (ingressAbsent c h (.walkRd entry)) s
/-- TELEM (R461): one addressed to this die is malformed; its credits are returned. -/
def execTelemMessage (c : Col) (h : MsgHdr) (a : TelemArgs) (s : State) : Host.Outcome State Fault Refusal :=
  receive c h (.telem a) (noteMalformed c) s

/-! ## Summit messages (R338, R403) -/

/-- The massif whose JOB_TAG equals JOB and whose tree names the col. -/
def summitMassif (s : State) (c : Col) (job : BitVec 32) : Option Massif :=
  allMassifs.find? (fun m =>
    let k := getMassif s m
    massifHolds k && k.state != .tearingDown && k.jobTag == job && treeNames k.summit c)
/-- A SUMMIT message that no massif takes: a massif whose tree names the col finds that JOB is not its JOB_TAG, and one whose JOB_TAG is JOB
finds the col on neither side of its tree (R338). -/
def summitUnmatched (c : Col) (job : BitVec 32) (s : State) : State :=
  allMassifs.foldl (fun s m =>
    let k := getMassif s m
    if massifHolds k && k.state != .tearingDown && (k.jobTag == job) != treeNames k.summit c then genErr m s else s) s
/-- SUMMIT at its die. -/
def summitIn (c : Col) (h : MsgHdr) (a : SummitArgs) (s : State) : State :=
  if failedUnit s 4 || crossesFailed s (colRouter c) diePort then s else
  match summitMassif s c h.job with
  | none => summitUnmatched c h.job (modCol c (fun k => { k with summitUnmatched := satInc 16 k.summitUnmatched }) s)
  | some m => summitReceive m c a (ridgeDie (colRouter c) 0 none 1 s)
/-- SUMMIT (R338): it travels one link, so it is applied here whatever its DST. -/
def execSummit (c : Col) (h : MsgHdr) (a : SummitArgs) (s : State) : Host.Outcome State Fault Refusal :=
  whenAwake s (arrive c ⟨h, .summit a⟩ (summitIn c h a))

/-! ## Responses (R381, R402, R406) -/

/-- What waits for a response fits its type. -/
def fits (b : MsgBody) (w : Waiting) : Bool :=
  match b, w with
  | .rdata _, .read _ _ _ _ _ _ => true
  | .rdata _, .load _ _ _ => true
  | .wack, .write _ _ _ _ => true
  | .walkRsp _, .walk _ => true
  | .regRsp _, .reg => true
  | _, _ => false
/-- The col that holds a tag for such a response: the arrival col, else the lowest. -/
def owing (s : State) (c : Col) (tag : Nat) (b : MsgBody) : Option (Col × Waiting) :=
  (c :: allCols).findSome? (fun d => match smGet none (getCol s d).owed tag with
    | some w => if fits b w then some (d, w) else none
    | none => none)
/-- The core that waits for a response; another waiter is a block of the die-level port. -/
def waitCore : Waiting → Option CoreId
  | .read c _ _ _ _ _ => some c
  | .write ack _ _ _ => (ackCore ack).map (·.1)
  | _ => none
/-- The router at which whoever waits is attached. -/
def waitRouter (w : Waiting) : Nat := match waitCore w with | some c => c.clus.val | none => diePort
/-- A response for this die: status 5..7 counts as malformed and acts as ABSENT (R406). -/
def responseIn (c : Col) (h : MsgHdr) (b : MsgBody) (bytes : List Byte) (entry : BitVec 64) (s : State) : State :=
  match owing s c h.tag.toNat b with
  | none => modCol c (fun k => { k with unknownTag := satInc 16 k.unknownTag }) s
  | some (d, w) =>
    let r := waitRouter w
    let lost := crossesFailed s (colRouter c) r
    let s := ridgePass (colRouter c) r (portOf (waitCore w).isSome r) (bodyClass b) none (packetFlits (bodyBytes b)) s
    let s := modCol d (fun k => { k with owed := smSet none k.owed h.tag.toNat none }) s
    let s := pumpAll d s
    if lost then s
    else if 5 ≤ h.status.toNat then answer w 1 [] 0 (noteMalformed c s) else answer w h.status bytes entry s
/-- RDATA (R403). -/
def execRdata (c : Col) (h : MsgHdr) (bytes : List Byte) (s : State) : Host.Outcome State Fault Refusal :=
  receive c h (.rdata bytes) (responseIn c h (.rdata bytes) bytes 0) s
/-- WACK (R290). -/
def execWack (c : Col) (h : MsgHdr) (s : State) : Host.Outcome State Fault Refusal := receive c h .wack (responseIn c h .wack [] 0) s
/-- WALK_RSP (R294). -/
def execWalkRsp (c : Col) (h : MsgHdr) (entry : BitVec 64) (s : State) : Host.Outcome State Fault Refusal :=
  receive c h (.walkRsp entry) (responseIn c h (.walkRsp entry) [] entry) s
/-- REG_RSP (R403). -/
def execRegRsp (c : Col) (h : MsgHdr) (data : BitVec 64) (s : State) : Host.Outcome State Fault Refusal :=
  receive c h (.regRsp data) (responseIn c h (.regRsp data) [] 0) s

end Sys2Proof.Machine
end

