-- ==== Sys2Proof/Machine/Discovery.lean ====
section
/-! DEFINITION. The clock tree and module discovery (chapter 17, R411..R430): offers and the choice of a clock col, holdover, POSITION,
REPORT and END, the crown die's assignment and routes, alignment, and discovery failures. -/
namespace Sys2Proof.Machine

/-! ## Failures (R416, R423, R465, R507) -/

/-- The col toward the parent, when one has been chosen. -/
def parentCol (s : State) : Option Col := if s.disc.crown then none else s.disc.clockCol
/-- The partner on a col is a die whose clock col faces it (R418). -/
def isChild (k : ColSt) : Bool := match k.position with | some p => colLive k && p.child && p.kind == 0 | none => false
/-- Cols toward children; cols toward hubs. -/
def childCols (s : State) : List Col := allCols.filter (fun c => isChild (getCol s c))
def hubCols (s : State) : List Col := allCols.filter (fun c => colLive (getCol s c) && (match (getCol s c).position with | some p => p.hub | none => false))
/-- A DISC operation sent to every child. -/
def toChildren (op : DiscOp) (s : State) : State := (childCols s).foldl (fun s c => sendDisc c op s) s
/-- A result is a discovery failure (R423). -/
def discFailed (s : State) : Bool := 3 ≤ s.disc.result.toNat
/-- Bring-up stops in FAILED, and no cluster stays powered (R465). -/
def bringFail (code : BitVec 4) (s : State) : State :=
  let s := if allClus.any (fun p => (getClus s p).repair.powered) then gateAll s else s
  fatalError 1 0 63 { s with bring := { s.bring with fail := code } }
/-- A discovery failure is taken, and told to parent and children but for the col it came from (R423). -/
def discFail (code : BitVec 4) (fromCol : Option Col) (s : State) : State :=
  if discFailed s then s
  else
    let s := { s with disc := { s.disc with result := code } }
    let cols := (parentCol s).toList.filter (fun c => colLive (getCol s c)) ++ childCols s
    let s := (cols.filter (fun c => some c != fromCol)).foldl (fun s c => sendDisc c (.fail code) s) s
    if bringingUp s then bringFail 4 s else fatalError 2 0 63 s

/-! ## The clock tree (R411..R417) -/

/-- A col may carry sideband messages (R413, R544). -/
def colOn (s : State) (c : Col) : Bool := (getCol s c).state != .off && !colsIdle s
/-- A sideband message sent (R415). -/
def sendSide (c : Col) (m : ClockMsg) (s : State) : State := modCol c (fun k => { k with side := k.side ++ [m] }) s
/-- The hop count this die offers (R413). -/
def offeredHop (s : State) : BitVec 4 :=
  if !s.tb.locked || s.disc.holdover then 15
  else if s.disc.crown then 0
  else if s.disc.hop.toNat + 1 < 15 then s.disc.hop + 1 else 15
/-- CLOCK_OFFER_SEND (R413). -/
def execClockOfferSend (s : State) : Host.Outcome State Fault Refusal :=
  whenAwake s (fun s => (allCols.filter (colOn s)).foldl (fun s c => sendSide c (.offer (offeredHop s) s.disc.crownSerial) s) s)
/-- The best col among the offers held: least h, then lowest number (R414). -/
def bestOffer (s : State) : Option (Col × BitVec 4 × BitVec 56) :=
  allCols.foldl (fun best c =>
    match (getCol s c).offer with
    | some (h, sn) =>
      if !colOn s c || h == 15 then best
      else match best with
        | some (_, g, _) => if h.toNat < g.toNat then some (c, h, sn) else best
        | none => some (c, h, sn)
    | none => best) none
/-- The die enters holdover (R417, R424). -/
def enterHoldover (s : State) : State :=
  { s with
    disc := { s.disc with holdover := true, hop := 15, t1 := none, exchanges := 0, best := none }
    tb := { s.tb with locked := false, aligned := false, lockLost := true } }
/-- The clock col c no longer gives a clock: a locked die enters holdover; one that had chosen c and not yet locked to it chooses again, in
holdover by HOLDOVER_RECHOOSE, before its first lock among the offers held or at the next (R414, R417; DEDUCED, log entry 78). -/
def clockGone (c : Col) (s : State) : State :=
  let s := modCol c (fun k => { k with offer := none }) s
  if s.tb.locked then enterHoldover s
  else if s.disc.hop == 15 then s
  else
    let s := { s with disc := { s.disc with hop := 15 } }
    if s.disc.holdover then s else { s with disc := { s.disc with oldCol := some c, window := (bestOffer s).isSome } }
/-- CLOCK_FAIL (R417): the clock of the clock col fails. -/
def clockFail (s : State) : State :=
  match parentCol s with
  | some c => clockGone c s
  | none => s
/-- CLOCK_FAIL (R417). -/
def execClockFail (s : State) : Host.Outcome State Fault Refusal := whenAwake s clockFail
/-- Two offers carry different crown serials, or a crown candidate receives one (R416). -/
def twoCrowns (s : State) (sn : BitVec 56) : Bool :=
  s.disc.crown || (s.disc.hop != 15 && s.disc.crownSerial != sn) ||
    allCols.any (fun c => match (getCol s c).offer with | some (h, t) => h != 15 && t != sn | none => false)
/-- An offer is awaited: no clock col has been chosen, or a new one is to be (R414, R417). -/
def awaitsOffer (s : State) : Bool := !s.disc.crown && !s.tb.locked && !s.disc.window && (s.disc.clockCol.isNone || s.disc.oldCol.isSome)
/-- An offer received (R413..R417). -/
def clockOffer (c : Col) (h : BitVec 4) (sn : BitVec 56) (s : State) : State :=
  if h == 15 then
    if parentCol s == some c then clockGone c s else modCol c (fun k => { k with offer := none }) s
  else
    let two := twoCrowns s sn
    let s := modCol c (fun k => { k with offer := some (h, sn) }) s
    if two then discFail 4 none s
    else if awaitsOffer s then { s with disc := { s.disc with window := true } }
    else s
/-- CLOCK_OFFER (R414, R415): one of another vendor is ignored. -/
def execClockOffer (c : Col) (vendor : BitVec 16) (h : BitVec 4) (serial : BitVec 56) (s : State) : Host.Outcome State Fault Refusal :=
  whenAwake s (fun s => if vendor != 0x1D7A || !colOn s c then s else clockOffer c h serial s)
/-- CLOCK_COL_CHOICE (R414, R415): the window closes. -/
def clockChoice (s : State) : State :=
  if !s.disc.window then s
  else
    let s := { s with disc := { s.disc with window := false } }
    match bestOffer s with
    | none => s
    | some (c, h, sn) =>
      let s := match s.disc.oldCol with
        | some d => if d = c then s else sendSide d .release s
        | none => s
      sendSide c .req { s with disc := { s.disc with
        clockCol := some c, hop := h, crownSerial := sn, depth := BitVec.ofNat 3 (h.toNat + 1), oldCol := none } }
/-- CLOCK_COL_CHOICE (R414). -/
def execClockColChoice (s : State) : Host.Outcome State Fault Refusal := whenAwake s clockChoice
/-- CLOCK_REQ (R414, R415): the partner takes its clock from this die. -/
def execClockReq (c : Col) (vendor : BitVec 16) (zero : Bool) (s : State) : Host.Outcome State Fault Refusal :=
  whenAwake s (fun s =>
    if vendor != 0x1D7A || !zero || !colOn s c then s
    else modCol c (fun k => { k with reqHeld := true, drivesRck := s.disc.clockCol != some c }) s)
/-- CLOCK_RELEASE (R415). -/
def execClockRelease (c : Col) (vendor : BitVec 16) (zero : Bool) (s : State) : Host.Outcome State Fault Refusal :=
  whenAwake s (fun s => if vendor != 0x1D7A || !zero then s else modCol c (fun k => { k with reqHeld := false, drivesRck := false }) s)
/-- HOLDOVER_RECHOOSE (R417): a new clock col is chosen by R414. -/
def execHoldoverRechoose (s : State) : Host.Outcome State Fault Refusal :=
  whenAwake s (fun s =>
    if s.disc.holdover && s.disc.oldCol.isNone && !s.tb.locked && s.disc.hop == 15 then
      let s := { s with disc := { s.disc with oldCol := s.disc.clockCol } }
      if (bestOffer s).isSome then { s with disc := { s.disc with window := true } } else s
    else s)
/-- CLOCK_TIMEOUT (R416, R417): 10 ms without an offer. -/
def execClockTimeout (s : State) : Host.Outcome State Fault Refusal :=
  whenAwake s (fun s =>
    if s.disc.crown || s.tb.locked || s.disc.window || (bestOffer s).isSome then s
    else if s.disc.holdover then discFail 7 none s
    else if s.disc.clockCol.isNone then discFail 3 none s
    else s)

/-! ## Alignment (R424) -/

/-- An ALIGN_REQ sent; t1 is taken as it departs (`alignStamp`). -/
def alignSend (s : State) : State :=
  match parentCol s with
  | some c => sendDisc c (.alignReq s.tb.count) { s with disc := { s.disc with t1 := none } }
  | none => s
/-- Alignment begins, toward a parent that can be reached, once the die is locked: without lock its count holds (R46). -/
def alignBegin (s : State) : State :=
  if s.disc.crown || !s.tb.locked then s else alignSend { s with disc := { s.disc with exchanges := 0, best := none } }
/-- DONE passed on to children and hub partners, once (R422). -/
def donePass (s : State) : State :=
  if s.disc.passed then s
  else (hubCols s).foldl (fun s c => sendDisc c .done s) (toChildren .done { s with disc := { s.disc with passed := true } })
/-- Half of a doubled offset, to nearest; the rule states no direction for a half (log entry 49). -/
def halfNearest (d : Int) : Int := if d % 2 = 0 then d / 2 else if Config.alignTieUp d then d / 2 + 1 else d / 2
/-- The kept exchange is applied. -/
def alignApply (s : State) : State :=
  match s.disc.best with
  | none => s
  | some (rtt, off2) =>
    let o := halfNearest off2
    let sat : Int := if o > 2147483647 then 2147483647 else if o < -2147483648 then -2147483648 else o
    let s := { s with
      tb := { s.tb with count := s.tb.count + BitVec.ofInt 64 o, aligned := true }
      disc := { s.disc with rtt := BitVec.ofInt 32 rtt, offset := BitVec.ofInt 32 sat, t1 := none } }
    donePass s
/-- ALIGN_RSP: one exchange made. -/
def alignRspIn (c : Col) (t2 t3 : BitVec 64) (s : State) : State :=
  match s.disc.t1 with
  | none => s
  | some t1 =>
    if parentCol s != some c || !s.tb.locked then s
    else
      let t4 := s.tb.count
      let rtt := (t4 - t1).toInt - (t3 - t2).toInt
      let off2 := (t2 - t1).toInt + (t3 - t4).toInt
      let s := { s with disc := { s.disc with
        t1 := none, exchanges := s.disc.exchanges + 1
        best := match s.disc.best with
          | none => some (rtt, off2)
          | some (r, o) => if rtt < r then some (rtt, off2) else some (r, o) } }
      if s.disc.exchanges < 8 then alignSend s else alignApply s
/-- REFERENCE_LOCK (R411, R414, R417): the die locks to REFCLK or to the clock of its clock col. After holdover it realigns, or, where DONE
came without lock, aligns for the first time. -/
def referenceLock (s : State) : State :=
  if s.tb.locked || s.disc.oldCol.isSome || s.disc.window then s
  else if s.disc.crown then
    { s with
      tb := { s.tb with locked := true, aligned := true }
      disc := { s.disc with hop := 0, crownSerial := s.fuse.serial, holdover := false } }
  else if s.disc.clockCol.isNone || s.disc.hop == 15 then s
  else
    let s := { s with tb := { s.tb with locked := true }, disc := { s.disc with holdover := false } }
    if s.disc.done then alignBegin s else s
/-- REFERENCE_LOCK (R414). -/
def execReferenceLock (s : State) : Host.Outcome State Fault Refusal := whenAwake s referenceLock

/-! ## Identifiers and routes (R421, R425, R429) -/

/-- Index of a die by serial in a list of reports. -/
def dieIndex (ds : List ReportArgs) (sn : BitVec 56) : Option Nat := ds.findIdx? (fun r => r.serial == sn)
/-- The port of a report's clock col. -/
def clockPort (r : ReportArgs) : ReportPort := r.ports.get r.clockCol.toFin
/-- Place of a die among those of its depth: parent's ID, then the parent's col. -/
def rankKey (ranked : List ReportArgs) (r : ReportArgs) : Nat := (dieIndex ranked (clockPort r).serial).getD 15 * 16 + (clockPort r).port.toNat
/-- A report put in rank order. -/
def rankInsert (ranked : List ReportArgs) (r : ReportArgs) : List ReportArgs → List ReportArgs
  | [] => [r]
  | q :: l => if rankKey ranked r < rankKey ranked q then r :: q :: l else q :: rankInsert ranked r l
/-- The dies in ID order (R421). -/
def rankDies (crown : BitVec 56) (rs : List ReportArgs) : List ReportArgs :=
  (List.range 8).foldl (fun ranked d =>
    let here := rs.filter (fun r => if d = 0 then r.serial == crown else r.serial != crown && r.depth.toNat == d)
    ranked ++ here.foldl (fun l r => rankInsert ranked r l) []) []

/-- HUBNUM of a hub: stated in its POSITION to this die; what tells the crown die that of a hub on another die is not stated (log entry 50). -/
def hubNumber (s : State) (sn : BitVec 56) : Nat :=
  match allCols.findSome? (fun c => match (getCol s c).position with | some p => if p.hub && p.serial == sn then some p.hubNum else none | none => none) with
  | some n => n.toNat % 4
  | none => (Config.hubNumber sn).toNat
/-- Serials of the hubs that the reports name. -/
def hubSerials (rs : List ReportArgs) : List (BitVec 56) :=
  (rs.flatMap (fun r => (r.ports.toList.filter (fun p => p.valid && p.hub && (p.up || p.mgmt))).map (·.serial))).eraseDups
/-- The node behind a port: dies 0..7, hubs 8..11. -/
def portNode (s : State) (ds : List ReportArgs) (p : ReportPort) : Option Nat :=
  if p.hub then some (8 + hubNumber s p.serial) else dieIndex ds p.serial
/-- Neighbours of a die over UP ports, or over MGMT_ONLY ports as well, by col. -/
def neighbours (s : State) (ds : List ReportArgs) (mgmt : Bool) (i : Nat) : List (Nat × Nat) :=
  match ds[i]? with
  | none => []
  | some r => (List.finRange 16).filterMap (fun c =>
      let p := r.ports.get c
      if p.valid && (p.up || (mgmt && p.mgmt)) then (portNode s ds p).map (fun n => (c.val, n)) else none)
/-- Distances to a node, 99 for none: hubs pass nothing on, since none of their ports is in a REPORT (DEDUCED, log entry 51). -/
def distTo (s : State) (ds : List ReportArgs) (mgmt : Bool) (d : Nat) : List Nat :=
  (List.range 8).foldl (fun l _ => (List.range 12).map (fun i =>
    if i = d then 0
    else (neighbours s ds mgmt i).foldl (fun a e => min a (l.getD e.2 99 + 1)) (l.getD i 99))) ((List.range 12).map (fun i => if i = d then 0 else 99))
/-- Cols of die i toward d over strictly nearer next hops: those that reach it directly first; with each the distance left. -/
def nextCols (s : State) (ds : List ReportArgs) (mgmt : Bool) (i d : Nat) : List (Nat × Nat) :=
  let l := distTo s ds mgmt d
  let own := l.getD i 99
  let es := (neighbours s ds mgmt i).filterMap (fun e => let n := l.getD e.2 99; if n < own then some (e.1, n) else none)
  es.filter (fun e => e.2 = 0) ++ es.filter (fun e => e.2 != 0)
/-- DISC_ROUTEd of die i (R425). -/
def routeFor (s : State) (ds : List ReportArgs) (i d : Nat) : RouteEntry :=
  if i = d then ⟨0, 0, 0, 0, false⟩
  else
    let es := (nextCols s ds false i d).take 4
    let least := es.foldl (fun a e => min a e.2) 99
    let cols := es.foldr (fun e a => a * 16 + e.1) 0
    match (nextCols s ds true i d).head? with
    | some m => ⟨BitVec.ofNat 16 cols, BitVec.ofNat 3 es.length, BitVec.ofNat 3 (es.takeWhile (fun e => e.2 = least)).length, BitVec.ofNat 4 m.1, true⟩
    | none => ⟨BitVec.ofNat 16 cols, BitVec.ofNat 3 es.length, BitVec.ofNat 3 (es.takeWhile (fun e => e.2 = least)).length, 0, false⟩
/-- Routes of die i. -/
def routesFor (s : State) (ds : List ReportArgs) (i : Nat) : Vector RouteEntry 12 := Vector.ofFn (fun d => routeFor s ds i d.val)
/-- Two hubs with one HUBNUM. -/
def hubConflict (s : State) (hs : List (BitVec 56)) : Bool := hs.any (fun a => hs.any (fun b => a != b && hubNumber s a == hubNumber s b))

/-! ## Reports and assignment (R418..R422, R430) -/

/-- This die's REPORT: its ports as they stand. -/
def ownReport (s : State) : ReportArgs :=
  ⟨s.fuse.serial, 1, s.fuse.stepping, s.fuse.features.setWidth 32,
    BitVec.ofNat 4 ((s.disc.clockCol.map (·.val)).getD 15), s.disc.depth, Vector.ofFn (fun c =>
    let k := getCol s c
    match k.position with
    | some p => if colLive k then ⟨p.serial, p.port, p.hub, k.state == .up, k.state == .mgmtOnly, true⟩ else ⟨0, 0, false, false, false, false⟩
    | none => ⟨0, 0, false, false, false, false⟩)⟩
/-- The MAJOR of a die by serial, where this die has a REPORT or a POSITION of it. -/
def knownMajor (s : State) (sn : BitVec 56) : Option (BitVec 8) :=
  match s.disc.reports.find? (fun r => r.serial == sn) with
  | some r => some r.major
  | none => allCols.findSome? (fun c => match (getCol s c).position with
      | some p => if p.kind == 0 && p.serial == sn then some p.major else none
      | none => none)
/-- INCOMPAT bits that this die determines: those of `bits`, set or clear (R430). -/
def incompatSet (bits : BitVec 8) (bad : Bool) (s : State) : State :=
  { s with disc := { s.disc with
    incompat := (s.disc.incompat &&& ~~~bits) ||| (if bad then bits else 0), incompatKnown := s.disc.incompatKnown ||| bits } }
/-- An ASSIGN tells which ID a die has: its INCOMPAT bit follows when its MAJOR is known (R430). -/
def incompatNote (a : AssignArgs) (major : BitVec 8) (s : State) : State := incompatSet (1#8 <<< a.id.toNat) (major != a.major) s
/-- An ASSIGN for another die. -/
def assignOther (a : AssignArgs) (s : State) : State :=
  match knownMajor s a.serial with
  | some v => incompatNote a v s
  | none => s
/-- IDs that no die of a module of n dies has, and the crown die's, whose MAJOR is the module's (R421, R429). -/
def clearIds (n : BitVec 4) : BitVec 8 := ~~~((1#9 <<< n.toNat) - 1).setWidth 8 ||| 1
/-- An ASSIGN applied by the die it names (R422, R429, R430). -/
def assignApply (a : AssignArgs) (s : State) : State :=
  let s := incompatNote a 1 (incompatSet (clearIds a.dies) false s)
  { s with disc := { s.disc with
    id := a.id, idValid := true, dies := a.dies, hubs := a.hubs, moduleMajor := a.major, negotiated := a.mask, assigned := true
    -- how a die learns the MAJOR of one of which it holds no REPORT, no POSITION and no route is not stated (log entry 52)
    incompat := (Config.moduleIncompat s.fuse.serial &&& ~~~s.disc.incompatKnown) ||| (s.disc.incompat &&& s.disc.incompatKnown)
    minStepping := Config.moduleMinStepping s.fuse.serial } }
/-- Discovery is complete at this die (R422). -/
def discComplete (s : State) : State :=
  { s with disc := { s.disc with
    done := true, result := if discFailed s then s.disc.result else if s.disc.moduleMajor == 1 then 1 else 2 } }
/-- The crown die assigns IDs and routes, and ends discovery (R421, R422). -/
def crownAssign (s : State) : State :=
  let rs := s.disc.reports
  let hs := hubSerials rs
  if rs.length > 8 then discFail 5 none s
  else if hubConflict s hs then discFail 6 none s
  else
    let ds := rankDies s.fuse.serial rs
    let peers := rs.filter (fun r => r.major == 1)
    let mask := peers.foldl (fun a r => a &&& r.features) (BitVec.allOnes 32)
    let hubs : BitVec 4 := hs.foldl (fun a h => a ||| (1#4 <<< hubNumber s h)) 0
    let bad : BitVec 8 := (List.range 8).foldl (fun a i => match ds[i]? with
      | some r => if r.major == 1 then a else a ||| (1#8 <<< i)
      | none => a) 0
    let low := peers.foldl (fun a r => min a r.stepping.toNat) 255
    let n := BitVec.ofNat 4 ds.length
    let s := (List.range ds.length).foldl (fun s i =>
      match ds[i]? with
      | none => s
      | some r =>
        let a : AssignArgs := ⟨r.serial, BitVec.ofNat 4 i, n, 1, mask, hubs⟩
        let e := routesFor s ds i
        if i = 0 then { assignApply a s with disc := { (assignApply a s).disc with routes := e, incompat := bad, minStepping := BitVec.ofNat 8 low } }
        else toChildren (.routes (BitVec.ofNat 4 i) e) (toChildren (.assign a) s)) s
    donePass (discComplete s)
/-- What discovery can do next: this die's REPORT, its END, or the crown die's assignment (R420, R421). -/
def discPump (s : State) : State :=
  let live := allCols.filter (fun c => colLive (getCol s c))
  let s :=
    if s.disc.started && !s.disc.sentReport && !discFailed s && live.all (fun c => (getCol s c).position.isSome) then
      let r := ownReport s
      let s := { s with disc := { s.disc with sentReport := true } }
      match parentCol s with
      | some c => sendDisc c (.report r) s
      | none => { s with disc := { s.disc with reports := s.disc.reports ++ [r] } }
    else s
  if s.disc.sentReport && !s.disc.sentEnd && !discFailed s && (childCols s).all (fun c => (getCol s c).childEnd.isSome) then
    let n := (childCols s).foldl (fun a c => a + ((getCol s c).childEnd.getD 0).toNat) 1
    let s := { s with disc := { s.disc with sentEnd := true } }
    match parentCol s with
    | some c => sendDisc c (.end_ (BitVec.ofNat 8 n)) s
    | none => if s.disc.crown then crownAssign s else s
  else s
/-- DISCOVERY_START (R418): every col has finished its first attempt. -/
def execDiscoveryStart (s : State) : Host.Outcome State Fault Refusal :=
  whenAwake s (fun s =>
    if s.disc.started || !s.tb.locked || allCols.any (fun c => (getCol s c).state == .training) then s
    else discPump { s with disc := { s.disc with started := true } })
/-- A DISC message is taken where it arrives, whatever its DST (R418). -/
def discIn (c : Col) (h : MsgHdr) (op : DiscOp) (f : State → State) (s : State) : Host.Outcome State Fault Refusal :=
  whenAwake s (arrive c ⟨h, .disc op⟩ f)
/-- POSITION (R420). -/
def execPosition (c : Col) (h : MsgHdr) (a : PositionArgs) (s : State) : Host.Outcome State Fault Refusal :=
  discIn c h (.position a) (fun s => discPump (modCol c (fun k => { k with position := some a }) s)) s
/-- REPORT (R420): kept, and relayed to the parent at once. -/
def execReport (c : Col) (h : MsgHdr) (a : ReportArgs) (s : State) : Host.Outcome State Fault Refusal :=
  discIn c h (.report a) (fun s =>
    let s := { s with disc := { s.disc with reports := s.disc.reports ++ [a] } }
    match parentCol s with
    | some p => sendDisc p (.report a) s
    | none => s) s
/-- END (R421). -/
def execEnd (c : Col) (h : MsgHdr) (n : BitVec 8) (s : State) : Host.Outcome State Fault Refusal :=
  discIn c h (.end_ n) (fun s => discPump (modCol c (fun k => { k with childEnd := some n }) s)) s
/-- ASSIGN (R422): applied by the die it names, relayed by any other. -/
def execAssign (c : Col) (h : MsgHdr) (a : AssignArgs) (s : State) : Host.Outcome State Fault Refusal :=
  discIn c h (.assign a) (fun s => if a.serial == s.fuse.serial then assignApply a s else toChildren (.assign a) (assignOther a s)) s
/-- Dies to which a table has a route other than MCOL: ports are UP only between dies of one MAJOR (R391, R425), so theirs is this die's. -/
def routedIds (e : Vector RouteEntry 12) : BitVec 8 :=
  (List.range 8).foldl (fun b i => if (e.toList.getD i ⟨0, 0, 0, 0, false⟩).count == 0 then b else b ||| (1#8 <<< i)) 0
/-- ROUTES (R425). -/
def execRoutes (c : Col) (h : MsgHdr) (id : BitVec 4) (e : Vector RouteEntry 12) (s : State) : Host.Outcome State Fault Refusal :=
  discIn c h (.routes id e) (fun s =>
    if s.disc.assigned && id == s.disc.id then
      incompatSet (routedIds e) (s.disc.moduleMajor != 1) { s with disc := { s.disc with routes := e } }
    else toChildren (.routes id e) s) s
/-- ALIGN_REQ (R424): answered with the stamps of its arrival and of the answer's departure. -/
def execAlignReq (c : Col) (h : MsgHdr) (t1 : BitVec 64) (s : State) : Host.Outcome State Fault Refusal :=
  discIn c h (.alignReq t1) (fun s => sendDisc c (.alignRsp s.tb.count s.tb.count) s) s
/-- ALIGN_RSP (R424). -/
def execAlignRsp (c : Col) (h : MsgHdr) (t2 t3 : BitVec 64) (s : State) : Host.Outcome State Fault Refusal :=
  discIn c h (.alignRsp t2 t3) (alignRspIn c t2 t3) s
/-- DONE (R422): the parent is aligned, so this die aligns to it, and then passes DONE on (DEDUCED, log entry 53). -/
def execDone (c : Col) (h : MsgHdr) (s : State) : Host.Outcome State Fault Refusal :=
  discIn c h .done (fun s => if s.disc.assigned && !s.disc.done && parentCol s == some c then alignBegin (discComplete s) else s) s
/-- FAIL (R423). -/
def execFail (c : Col) (h : MsgHdr) (code : BitVec 4) (s : State) : Host.Outcome State Fault Refusal :=
  discIn c h (.fail code) (fun s => if 3 ≤ code.toNat && code.toNat ≤ 8 then discFail code (some c) s else s) s
/-- DISCOVERY_TIMEOUT (R423). -/
def execDiscoveryTimeout (s : State) : Host.Outcome State Fault Refusal :=
  whenAwake s (fun s => if s.disc.done then s else discFail 8 none s)

end Sys2Proof.Machine
end

