-- ==== Sys2Proof/Machine/Power.lean ====
section
/-! DEFINITION. The power manager (chapter 18; R38, R40 of chapter 01; R495 and R526; R538..R540 of chapter 23): windows and stamping
points, the estimate, energy attribution, sharing the cap, pace, droop, thermal control, telemetry and the AVSBus; and what passes
in one tick without a command. -/
namespace Sys2Proof.Machine

/-! ## Time -/

/-- Activity of one tick: scree load of each core that runs it (in sixty-fourths), and each live col port (R442). -/
def tickCounts (s : State) : State :=
  let s := s.cores.foldl (fun s e =>
    if e.2.cairn.scree = 0 then s
    else if h : e.1 / 68 < 42 then countCore ⟨⟨e.1 / 68, h⟩, ⟨e.1 % 68, Nat.mod_lt _ (by decide)⟩⟩ 6 e.2.cairn.scree s else s) s
  allCols.foldl (fun s c => if colLive (getCol s c) then countAt (84 + c.val) 0x0D 6 none 1 s else s) s
/-- Bits per nanosecond and lane at a rate code (R410, R433). -/
def rateBits (rate : BitVec 2) : Nat := match rate.toNat with | 0 => 32 | 1 => 24 | _ => 16
/-- One nanosecond passes with no command (DESIGN CHOICE, log entry 4): the timebase counts while it is locked and the spine
oscillator in its place while it is not (R46, R439); the oscillator times a bring-up in progress (BRINGUP_STAT.ELAPSED). -/
def tick (s : State) : State :=
  if awake s then
    let s := tickCounts s
    { s with
      tb := if s.tb.locked then { s.tb with count := s.tb.count + 1, ranNs := s.tb.ranNs + 1 } else { s.tb with oscNs := s.tb.oscNs + 1, ranNs := s.tb.ranNs + 1 }
      itest := if s.itest.state == 1 && s.itest.tx then { s.itest with sent := s.itest.sent + rateBits s.itest.rate } else s.itest
      bring := if s.bring.step.toNat < 10 then { s.bring with elapsedNs := s.bring.elapsedNs + 1 } else s.bring }
  else s

/-! ## Pace and ageing (R38, R40) -/

/-- PACE_RECALIBRATE (R38): the delay line of a core is measured against the timebase. -/
def execPaceRecalibrate (c : CoreId) (s : State) : Host.Outcome State Fault Refusal :=
  whenAwake s (fun s => modCore c (fun k => { k with issue := { k.issue with paceCal := s.tb.count } }) s)
/-- AGE_DERATE_STEP (R40): the replica of a core has slowed by a further 0.5 %. -/
def execAgeDerateStep (c : CoreId) (s : State) : Host.Outcome State Fault Refusal :=
  whenAwake s (modCore c (fun k => { k with issue := { k.issue with ageDerate := BitVec.ofNat 8 (satInc 8 k.issue.ageDerate.toNat) } }))

/-! ## Temperatures (R455, R456) -/

/-- A temperature in °C as a code q. -/
def tempCode (t : Int) : Int := (t + 64) * 4
/-- TRIP, THROT and WARN in °C as they act. -/
def tripAct (s : State) : Int := min s.therm.trip.toNat 125
def throtAct (s : State) : Int := min s.therm.throt.toNat (tripAct s - 5)
def warnAct (s : State) : Int := min s.therm.warn.toNat (throtAct s)
/-- HYST as it acts. -/
def hystAct (s : State) : Int := max 1 s.therm.hyst.toNat
/-- Sensors that are not excluded, among n upward from lo. -/
def workingSensors (s : State) (lo n : Nat) : List (Fin 64) := (List.finRange 64).filter (fun i => lo ≤ i.val && i.val < lo + n && !s.therm.failed.getLsbD i.val)
/-- The greatest of the sensors' readings, and the lowest sensor that shows it. -/
def hottest (s : State) (l : List (Fin 64)) : Nat × Nat :=
  l.foldl (fun a i => let v := (s.therm.temps.get i).toNat; if v > a.1 then (v, i.val) else a) (0, (l.head?.map (·.val)).getD 0)
/-- Too few sensors of a quadrant work. -/
def sensorsFailed (s : State) (q : Fin 4) : Bool := (workingSensors s (16 * q.val) 16).length < 8
/-- t_q as a code. -/
def quadTemp (s : State) (q : Fin 4) : Int :=
  if sensorsFailed s q then tempCode (throtAct s) else ((hottest s (workingSensors s (16 * q.val) 16)).1 : Int)
/-- Some t_q is at or above WARN. -/
def warnNow (s : State) : Bool := (List.finRange 4).any (fun q => quadTemp s q ≥ tempCode (warnAct s))
/-- THERM_STAT.WARN follows the temperatures and the threshold; its rise raises an event. -/
def warnUpdate (s : State) : State :=
  let w := warnNow s
  let s := if w && !s.therm.warned then raiseEvt 0xE 0x108 s else s
  { s with therm := { s.therm with warned := w } }
/-- Before a change that can bring EFFECTIVE to 0, each core keeps the last value that was not 0 (R307). -/
def keepRates (s : State) : State :=
  allMassifs.foldl (fun s m => (massifCores s m).foldl (fun s c =>
    let e := effective s c
    if e = 0 then s else modXfer c (fun f => { f with dlCeil := e }) s) s) s
/-- Steps that a trip stops (R480). -/
def tripStops (s : State) : Bool := 5 ≤ s.bring.step.toNat && s.bring.step.toNat ≤ 8
/-- A step stopped by a trip loses its results and restarts from its beginning. -/
def stepRestart (s : State) : State :=
  if !tripStops s then s
  else
    let s := if s.bring.step == 5 then gateAll s else s
    let b := s.bring
    { s with bring := { b with
      waves := if b.step == 5 then 0 else b.waves, points := [], place := 0, sub := 0, storeBad := [], sramBad := []
      lbist := if b.step == 6 then [] else b.lbist } }
/-- BRINGUP_STAT.PAUSED: a step waits for TRIP_CLEAR. -/
def bringPaused (s : State) : Bool := s.therm.tripped && tripStops s
/-- A trip (R457). -/
def trip (s : State) : State :=
  let s := stepRestart (keepRates s)
  raiseEvt 0xE 0x108 (retarget { s with therm := { s.therm with tripped := true, tripSeen := true, tripCount := satInc 8 s.therm.tripCount } })
/-- The sensors that satisfy a test. -/
def mask64 (f : Fin 64 → Bool) : BitVec 64 := (List.finRange 64).foldl (fun b i => if f i then b ||| (1 <<< i.val) else b) 0
/-- SENSOR_SAMPLE (R455..R457). -/
def sensorSample (t : Vector (BitVec 10) 64) (s : State) : State :=
  let bad := mask64 (fun i : Fin 64 => (t.get i).toNat < 96 || 856 < (t.get i).toNat)
  let failed := s.therm.failed ||| bad
  let hot := mask64 (fun i : Fin 64 => !failed.getLsbD i.val && ((t.get i).toNat : Int) ≥ tempCode (tripAct s))
  let twice := hot &&& s.therm.atTrip
  let s := warnUpdate { s with therm := { s.therm with temps := t, failed := failed, atTrip := hot } }
  if twice != 0 && !s.therm.tripped then trip s else s
/-- SENSOR_SAMPLE (R455). -/
def execSensorSample (t : Vector (BitVec 10) 64) (s : State) : Host.Outcome State Fault Refusal := whenAwake s (sensorSample t)
/-- The end of a trip (R458): no effect while some t_q is at or above WARN. -/
def tripClear (s : State) : State :=
  if s.therm.tripped && !warnNow s then retarget { s with therm := { s.therm with tripped := false } } else s
/-- TRIP_CLEAR (R458). -/
def execTripClear (s : State) : Host.Outcome State Fault Refusal := whenAwake s tripClear

/-- One thermal notch more: voltage down to 550 mV, then pace down to 1 (R456). -/
def thermDown (s : State) (q : Fin 4) (k : QuadSt) : QuadSt :=
  if quadDemand s q - 5 * k.thermV > 550 then { k with thermV := k.thermV + 1 } else { k with thermPace := max 1 (k.thermPace - 1) }
/-- One thermal notch less: pace before voltage. -/
def thermUp (k : QuadSt) : QuadSt := if k.thermPace < 32 then { k with thermPace := k.thermPace + 1 } else { k with thermV := k.thermV - 1 }
/-- The thermal step of a publication; throttling does not act before READY (R480). -/
def thermStep (s : State) (q : Fin 4) (k : QuadSt) : QuadSt :=
  let t := quadTemp s q
  if bringingUp s then k
  else if t ≥ tempCode (throtAct s) then thermDown s q k
  else if t < tempCode (throtAct s - hystAct s) then thermUp k
  else k

/-! ## Windows (R439, R440) -/

/-- A stamping point away from the die-level port sends its counts to the power manager: energy collection, one flit of class BG (R370;
how many packets it takes is a DESIGN CHOICE, log entry 125). -/
def stampSend (pt : StampPoint) (s : State) : State :=
  let n := pt.val
  if n = 100 then s else ridgeMove (if n < 42 then n else if n < 84 then n - 42 else colRouter (BitVec.ofNat 4 (n - 84)).toFin) diePort 4 none 1 s
/-- The mark of the present window reaches a stamping point; the manager's own flags turn over with the die-level port. -/
def windowMark (pt : StampPoint) (s : State) : State :=
  let k := smGet StampSt.reset s.pm.stamps pt.val
  let w := windowNow s
  if k.window = w then s
  else stampSend pt { s with pm := { s.pm with
    label := if pt.val = 100 then s.tb.count.toNat / 4096 else s.pm.label
    labelLast := if pt.val = 100 then s.pm.label else s.pm.labelLast
    stamps := smSet StampSt.reset s.pm.stamps pt.val ⟨w, [], k.cur⟩
    quads := if pt.val = 100 then
        s.pm.quads.map (fun q => { q with changedLast := q.changed, changed := false, crossedLast := q.crossed, crossed := false })
      else s.pm.quads } }
/-- WINDOW_MARK (R440). -/
def execWindowMark (pt : StampPoint) (s : State) : Host.Outcome State Fault Refusal := whenAwake s (windowMark pt)

/-! ## The estimate (R442, R443) -/

/-- The weight of a code; reserved codes read 0. -/
def weightOf (s : State) (code : Nat) : Nat := (smGet 0 s.fuse.weights code).toNat
/-- Domain of an event code: 0 compute, 1 ledge, 2 link; none for 0x0E and reserved codes. -/
def eventDomain (code : Nat) : Option (Fin 3) :=
  if code ≤ 6 || code == 9 then some 0 else if code == 7 || code == 8 then some 1 else if 0xA ≤ code && code ≤ 0xD then some 2 else none
/-- Energy of n events of a code at a stamping point, in units of 1/(36·10^9) nJ. A compute event scales with the square of the
quadrant's readback; scree load is counted in sixty-fourths of I_d. -/
def eventEnergy (s : State) (pt code n : Nat) : Nat :=
  let v := (s.pm.quads.get (quadOf pt)).readback.toNat
  if code == 6 then weightOf s code * n * v * v
  else if eventDomain code == some 0 then 4 * weightOf s code * n * v * v
  else 2250000 * weightOf s code * n
/-- Energy of the events of the window to be published that satisfy a test on point, code, class and massif. -/
def windowEnergy (s : State) (f : Nat → Nat → Nat → Nat → Bool) : Nat :=
  s.pm.stamps.foldl (fun a p => p.2.last.foldl (fun a e =>
    let code := e.1 / 64
    if f p.1 code (e.1 / 8 % 8) (e.1 % 8) then a + eventEnergy s p.1 code e.2 else a) a) 0
/-- Energy of a domain. -/
def domainEnergy (s : State) (d : Fin 3) : Nat := windowEnergy s (fun _ code _ _ => eventDomain code == some d)
/-- Units of energy in a window at 1 W. -/
def wattUnits : Nat := 4096 * 36000000000
/-- The hundredth power of p_leak in units, times 750^300, as a numerator and a denominator: (leak·u)^100 · v^300 · 2^(4·t − 340), with t in °C
and so the exponent q − 596 for a temperature code q (R443). -/
def leakPower (leak v : Nat) (q : Int) : Nat × Nat :=
  let e := q - 596
  ((leak * (wattUnits / 1000)) ^ 100 * v ^ 300 * 2 ^ e.toNat, 750 ^ 300 * 2 ^ (-e).toNat)
/-- A value lies within 2 % of p_leak. -/
def leakWithin (leak v : Nat) (q : Int) (x : Nat) : Bool :=
  let (n, d) := leakPower leak v q
  98 ^ 100 * n ≤ (100 * x) ^ 100 * d && (100 * x) ^ 100 * d ≤ 102 ^ 100 * n
/-- The greatest x below 2^64 with x^100 ≤ n. -/
def rootHundred (n : Nat) : Nat := (List.range 64).foldl (fun r i => if (r + 2 ^ (63 - i)) ^ 100 ≤ n then r + 2 ^ (63 - i) else r) 0
/-- p_leak as the die's fused table gives it: a free value within 2 % of the formula, and the formula rounded down where the free value lies
outside (R443, log entry 55). -/
def leakTable (leak : BitVec 32) (v : BitVec 10) (q : Int) : Nat :=
  let x := Config.leakage leak v q
  if leakWithin leak.toNat v.toNat q x then x else let (n, d) := leakPower leak.toNat v.toNat q; rootHundred (n / d)
/-- Leakage energy of a cluster; a gated one has none (R437). -/
def leakEnergy (s : State) (p : PClus) : Nat :=
  if (getClus s p).repair.powered then
    let q := quadOf p.val
    leakTable (smGet 0 s.fuse.weights (0x10 + p.val)) (s.pm.quads.get q).readback (quadTemp s q)
  else 0
/-- Static energy: 1 mW over a window is 4.096 nJ. -/
def staticEnergy (s : State) : Nat := allClus.foldl (fun a p => a + leakEnergy s p) (weightOf s 0x3A * (wattUnits / 1000))
/-- A window's energy as a power in sixteenths of a watt, rounded to nearest. -/
def sixteenths (e : Nat) : Nat :=
  let u := wattUnits / 16
  let r := 2 * (e % u)
  min 65535 (e / u + (if r > u || (r == u && Config.powerTieUp e) then 1 else 0))

/-- A published estimate: energies of the three domains and static. -/
structure Estimate where
  dom : Vector Nat 3
  stat : Nat
  deriving DecidableEq, Repr
/-- The estimate of the window to be published. -/
def estimate (s : State) : Estimate := ⟨#v[domainEnergy s 0, domainEnergy s 1, domainEnergy s 2], staticEnergy s⟩
/-- Its total. -/
def Estimate.total (e : Estimate) : Nat := e.dom.get 0 + e.dom.get 1 + e.dom.get 2 + e.stat
/-- PM_POWER. -/
def powerWord (e : Estimate) : BitVec 64 :=
  packAt [(0, sixteenths (e.dom.get 0)), (16, sixteenths (e.dom.get 1)), (32, sixteenths (e.dom.get 2)), (48, sixteenths e.stat)]

/-! ## Energy attribution (R459, R460) -/

/-- The window's share of counter n of a massif. -/
def massifShare (s : State) (m : Massif) (n : Fin 6) : Nat :=
  let own (f : Nat → Bool) : Nat := windowEnergy s (fun _ code _ k => k == m.val && f code)
  match n with
  | 0 => own (fun c => eventDomain c == some 0 && c != 6)
  | 1 => own (fun c => c == 7 || c == 8)
  | 2 => own (fun c => c == 0xA || c == 0xB)
  | 3 => own (fun c => c == 6)
  | 4 => (massifClus s m).foldl (fun a p => a + leakEnergy s p) 0
  | _ => own (fun c => c == 0xE)
/-- Counters wrap at 2^64 nJ. -/
def energyWrap (e : Nat) : Nat := e % (2 ^ 64 * 36000000000)
/-- Every energy counter advances by the published window. -/
def energyPublish (s : State) : State :=
  let inc (m : Massif) : Vector Nat 6 := Vector.ofFn (massifShare s m)
  let cls : Vector Nat 7 := Vector.ofFn (fun c : Fin 7 => windowEnergy s (fun _ code k _ => eventDomain code == some 2 && k == c.val))
  let incs := allMassifs.map (fun m => (m, inc m))
  let s := incs.foldl (fun s e => modMassif e.1 (fun k => { k with
    energyInc := e.2, energy := Vector.ofFn (fun n : Fin 6 => energyWrap (k.energy.get n + e.2.get n)) }) s) s
  { s with pm := { s.pm with classEnergy := Vector.ofFn (fun c : Fin 7 => energyWrap (s.pm.classEnergy.get c + cls.get c)) } }

/-! ## Sharing the cap (R444..R446) -/

/-- The priority order, highest first: 0 compute, 1 ledge, 2 link (R444). -/
def prioOrder (p : BitVec 3) : List (Fin 3) :=
  match p.toNat with
  | 1 => [2, 0, 1] | 2 => [1, 2, 0] | 3 => [1, 0, 2] | 4 => [0, 2, 1] | 5 => [0, 1, 2] | _ => [2, 1, 0]
/-- CAP in W as it acts. -/
def capWatts (s : State) : Nat := max 300 (min 1000 s.pm.cap.toNat)
/-- PACE_FLOOR as it acts. -/
def paceFloorAct (s : State) : Nat := max 1 s.pm.paceFloor.toNat
/-- Quadrants that hold a running massif. -/
def runningQuads (s : State) : List (Fin 4) := (List.finRange 4).filter (fun q => (quadMassifs s q).any (running s))
/-- The voltage notches at which every running quadrant has reached V_FLOOR. -/
def capFloor (s : State) : Nat :=
  (runningQuads s).foldl (fun a q => max a ((quadDemand s q - (vFloorMv s : Int) + 4).toNat / 5)) 0
/-- A domain is at its floor (R445). -/
def atFloor (s : State) (d : Fin 3) : Bool :=
  match d with
  | 0 => capFloor s ≤ s.pm.capV && s.pm.kPace ≤ paceFloorAct s
  | 1 => s.pm.kPace ≤ paceFloorAct s
  | _ => s.pm.linkJ ≤ 1
/-- A domain holds a cut. The budget pace is one cut of compute and ledge alike. -/
def hasCut (s : State) (d : Fin 3) : Bool :=
  match d with
  | 0 => 0 < s.pm.capV || s.pm.kPace < 32
  | 1 => s.pm.kPace < 32
  | _ => s.pm.linkJ < 16
/-- min(8, ⌈f·E/P⌉), E and P in the same units. -/
def notches (f e p : Nat) : Nat := if p = 0 then 8 else min 8 ((f * e + p - 1) / p)
/-- A cut of a domain for an excess, stopping at its floor (R445). -/
def capCut (p : Estimate) (e : Nat) (d : Fin 3) (s : State) : State :=
  let pace := max (paceFloorAct s) (s.pm.kPace - notches 32 e (p.dom.get 0 + p.dom.get 1))
  match d with
  | 0 =>
    if s.pm.capV < capFloor s then { s with pm := { s.pm with capV := min (capFloor s) (s.pm.capV + notches 40 e (p.dom.get 0)) } }
    else { s with pm := { s.pm with kPace := pace } }
  | 1 => { s with pm := { s.pm with kPace := pace } }
  | _ => { s with pm := { s.pm with linkJ := max 1 (s.pm.linkJ - notches 16 e (p.dom.get 2)) } }
/-- One notch given back to a domain: within compute, pace before voltage. -/
def capGive (d : Fin 3) (s : State) : State :=
  match d with
  | 2 => { s with pm := { s.pm with linkJ := min 16 (s.pm.linkJ + 1) } }
  | _ => if s.pm.kPace < 32 then { s with pm := { s.pm with kPace := s.pm.kPace + 1 } } else { s with pm := { s.pm with capV := s.pm.capV - 1 } }
/-- One notch given back to the highest-priority domain that holds a cut. -/
def capReturn (s : State) : State :=
  match (prioOrder s.pm.prio).find? (hasCut s) with
  | some d => capGive d s
  | none => s
/-- The step of a publication (R446); with EN = 0 one notch returns. -/
def capStep (p : Estimate) (s : State) : State :=
  if bringingUp s then s
  else if !s.pm.capEn then capReturn s
  else if s.pm.quads.any (·.changedLast) then s
  else
    let cap := capWatts s * wattUnits
    if p.total > cap then
      let s := { s with pm := { s.pm with overCap := true } }
      match (prioOrder s.pm.prio).reverse.find? (fun d => !atFloor s d) with
      | some d => capCut p (p.total - cap) d s
      | none => s
    else if 64 * p.total + (max 256 (capWatts s)) * wattUnits ≤ 64 * cap then capReturn s
    else s

/-! ## Publication (R441, R453, R456, R461) -/

/-- PM_STAT.LIMITER. -/
def limiter (s : State) : Nat :=
  if bringingUp s then 5
  else if s.therm.tripped then 4
  else if s.clusters.any (fun e => e.2.droopActive) then 3
  else if s.pm.quads.any (fun q => 0 < q.thermV || q.thermPace < 32) then 2
  else if 0 < s.pm.capV || s.pm.kPace < 32 || s.pm.linkJ < 16 then 1
  else 0
/-- Payload of KIND POWER. -/
def telemPower (s : State) : List Byte :=
  let (t, i) := hottest s (workingSensors s 0 64)
  (List.finRange 4).flatMap (fun q => leBytes (s.pm.quads.get q).target.toNat 2) ++ leBytes t 2 ++ [BitVec.ofNat 8 i, BitVec.ofNat 8 (limiter s)] ++
    List.replicate 4 0
/-- Payload of KIND ENERGY: the window's increments in nJ. -/
def telemEnergy (s : State) : List Byte :=
  allMassifs.flatMap (fun m => (List.finRange 6).flatMap (fun n => leBytes ((getMassif s m).energyInc.get n / 36000000000) 4))
/-- One TELEM message. -/
def telemSend (kind : BitVec 4) (payload : List Byte) (s : State) : State :=
  let b : MsgBody := .telem ⟨s.pm.window, s.disc.id, kind, BitVec.ofNat 4 (dieThrottle s), s.pm.power, payload⟩
  (sendTo s.pm.telemDst b 0 0 0 diePort 0 none none none none s).1
/-- TELEM after a publication (R461). -/
def telem (s : State) : State :=
  if s.pm.telemEn && 8 ≤ s.pm.telemDst.toNat && s.pm.telemDst.toNat < 12 && s.pm.window.toNat % (max 1 s.pm.telemPeriod.toNat) == 0 then
    let s := if s.pm.telemPower then telemSend 0 (telemPower s) s else s
    if s.pm.telemEnergy then telemSend 1 (telemEnergy s) s else s
  else s
/-- The number shown for the window that is published: TB_COUNT >> 12 as it stood when that window began at the power manager, which is the
held window's while the timebase holds (R439). -/
def windowLabel (s : State) : Nat := s.pm.labelLast
/-- Every stamping point has reported the window before the present one, and it has not been published. -/
def canPublish (s : State) : Bool :=
  s.pm.published != windowNow s && (List.range 101).all (fun pt => (smGet StampSt.reset s.pm.stamps pt).window == windowNow s)
/-- The publication of a window. -/
def publish (s : State) : State :=
  let p := estimate s
  let s := energyPublish s
  let s := { s with pm := { s.pm with
    power := powerWord p, window := BitVec.ofNat 48 (windowLabel s), windowValid := true, published := windowNow s } }
  let s := capStep p s
  let quads := Vector.ofFn (fun q : Fin 4 =>
    let k := thermStep s q (s.pm.quads.get q)
    if k.crossedLast then k else { k with boost := k.boost - 1 })
  telem (retarget { s with pm := { s.pm with quads := quads } })
/-- PUBLISH_WINDOW (R441). -/
def execPublishWindow (s : State) : Host.Outcome State Fault Refusal := whenAwake s (fun s => if canPublish s then publish s else s)

/-! ## Rails and hints (R438, R449, R539, R540) -/

/-- RAIL_SAMPLE (R438): the latest readbacks are taken. -/
def execRailSample (s : State) : Host.Outcome State Fault Refusal :=
  whenAwake s (fun s => { s with pm := { s.pm with quads := s.pm.quads.map (fun q => { q with readback := q.latest }) } })
/-- HINT_RECOMPUTE (R449). -/
def hintRecompute (s : State) : State :=
  retarget (allMassifs.foldl (fun s m => modSeq m (fun q => { q with
    hints := q.hints.map (fun h => { h with ts := hintTime s m h.b0, te := hintTime s m h.b1 }) }) s) s)
/-- HINT_RECOMPUTE (R449). -/
def execHintRecompute (s : State) : Host.Outcome State Fault Refusal := whenAwake s hintRecompute

/-- What the frame of the present slot is for: a Voltage read, the oldest target change, or a Status read (R539). -/
inductive AvsFrame where
  | read (q : Fin 4)
  | write (q : Fin 4)
  | status (q : Fin 4)
  deriving DecidableEq, Repr
/-- The frame of the present slot; the first slot of the cycle is in position 1. -/
def avsNow (s : State) : AvsFrame :=
  if s.pm.slot.toNat % 2 == 0 then .read s.pm.readQ
  else match s.pm.writes.head? with
    | some w => .write w.1
    | none => .status s.pm.statusQ
/-- The quadrant of a frame. -/
def avsQuad : AvsFrame → Fin 4
  | .read q | .write q | .status q => q
/-- The next slot of reads is the next quadrant's, whatever became of this frame (R539). -/
def readNext (f : AvsFrame) (s : State) : State :=
  match f with
  | .read q => { s with pm := { s.pm with readQ := q + 1 } }
  | _ => s
/-- A failed frame: it is repeated in the next slot of its kind, a read in its quadrant's next slot; the third in a row fails the
quadrant's rail (R540). -/
def avsFailed (q : Fin 4) (s : State) : State :=
  let k := s.pm.quads.get q
  let n := k.failed + 1
  let s := if n == 3 then raiseEvt 0xD 0x1C0 s else s
  { s with pm := { s.pm with failedFrames := satInc 16 s.pm.failedFrames, quads := s.pm.quads.set q { k with failed := n, railFail := k.railFail || n ≥ 3 } } }
/-- A good frame. -/
def avsGood (f : AvsFrame) (mv : BitVec 10) (s : State) : State :=
  let ok (k : QuadSt) : QuadSt := { k with failed := 0, railFail := false }
  let pm := s.pm
  match f with
  | .read q => { s with pm := { pm with quads := pm.quads.set q { ok (pm.quads.get q) with latest := mv } } }
  | .write q => { s with pm := { pm with quads := pm.quads.set q (ok (pm.quads.get q)), writes := pm.writes.tail } }
  | .status q => { s with pm := { pm with quads := pm.quads.set q (ok (pm.quads.get q)), statusQ := q + 1 } }
/-- AVS_FRAME (R539, R540). -/
def avsFrame (r : AvsReply) (s : State) : State :=
  let s := retarget s
  let f := avsNow s
  let s := readNext f { s with pm := { s.pm with frames := s.pm.frames + 1, slot := s.pm.slot + 1 } }
  match r with
  | .failed => avsFailed (avsQuad f) s
  | .good mv => avsGood f mv s
/-- AVS_FRAME (R539). -/
def execAvsFrame (r : AvsReply) (s : State) : Host.Outcome State Fault Refusal := whenAwake s (avsFrame r)

/-! ## Droop (R452, R453) -/

/-- A supply falls more than DROOP_TH below its target: every core of the cluster is held to half of its effective ceiling. A
crossing during the rise restores one half of the ceiling that the clamp already halved. -/
def droopCrossing (p : PClus) (s : State) : State :=
  let base : SMap Nat :=
    if (getClus s p).droopActive then (getClus s p).droopBase
    else allPCores.foldl (fun m q => smSet 0 m q.val (effective s ⟨p, q⟩)) []
  let s := modClus p (fun k => { k with
    droopCount := satInc 32 k.droopCount, droopActive := true, droopStep := 0, droopSince := s.tb.count, droopBase := base }) s
  let q := quadOf p.val
  let k := s.pm.quads.get q
  let k' := { k with crossed := true, boost := if s.pm.boostEn && !k.crossed then min 4 (k.boost + 1) else k.boost }
  retarget { s with pm := { s.pm with quads := s.pm.quads.set q k' } }
/-- DROOP_CROSSING (R452). -/
def execDroopCrossing (p : PClus) (s : State) : Host.Outcome State Fault Refusal :=
  whenAwake s (fun s => if (getClus s p).repair.powered then droopCrossing p s else s)
/-- The clamp's next step (R453): the sender of the command has seen the supply stand for 256 ticks, then for 64 more each time. -/
def clampStep (p : PClus) (s : State) : State :=
  modClus p (fun k =>
    if !k.droopActive then k
    else if k.droopStep.toNat ≥ 3 then { k with droopActive := false, droopStep := 0, droopBase := [] }
    else { k with droopStep := k.droopStep + 1 }) s
/-- CLAMP_STEP (R453). -/
def execClampStep (p : PClus) (s : State) : Host.Outcome State Fault Refusal := whenAwake s (clampStep p)

/-! ## Spine parity and event notification (R495, R526) -/

/-- A parity error in the spine (R495). -/
def spineParity (u : SpineUnit) (s : State) : State :=
  match u with
  | .router p => routerFatal p 1 (BitVec.ofNat 6 p.val) s
  | .routeTable p => routerFatal p 2 63 s
  | .registerResponder => fatalError 3 3 63 s
  | .summitUnit => fatalError 3 4 63 s
  | .trackerEntries => fatalError 3 5 63 s
  | .readTagPool => fatalError 3 6 63 s
  | .powerManager => fatalError 3 7 63 s
  | .translation m va =>
    let hit (e : TcEntry) : Bool := tcCovers e m va.toNat
    if s.tc.entries.any hit then
      { s with tc := { s.tc with entries := s.tc.entries.filter (fun e => !hit e) }, err := { s.err with tcParity := satInc 16 s.err.tcParity } }
    else s
/-- SPINE_PARITY (R495). -/
def execSpineParity (u : SpineUnit) (s : State) : Host.Outcome State Fault Refusal := whenAwake s (spineParity u)

end Sys2Proof.Machine
end

