-- ==== Sys2Proof/Machine/Bringup.lean ====
section
/-! DEFINITION. Power-on reset, brown-out and bring-up (chapter 19, R463..R480; chapter 23, R534..R537): steps, waves, self-test
findings, characterisation and repair; warm bring-up. -/
namespace Sys2Proof.Machine

/-! ## Power-on reset, brown-out, loss of VDD_AON (R534..R537, R542) -/

/-- A col after power-on reset: off when it is fused off (R9), held DOWN while the TAP has the lanes (R435). -/
def colPowerOn (s : State) (c : Col) : ColSt :=
  if !(colMask s).getLsbD c.val then { ColSt.reset with state := .off, downCause := 1 }
  else if takesLanes s.jtag.ir then { ColSt.reset with downCause := 3 } else ColSt.reset
/-- The state that a power-on reset leaves: fuses, pins and the TAP stand, and ELEC_STAT keeps its brown-out fields (R537). -/
def powerReset (s : State) (crown : Bool) : State :=
  { State.reset with
    pending := s.pending, fuse := s.fuse, jtag := s.jtag, pins := { s.pins with pwrgd := false }, disc := DiscSt.reset crown
    cols := Vector.ofFn (colPowerOn s)
    pm := { PmSt.reset with boRail := s.pm.boRail, boValid := s.pm.boValid, boCount := s.pm.boCount } }
/-- PORST_N_ASSERT (R535): a pulse shorter than 1 µs is ignored. -/
def execPorstNAssert (held : Bool) (s : State) : Host.Outcome State Fault Refusal :=
  .next (if held then powerReset { s with pins := { s.pins with porst := true } } s.disc.crown else s)
/-- PORST_N_RELEASE (R534, R535): the level of CROWN_N is sampled, and bring-up starts. A release with VDD_AON applied after its
loss is the end of a power-up. -/
def execPorstNRelease (crownN : Bool) (s : State) : Host.Outcome State Fault Refusal :=
  .next (if s.pins.porst || !s.pins.aon then
      powerReset { s with pins := { s.pins with aon := true, io := s.pins.io || !s.pins.aon, porst := false, crownN := crownN } } (!crownN)
    else s)
/-- BROWN_OUT (R537): from the end of step RAILS onward a rail out of bounds resets the die, and ELEC_STAT records it. -/
def execBrownOut (rail : Fin 7) (s : State) : Host.Outcome State Fault Refusal :=
  whenAwake s (fun s =>
    if s.pins.pwrgd then
      powerReset { s with
        pins := { s.pins with brownOut := true, io := rail.val != 6 }
        pm := { s.pm with boRail := BitVec.ofNat 4 rail.val, boValid := true, boCount := satInc 16 s.pm.boCount } } s.disc.crown
    else s)
/-- BROWN_OUT_RECOVERY (R537): bring-up starts at step RAILS, FULL. -/
def execBrownOutRecovery (crownN : Bool) (s : State) : Host.Outcome State Fault Refusal :=
  .next (if s.pins.aon && s.pins.brownOut then
      powerReset { s with pins := { s.pins with brownOut := false, io := true, crownN := crownN } } (!crownN)
    else s)
/-- VDD_AON_LOSS (R537): spine, registers, the TAP and the brown-out fields are lost. -/
def execVddAonLoss (s : State) : Host.Outcome State Fault Refusal :=
  .next { State.reset with
    pending := s.pending, fuse := s.fuse
    pins := { s.pins with aon := false, brownOut := false, pwrgd := false } }

/-! ## Steps RAILS, FUSE, SPINE (R375, R376, R463, R465) -/

/-- The step in progress. -/
def setStep (n : BitVec 4) (s : State) : State := retarget { s with bring := { s.bring with step := n, sub := 0, place := 0 } }
/-- Every quadrant has been read back within 700..800 mV. -/
def railsGood (s : State) : Bool := s.pm.quads.all (fun q => 700 ≤ q.latest.toNat && q.latest.toNat ≤ 800)
/-- A quadrant's last frame has failed: its readback is unknown (R540). -/
def readbackUnknown (s : State) : Bool := s.pm.quads.any (fun q => q.failed != 0)
/-- Step RAILS ends: its check comes once 750 mV has been written to every quadrant (R533, R540). -/
def endRails (f : StepFindings) (s : State) : State :=
  let s := retarget s
  if f.railBad || readbackUnknown s then bringFail 1 s
  else if !s.pm.writes.isEmpty then s
  else if !railsGood s then bringFail 1 s
  else setStep 2 { s with pins := { s.pins with pwrgd := true } }
/-- A col is off until power-on reset (R389). -/
def colOff (cause : BitVec 4) (c : Col) (s : State) : State :=
  modCol c (fun k => { k with state := .off, downCause := cause, linkUp := false, reqHeld := false, drivesRck := false, offer := none }) s
/-- Step FUSE ends: cols that the variant fuses off are off (R9). -/
def endFuse (f : StepFindings) (s : State) : State :=
  if f.fuseBad then bringFail 2 s
  else setStep 3 (allCols.foldl (fun s c => if (colMask s).getLsbD c.val then s else colOff 1 c s) s)
/-- Routers left enabled by the fuse map and the self-test. -/
def routersEnabled (s : State) (bad : BitVec 42) : BitVec 42 := ~~~(s.fuse.badRouters ||| bad)
/-- Every ordered pair of enabled routers has a route of at most 15 hops (R376). -/
def routable (en : BitVec 42) : Bool :=
  let l := (List.range 42).filter (fun p => en.getLsbD p)
  l.all (fun a => l.all (fun b => a == b || (match routeOf en a b with | .none => false | r => routeHops r ≤ 15)))
/-- Step SPINE ends: router enables and routes are set, and cols at disabled routers are off, whether or not the set is accepted (R376). -/
def endSpine (f : StepFindings) (s : State) : State :=
  let en := routersEnabled s f.routersBad
  let s := { s with ridge := { s.ridge with en := en, routed := true } }
  let s := allCols.foldl (fun s c => if !en.getLsbD (colRouter c) && (getCol s c).state != .off then colOff 2 c s else s) s
  if f.spineBad then bringFail 3 s
  else if !routable en then bringFail 3 { s with ridge := { s.ridge with unroutable := true } }
  else setStep 4 s
/-- Step DISCOVERY ends once discovery has. -/
def endDiscovery (s : State) : State := if s.disc.done && !discFailed s then setStep 5 s else s

/-! ## Waves (R466) -/

/-- A candidate cluster. -/
def candidate (s : State) (p : PClus) : Bool :=
  !s.fuse.badClus.getLsbD p.val && !s.fuse.offClus.getLsbD p.val && s.ridge.en.getLsbD p.val
/-- Candidates in ascending order. -/
def candidates (s : State) : List PClus := allClus.filter (candidate s)
/-- A core is marked bad by the fuse map. -/
def fusedBad (s : State) (c : CoreId) : Bool := (smGet 0 s.fuse.badCores c.clus.val).getLsbD c.core.val
/-- Every readback lies within 10 mV of its target. -/
def readbacksNear (s : State) : Bool := s.pm.quads.all (fun q => q.readback.toNat ≤ q.target.toNat + 10 && q.target.toNat ≤ q.readback.toNat + 10)
/-- A cluster's power switches close; its cores that are not fused bad are held in reset. -/
def powerClus (p : PClus) (s : State) : State :=
  let s := modClus p (fun k => { k with repair := { k.repair with powered := true } }) s
  allPCores.foldl (fun s q => if fusedBad s ⟨p, q⟩ then s else modCore ⟨p, q⟩ (fun k => { k with presence := .reset }) s) s
/-- The next wave of candidates; after the first, once the readbacks have settled. -/
def wave (s : State) : State :=
  let n := s.bring.waves
  let next := ((candidates s).drop (4 * n)).take 4
  if s.bring.step != 5 || bringPaused s || next.isEmpty || (n != 0 && !readbacksNear s) then s
  else
    let s := next.foldl (fun s p => powerClus p s) s
    retarget { s with bring := { s.bring with waves := n + 1, sub := BitVec.ofNat 4 n } }
/-- WAVE (R466). -/
def execWave (s : State) : Host.Outcome State Fault Refusal := whenAwake s wave
/-- Step WAVES ends once every candidate has been powered. -/
def endWaves (s : State) : State := if (candidates s).length ≤ 4 * s.bring.waves then setStep 6 s else s

/-! ## Self-test (R468..R470, R478) -/

/-- A core state that a test leaves. -/
def failedState : CoreState → Bool
  | .failedLbist | .failedSram | .failedLatch | .failedSpeed => true
  | _ => false
/-- REPAIR_VIEW.STATE codes. -/
def coreStateCode : CoreState → Nat
  | .active => 0 | .spare => 1 | .fusedBad => 2 | .failedLbist => 3 | .failedSram => 4 | .failedLatch => 5 | .failedSpeed => 6 | .untested => 7
/-- REPAIR_VIEW.CLUS_STATE codes. -/
def clusStateCode : ClusState → Nat
  | .active => 0 | .spare => 1 | .fusedBad => 2 | .fusedOff => 3 | .routerDisabled => 4 | .failedCores => 5 | .failedStore => 6
/-- The state that the bring-up has found of a core so far. -/
def coreFound (s : State) (c : CoreId) : CoreState := smGet .active (getClus s c.clus).repair.cores c.core.val
/-- A core under test: powered, not fused bad, and not failed. -/
def underTest (s : State) (c : CoreId) : Bool :=
  (getClus s c.clus).repair.powered && !fusedBad s c && !failedState (coreFound s c)
/-- A disagreement (R478): counted, and the first of a bring-up recorded. -/
def disagree (p : PClus) (core : BitVec 7) (code : Nat) (s : State) : State :=
  let b := { s.bring with disagree := satInc 8 s.bring.disagree }
  { s with bring := if b.disValid then b else
    { b with disClus := BitVec.ofNat 6 p.val, disCore := core, disState := BitVec.ofNat 4 code, disValid := true } }
/-- A core fails a test. -/
def failCore (c : CoreId) (st : CoreState) (s : State) : State :=
  let s := modClus c.clus (fun k => { k with repair := { k.repair with
    cores := smSet .active k.repair.cores c.core.val st, dis := k.repair.dis ||| (1 <<< c.core.val) } }) s
  disagree c.clus (BitVec.ofNat 7 c.core.val) (coreStateCode st) s
/-- A cluster fails FAILED_STORE. -/
def failStore (p : PClus) (s : State) : State :=
  if (getClus s p).repair.clusDis || !(getClus s p).repair.powered then s
  else disagree p 127 6 (modClus p (fun k => { k with repair := { k.repair with clusDis := true } }) s)
/-- The failures of one step, in the order of R478. -/
def failAll (store : List PClus) (f : CoreId → Option CoreState) (s : State) : State :=
  allClus.foldl (fun s p =>
    let s := if store.contains p then failStore p s else s
    allPCores.foldl (fun s q =>
      match f ⟨p, q⟩ with
      | some st => if underTest s ⟨p, q⟩ then failCore ⟨p, q⟩ st s else s
      | none => s) s) s
/-- What LBIST finds of a core: its state when it fails, and its one failing latch bit when it stays good. A bit found at both corners is one
bit (R164, R468). -/
def lbistState (l : List (CoreId × LbistFinding)) (c : CoreId) : Option CoreState × Option (BitVec 5 × BitVec 6) :=
  let fs : List LbistFinding := ((l.filter (fun e => e.1 == c)).map (·.2)).eraseDups
  if fs.contains .other then (some .failedLbist, none)
  else match fs with
    | [] => (none, none)
    | [.latch col bit] => (none, some (col, BitVec.ofNat 6 bit.val))
    | _ => (some .failedLatch, none)
/-- MXE_LANE_MAP as the repair step records it (R164). -/
def setLane (l : Option (BitVec 5 × BitVec 6)) (k : Core) : Core :=
  { k with mxe := match l with
    | some (col, bit) => { k.mxe with laneColumn := col, laneBit := bit, laneValid := true }
    | none => { k.mxe with laneColumn := 0, laneBit := 0, laneValid := false } }
/-- A test works at a new target once every affected readback lies within 5 mV of it (R467). -/
def atTarget (s : State) : Bool :=
  (List.finRange 4).all (fun q =>
    let k := s.pm.quads.get q
    !quadPowered s q || (k.readback.toNat ≤ k.target.toNat + 5 && k.target.toNat ≤ k.readback.toNat + 5))
/-- The work at the present target is done: the next target of the step, or what ends the step. -/
def targetDone (last : State → State) (s : State) : State :=
  match (stepTargets s.bring.level s.bring.step.toNat)[s.bring.place + 1]? with
  | some t => retarget { s with bring := { s.bring with place := s.bring.place + 1, sub := t.2 } }
  | none => last s
/-- Step LBIST ends: its failures of every corner count together. -/
def endLbist (s : State) : State :=
  let b := s.bring
  setStep 7 (failAll b.storeBad (fun c => (lbistState b.lbist c).1) { s with bring := { b with storeBad := [] } })
/-- The events of a self-test in a cluster, counted in no massif (R480): codes 0x0..0x9 but for scree load. -/
def testCounts (test key : Nat) (p : PClus) (s : State) : State :=
  [0, 1, 2, 3, 4, 5, 7, 8, 9].foldl (fun s code => countAt p.val code 0 none (Config.testEvents test key code) s) s
/-- Those of a test of every powered cluster at the step's present target. -/
def cornerCounts (s : State) : State :=
  let test := 16 * s.bring.step.toNat + s.bring.place
  (allClus.filter (fun p => (getClus s p).repair.powered)).foldl (fun s p => testCounts test p.val p s) s
/-- LBIST at one corner (R468). -/
def lbistCorner (f : StepFindings) (s : State) : State :=
  if atTarget s then
    targetDone endLbist (cornerCounts { s with bring := { s.bring with lbist := s.bring.lbist ++ f.lbist, storeBad := s.bring.storeBad ++ f.store } })
  else s
/-- Step SRAM ends. -/
def endSram (s : State) : State :=
  let b := s.bring
  setStep 8 (failAll b.storeBad (fun c => if b.sramBad.contains c then some .failedSram else none)
    { s with bring := { b with storeBad := [], sramBad := [], points := [] } })
/-- The memory test at one corner or in one retention pause (R469); only a FULL test covers the die-level arrays. -/
def sramCorner (f : StepFindings) (s : State) : State :=
  if !atTarget s then s
  else
    let s := cornerCounts s
    if f.spineSram && s.bring.level == 0 then bringFail 5 s
    else targetDone endSram { s with bring := { s.bring with sramBad := s.bring.sramBad ++ f.sram, storeBad := s.bring.storeBad ++ f.store } }

/-! ## Characterisation (R471..R473) -/

/-- The key of a point. -/
def pointKey (c : CoreId) (v : Nat) : Nat := 4 * coreKey c + v
/-- The rate under search, halfway between the best that has passed and the lowest that has failed, of 250..2,600 M beats/s; the rule states no
rounding (R471; log entry 35). -/
def charRate (k : CharPoint) : Nat := (max k.best 249 + k.worst) / 2
/-- The search has ended: 12 steps are made, or none is left to make. -/
def charDone (k : CharPoint) : Bool := 12 ≤ k.steps || k.worst ≤ max k.best 249 + 1
/-- A rate has been decided: one step of the bisection is made. -/
def charDecide (pass : Bool) (k : CharPoint) : CharPoint :=
  { k with
    best := if pass then charRate k else k.best
    worst := if pass then k.worst else charRate k
    passes := 0, discards := 0, steps := k.steps + 1 }
/-- One run at the rate under search: three correct runs in a row pass it, a wrong one fails it, and a discarded one is repeated, up to eight
in a row. -/
def charRun (o : CharOutcome) (k : CharPoint) : CharPoint :=
  match o with
  | .correct => if k.passes + 1 ≥ 3 then charDecide true k else { k with passes := k.passes + 1, discards := 0 }
  | .wrong => charDecide false k
  | .droop => if k.discards + 1 ≥ 8 then charDecide false k else { k with discards := k.discards + 1 }
/-- A run at a rate belongs to the search. -/
def charOpen (k : CharPoint) (rate : Nat) : Bool := !charDone k && rate == charRate k
/-- CHARACTERISATION_RUN (R471), at the voltage that the step has reached. -/
def characterise (c : CoreId) (v : Fin 4) (rate : BitVec 12) (o : CharOutcome) (s : State) : State :=
  if s.bring.step != 8 || bringPaused s || !underTest s c || v.val != s.bring.place || !atTarget s then s
  else
    let key := pointKey c v.val
    let begun := s.bring.points.any (fun e => e.1 == key)
    let k := smGet CharPoint.reset s.bring.points key
    if charOpen k rate.toNat then
      let k := if begun then k else { k with temp := quadTemp s (quadOf c.clus.val) }
      testCounts (16 * 8 + v.val) (coreKey c) c.clus { s with bring := { s.bring with points := smSet CharPoint.reset s.bring.points key (charRun o k) } }
    else s
/-- CHARACTERISATION_RUN (R471). -/
def execCharacterisationRun (c : CoreId) (v : Fin 4) (rate : BitVec 12) (o : CharOutcome) (s : State) : Host.Outcome State Fault Refusal :=
  whenAwake s (characterise c v rate o)
/-- The guard in units of 0.1 % at a temperature code: 60, and 1 for each whole °C below 105, to at most 120 (R472). -/
def charGuard (temp : Int) : Nat := 60 + min 60 ((tempCode 105 - temp).fdiv 4).toNat
/-- The point recorded. -/
def charPoint (f : Nat) (temp : Int) : Nat := f * (1000 - charGuard temp) / 1000
/-- The points of a core, non-decreasing from the top down. -/
def charCeils (s : State) (c : CoreId) : Vector (BitVec 16) 4 :=
  let at_ (v : Nat) : Nat := let k := smGet CharPoint.reset s.bring.points (pointKey c v); charPoint k.best k.temp
  let a3 := at_ 3
  let a2 := min (at_ 2) a3
  let a1 := min (at_ 1) a2
  let a0 := min (at_ 0) a1
  #v[BitVec.ofNat 16 a0, BitVec.ofNat 16 a1, BitVec.ofNat 16 a2, BitVec.ofNat 16 a3]
/-- Every core under test has its rate at the step's present voltage. -/
def charsDone (s : State) : Bool :=
  allClus.all (fun p => allPCores.all (fun q =>
    !underTest s ⟨p, q⟩ || charDone (smGet CharPoint.reset s.bring.points (pointKey ⟨p, q⟩ s.bring.place))))
/-- Step CHAR ends: CORE_CEIL_CHAR is written, and slow cores fail. -/
def endChar (s : State) : State :=
  let temps := s.bring.points.map (fun e => e.2.temp)
  let slow (c : CoreId) : Option CoreState := if ((charCeils s c).get 2).toNat < s.fuse.charMin.toNat then some .failedSpeed else none
  let s' := allClus.foldl (fun t p => allPCores.foldl (fun t q =>
    if underTest s ⟨p, q⟩ then
      modCore ⟨p, q⟩ (fun k => { k with issue := { k.issue with charCeil := charCeils s ⟨p, q⟩, ageDerate := 0 } }) t
    else t) t) s
  let s' := failAll [] slow s'
  setStep 9 { s' with bring := { s'.bring with
    tMax := BitVec.ofInt 10 (temps.foldl max 0), guard := BitVec.ofNat 7 (temps.foldl (fun a t => max a (charGuard t)) 0), points := [] } }

/-! ## Repair (R474..R479) -/

/-- Good cores of a candidate cluster, ascending (R475). -/
def goodCores (s : State) (p : PClus) : List PCore := allPCores.filter (fun q => !fusedBad s ⟨p, q⟩ && !failedState (coreFound s ⟨p, q⟩))
/-- A good cluster. -/
def goodClus (s : State) (p : PClus) : Bool := candidate s p && !(getClus s p).repair.clusDis && 64 ≤ (goodCores s p).length
/-- Good clusters, ascending. -/
def goodClusters (s : State) : List PClus := allClus.filter (goodClus s)
/-- The physical clusters that become logical clusters 0..N-1 (R476). -/
def activeClusters (s : State) : List PClus := (goodClusters s).take (variantClusters s)
/-- CLUS_STATE of a cluster. -/
def clusFinal (s : State) (p : PClus) : ClusState :=
  if s.fuse.badClus.getLsbD p.val then .fusedBad
  else if s.fuse.offClus.getLsbD p.val then .fusedOff
  else if !s.ridge.en.getLsbD p.val then .routerDisabled
  else if (getClus s p).repair.clusDis then .failedStore
  else if (goodCores s p).length < 64 then .failedCores
  else if (activeClusters s).contains p then .active else .spare
/-- The cores that become logical cores 0..63 of an active cluster. -/
def activeFinal (s : State) (p : PClus) : List PCore := if (activeClusters s).contains p then (goodCores s p).take 64 else []
/-- STATE of a core. -/
def coreFinal (s : State) (c : CoreId) : CoreState :=
  if fusedBad s c then .fusedBad
  else if !candidate s c.clus then .untested
  else if failedState (coreFound s c) then coreFound s c
  else if (activeFinal s c.clus).contains c.core then .active else .spare
/-- The repair record of a cluster. -/
def repairFinal (s : State) (p : PClus) : ClusRepair :=
  let k := (getClus s p).repair
  let on := (activeClusters s).contains p
  { powered := on
    lclus := if on then BitVec.ofNat 6 ((activeClusters s).idxOf p) else 63
    state := clusFinal s p
    goodCores := if candidate s p then (goodCores s p).length else 0
    active := (activeFinal s p).foldl (fun a q => a ||| (1 <<< q.val)) 0
    cores := (allPCores.map (fun q => (q.val, coreFinal s ⟨p, q⟩))).filter (fun e => e.2 != .active)
    dis := k.dis
    clusDis := k.clusDis }
/-- The clusters that would be logical if none failed. -/
def plainClusters (s : State) : List PClus := (allClus.filter (fun p => !s.fuse.offClus.getLsbD p.val)).take (variantClusters s)
/-- A cluster at the end of repair: gated but for its active cores, which are held in reset with every store zero (R476, R479). -/
def repairClus (s0 : State) (p : PClus) (s : State) : State :=
  let r := repairFinal s0 p
  (activeFinal s0 p).foldl (fun s q => countFill ⟨p, q⟩ none (BitVec.allOnes 96) (modCore ⟨p, q⟩ (fun k => { k with presence := .reset }) s))
    (modClus p (fun k => { k with repair := r }) (gateClus p s))
/-- The repair step records what LBIST found in MXE_LANE_MAP of every core that it tested (R164). -/
def recordLanes (s : State) : State :=
  allClus.foldl (fun t p => allPCores.foldl (fun t q =>
    if (getClus s p).repair.powered && !fusedBad s ⟨p, q⟩ then modCore ⟨p, q⟩ (setLane (lbistState s.bring.lbist ⟨p, q⟩).2) t else t) t) s
/-- Step REPAIR ends, and READY is reached. -/
def endRepair (s : State) : State :=
  let s := recordLanes s
  let n := (activeClusters s).length
  let lanes := (activeClusters s).foldl (fun a p => a + ((activeFinal s p).filter (fun q => (getCore s ⟨p, q⟩).mxe.laneValid)).length) 0
  let bad := allClus.foldl (fun a p => a + (allPCores.filter (fun q => failedState (coreFinal s ⟨p, q⟩))).length) 0
  let spared := ((activeClusters s).filter (fun p => variantClusters s ≤ p.val && !(plainClusters s).contains p)).length
  let t := allClus.foldl (fun t p => repairClus s p t) s
  let t := { t with
    store := { t.store with words := [] }
    scrub := { t.scrub with line := 0, offered := false, since := t.tb.count }
    bring := { t.bring with
      step := 0xA, sub := 0, reached := true, lbist := [], readyEvent := true, active := BitVec.ofNat 6 n, good := BitVec.ofNat 6 (goodClusters s).length
      failedCores := min 255 bad, spared := BitVec.ofNat 4 spared, laneMaps := BitVec.ofNat 8 (min 255 lanes)
      degraded := n < variantClusters s
      lmap := Vector.ofFn (fun l : Fin 40 => match (activeClusters s)[l.val]? with | some p => BitVec.ofNat 6 p.val | none => 63) } }
  retarget (raiseEvt 0xF 0x108 t)

/-- BRINGUP_STEP (R463): the work of the step in progress completes at its present target, and after its last one the step; a step that a trip
has stopped does not (R480). -/
def bringupStep (f : StepFindings) (s : State) : State :=
  if bringPaused s then s
  else match s.bring.step.toNat with
    | 1 => endRails f s
    | 2 => endFuse f s
    | 3 => endSpine f s
    | 4 => endDiscovery s
    | 5 => endWaves s
    | 6 => lbistCorner f s
    | 7 => sramCorner f s
    | 8 => if atTarget s && charsDone s then targetDone endChar s else s
    | 9 => if atTarget s then endRepair s else s
    | _ => s
/-- BRINGUP_STEP (R463). -/
def execBringupStep (f : StepFindings) (s : State) : Host.Outcome State Fault Refusal := whenAwake s (bringupStep f)

/-- A warm bring-up may start (R464). -/
def rebringOk (s : State) : Bool := isReady s && allMassifs.all (fun m => (getMassif s m).state == .none)
/-- A warm bring-up (R464): refused unless the die is READY and no massif exists. A compute reset opens it, and every cluster is gated. -/
def rebring (s : State) : State :=
  if !rebringOk s then { s with bring := { s.bring with refused := true } }
  else
    let s := gateAll (compReset s)
    let s := allClus.foldl (fun s p => modClus p (fun k => { k with repair := Cluster.reset.repair }) s) s
    setStep 5 { s with bring := { s.bring with
      level := if s.bring.ctlLevel == 1 then 1 else 0, warm := true, reached := false, elapsedNs := 0, waves := 0, points := [], lbist := [], storeBad := [], sramBad := []
      active := 0, good := 0, failedCores := 0, spared := 0, disagree := 0, laneMaps := 0, degraded := false, tMax := 0, guard := 0
      disClus := 0, disCore := 0, disState := 0, disValid := false, lmap := Vector.replicate 40 63 } }
/-- REBRING (R464). -/
def execRebring (s : State) : Host.Outcome State Fault Refusal := whenAwake s rebring

end Sys2Proof.Machine
end

