-- ==== Sys2Proof/Machine/Registers.lean ====
section
/-! DEFINITION. What a read of register space returns (chapter 22): the page directory (R520), states of blocks (R522), the
common header (R524..R526), and every register that the chapters lay out, field by field. -/
namespace Sys2Proof.Machine

/-! ## Pages (R513, R520) -/

/-- A page of register space. -/
inductive Page where
  | die (n : Fin 16)
  | col (c : Col)
  | ridge
  | clus (p : PClus)
  | router (p : PClus)
  | coreA (c : CoreId)
  | coreB (c : CoreId)
  | absent
  deriving DecidableEq, Repr

/-- The page with a number (address bits [25:12]). -/
def pageAt (n : Nat) : Page :=
  if h : n < 16 then .die ⟨n, h⟩
  else if h : n - 16 < 16 then .col ⟨n - 16, h⟩
  else if n = 32 then .ridge
  else if n < 0x400 then .absent
  else
    let r := (n - 0x400) % 256
    if h : (n - 0x400) / 256 < 42 then
      let p : PClus := ⟨(n - 0x400) / 256, h⟩
      if r = 0 then .clus p
      else if r = 1 then .router p
      else if r < 16 then .absent
      else if hq : (r - 16) / 2 < 68 then
        if r % 2 = 0 then .coreA ⟨p, ⟨(r - 16) / 2, hq⟩⟩ else .coreB ⟨p, ⟨(r - 16) / 2, hq⟩⟩
      else .absent
    else .absent

/-- PAGE_STAT.STATE (R522), in the order of its codes. -/
inductive PageState where
  | on | reset | gated | fused
  deriving DecidableEq, Repr

/-- A cluster is fused bad, or fused off by the variant. -/
def clusFused (s : State) (p : PClus) : Bool := s.fuse.badClus.getLsbD p.val || s.fuse.offClus.getLsbD p.val
/-- State of a core's pages. -/
def coreState (s : State) (c : CoreId) : PageState :=
  if clusFused s c.clus || fusedBad s c then .fused
  else match (getCore s c).presence with
    | .off => .gated
    | .reset => .reset
    | .on => .on
/-- State of a cluster's page 0. -/
def clusPage (s : State) (p : PClus) : PageState :=
  if clusFused s p then .fused
  else if !(getClus s p).repair.powered then .gated
  else if isReady s then .on
  else .reset
/-- State of a router's page: a router left disabled is fused. -/
def routerPage (s : State) (p : PClus) : PageState :=
  if s.fuse.badRouters.getLsbD p.val || (s.ridge.routed && !s.ridge.en.getLsbD p.val) then .fused else .on
/-- PAGE_STAT.STATE of a page. -/
def pageState (s : State) : Page → PageState
  | .col c => if (getCol s c).state == .off then .fused else .on
  | .clus p => clusPage s p
  | .router p => routerPage s p
  | .coreA c | .coreB c => coreState s c
  | _ => .on

/-! ## Words -/

/-- A register from its fields: lowest bit, width, value. -/
def fields (l : List (Nat × Nat × Nat)) : Word := BitVec.ofNat 64 (l.foldl (fun a f => a + f.2.2 % 2 ^ f.2.1 * 2 ^ f.1) 0)
/-- One bit of a register. -/
def bit1 (pos : Nat) (b : Bool) : Nat × Nat × Nat := (pos, 1, bitOf b)

/-! ## The common header (R524..R526) -/

/-- A page holds an event that counts in the summaries. -/
def evtOn (s : State) (page : Nat) : Bool := let e := smGet Evt.reset s.evts page; e.pending && e.enable
/-- Bit p for each core of a cluster with an event (CLUS_EVT_SUM0 and the low bits of CLUS_EVT_SUM1). -/
def evtCores (s : State) (p : PClus) : Nat :=
  allPCores.foldl (fun a q => if evtOn s (pageCoreA ⟨p, q⟩) || evtOn s (pageCoreB ⟨p, q⟩) then a + 2 ^ q.val else a) 0
/-- A cluster's summary is not zero. -/
def evtClus (s : State) (p : PClus) : Bool := evtCores s p != 0 || evtOn s (pageClus p) || evtOn s (pageClus p + 1)
/-- EVT_SUM0.ANY. -/
def evtAny (s : State) : Bool := s.evts.any (fun e => e.2.pending && e.2.enable)
/-- EVT_SUM0. -/
def evtSum0 (s : State) : Word :=
  fields ((List.range 33).map (fun n => bit1 n (evtOn s n)) ++ [bit1 63 (evtAny s)])
/-- EVT_SUM1. -/
def evtSum1 (s : State) : Word := fields (allClus.map (fun p => bit1 p.val (evtClus s p)))

/-- PAGE_ID.KIND, INSTANCE and CORE. -/
def pageId : Page → Nat × Nat × Nat
  | .die n => (#v[1, 2, 3, 4, 5, 5, 5, 5, 6, 7, 8, 9, 0xA, 0xB, 0xC, 0xD].get n, if 4 ≤ n.val && n.val < 8 then n.val - 4 else 0, 127)
  | .col c => (0x10, c.val, 127)
  | .ridge => (0x11, 0, 127)
  | .clus p => (0x20, p.val, 127)
  | .router p => (0x21, p.val, 127)
  | .coreA c => (0x30, c.clus.val, c.core.val)
  | .coreB c => (0x31, c.clus.val, c.core.val)
  | .absent => (0, 0, 0)
/-- The page's Domain in R520 is Spine. -/
def pageSpine : Page → Bool
  | .die n => n.val < 4 || 8 ≤ n.val
  | .col _ | .ridge | .router _ => true
  | _ => false
/-- A header register; none at a reserved offset. -/
def headerRead (s : State) (pg : Page) (n off : Nat) : Option Word :=
  match off with
  | 0x00 => let (k, i, c) := pageId pg; some (fields [(0, 8, k), (8, 8, i), (16, 7, c), (32, 8, 1)])
  | 0x08 => some (fields [(0, 3, (pageState s pg).ctorIdx), bit1 3 (pageSpine pg)])
  | 0x10 =>
    let e := smGet Evt.reset s.evts n
    some (fields [bit1 0 e.pending, bit1 1 e.enable, (16, 9, e.word.toNat), (32, 32, e.count)])
  | 0x18 => match pg with | .clus p => some (fields [(0, 64, evtCores s p)]) | _ => none
  | 0x20 => match pg with
    | .clus p => some (fields [(0, 4, evtCores s p / 2 ^ 64), bit1 4 (evtOn s n), bit1 5 (evtOn s (n + 1))])
    | _ => none
  | _ => none

/-! ## Core pages -/

/-- A core as its pages show it: a gated or fused core shows P: values, but for what the spine holds (R522). -/
def coreView (s : State) (c : CoreId) : Core :=
  let k := getCore s c
  match coreState s c with
  | .on | .reset => k
  | _ => { Core.reset with
      issue := { IssueSt.reset with charCeil := k.issue.charCeil }
      mxe := { MxeSt.reset with laneColumn := k.mxe.laneColumn, laneBit := k.mxe.laneBit, laneValid := k.mxe.laneValid } }
/-- Core page A (chapter 01). -/
def coreARead (s : State) (c : CoreId) (off : Nat) : Option Word :=
  let k := coreView s c
  let i := k.issue
  let live := coreState s c == .on || coreState s c == .reset
  match off with
  | 0x100 => some (fields [(0, 48, i.beat.toNat), bit1 48 i.wrapped])
  | 0x108 => some (fields [(0, 4, (if live then waitShown s c else i.waitCause).ctorIdx), (8, 7, i.waitUnits.toNat)])
  | 0x110 => some (fields ((List.range 4).map (fun j => (16 * j, 16, (i.charCeil.getD j 0).toNat))))
  | 0x118 => some (if live then
      fields [(0, 12, effective s c), (12, 12, coreChar s c), (24, 8, i.ageDerate.toNat), (32, 12, pmLimit s c), (44, 12, i.hostLimit.toNat)]
    else fields [(32, 12, 0xFFF), (44, 12, 0xFFF)])
  | _ => none
/-- MXE and OST registers (chapters 05, 07); MXE_STAT of a core that is not live shows P: values. -/
def enginesRead (live : Bool) (k : Core) (off : Nat) : Option Word :=
  let m := k.mxe
  let o := k.ost
  match off with
  | 0x100 => some (fields [bit1 0 (live && m.laneValid), bit1 1 m.shadowValid, bit1 2 m.configTrapped, (8, 9, m.cursor.toNat / 32)])
  | 0x108 => some (fields [(0, 4, m.cfgFail.code.toNat), (4, 2, m.cfgFail.set.toNat), (8, 6, m.cfgFail.opcode.toNat), bit1 14 m.cfgFail.multiple])
  | 0x110 => some (fields [(0, 5, m.laneColumn.toNat), (5, 6, m.laneBit.toNat), bit1 11 m.laneValid])
  | 0x118 => some (fields [(0, 48, m.passCount.toNat)])
  | 0x180 => some (fields [bit1 0 o.configTrapped, bit1 1 o.outOverflow])
  | 0x188 => some (fields [(0, 4, o.cfgFail.code.toNat), (4, 2, o.cfgFail.set.toNat), bit1 6 o.cfgFail.multiple, bit1 7 o.failSrc])
  | 0x190 => some (fields [(0, 48, o.rowCount.toNat)])
  | _ => none
/-- VXE registers (chapter 08), and the trap record (chapter 09). -/
def vectorRead (k : Core) (off : Nat) : Option Word :=
  let v := k.vxe
  let t := k.trap
  match off with
  | 0x200 => some (fields [bit1 0 v.overflow, bit1 1 v.divzero])
  | 0x208 => some (fields [(0, 48, v.opCount.toNat)])
  | 0x210 => some (fields [(0, 4, v.selVreg.toNat), (4, 5, v.selWord.toNat)])
  | 0x218 => some (BitVec.ofNat 64 (leNat (memRead v.vregs (256 * v.selVreg.toNat + 8 * v.selWord.toNat) 8)))
  | 0x300 => some (fields [bit1 0 t.valid, bit1 1 t.multiple, (4, 4, t.cause.toNat), (8, 3, t.engine.toNat), (16, 7, t.pos.toNat),
      (24, 8, t.stp.toNat), (32, 5, t.row.toNat), bit1 37 t.cycle, (38, 18, t.addr.toNat)])
  | 0x308 => some (fields [(0, 48, t.beat.toNat)])
  | 0x310 => some (fields [(0, 32, t.tileId.toNat), (32, 24, t.gpass.toNat), (56, 2, t.set.toNat), bit1 58 t.final, bit1 59 t.chain, bit1 60 t.narrow])
  | 0x318 => some (fields [bit1 0 t.saturated, bit1 1 t.flushed, bit1 2 t.pairOverflow, (32, 16, t.causeCount.toNat)])
  | _ => none
/-- Ledge registers (chapters 10, 20). -/
def ledgeRegs (s : State) (k : Core) (off : Nat) : Option Word :=
  let l := k.ledge
  match off with
  | 0x400 => some (fields [bit1 0 l.outOfRange, bit1 1 l.cacheRegion, bit1 2 l.parity, bit1 3 (l.scrubMap != 0), bit1 4 l.cacheActive,
      (16, 9, dieLines s)])
  | 0x408 => some (fields [(0, 19, l.oorAddr.toNat), bit1 19 l.oorRegion, (20, 4, l.oorReq.toNat), bit1 24 l.oorValid, (32, 16, l.oorCount)])
  | 0x410 => some (match l.perr with
    | some h => fields [(0, 9, h.line.toNat), (9, 4, h.word.toNat), (16, 16, h.groups.toNat), (32, 4, h.req.toNat), bit1 36 true,
        bit1 37 l.perrMultiple, (48, 16, l.perrCount)]
    | none => fields [bit1 37 l.perrMultiple, (48, 16, l.perrCount)])
  | 0x418 => some (bitsAt l.scrubMap 0 64)
  | 0x420 => some ((bitsAt l.scrubMap 64 32).setWidth 64)
  | 0x428 => some (fields [(0, 32, l.inserted), (32, 4, l.landHwm)])
  | 0x430 => some (fields [(0, 32, l.hits), (32, 32, l.misses)])
  | 0x700 => some (bitsAt l.scrubbed 0 64)
  | 0x708 => some ((bitsAt l.scrubbed 64 32).setWidth 64)
  | _ => none
/-- The chunk that TX_DL_NEXT shows, with its deadline. -/
def nextDeadline (q : Stream) : Option (BitVec 48) := if q.st == .idle then none else chunkDeadline q q.nextSignal
/-- Transfer registers (chapters 11, 12). -/
def xferRead (k : Core) (off : Nat) : Option Word :=
  let x := k.xfer
  let q := x.streams.get x.sel.toFin
  let idx (d : Nat) : Nat := q.fidx.getD d 0
  match off with
  | 0x500 => some (fields ((List.finRange 8).map (fun h => (4 * h.val, 3, (x.streams.get h).st.ctorIdx)) ++
      (List.finRange 8).map (fun h => bit1 (32 + h.val) (x.streams.get h).errored)))
  | 0x508 => some (fields [(0, 3, x.sel.toNat)])
  | 0x510 => some (fields [(0, 4, q.fcode.toNat), bit1 4 q.fwrite, (5, 2, q.flevel.toNat), bit1 7 q.fvalid, (8, 32, q.fchunk)])
  | 0x518 => some q.fva
  | 0x520 => some (fields ((List.range 4).map (fun d => (16 * d, 16, idx d))))
  | 0x528 => some (fields [(0, 16, idx 4), (32, 19, q.fdesc.toNat)])
  | 0x530 => some 0
  | 0x538 => some (fields [(0, 32, x.chunksSig), (32, 16, x.absentPuts), (48, 16, x.faults)])
  | 0x540 => some (fields [(0, 48, x.cancelBytes)])
  | 0x580 => some (fields [(0, 32, x.misses), (32, 32, x.lateMax)])
  | 0x588 => some (match nextDeadline q with
    | some d => fields [(0, 48, d.toNat), bit1 48 true, bit1 49 q.tracked, bit1 50 (beatBefore d k.issue.beat)]
    | none => fields [bit1 49 q.tracked])
  | _ => none
/-- Cairn, epoch and recovery registers (chapters 13, 14, 21). -/
def syncRead (s : State) (c : CoreId) (k : Core) (off : Nat) : Option Word :=
  let a := k.cairn
  let e := k.epoch
  let r := k.err
  let held := (getClus s c.clus).held.filter (fun h => h.core == c.core && h.counted)
  match off with
  | 0x600 => some (fields [(0, 6, a.sel.toNat)])
  | 0x608 => some (fields [(0, 32, smGet 0 a.counts a.sel.toNat), bit1 32 (!smGet false a.closed a.sel.toNat), (40, 16, smGet 0 a.late a.sel.toNat)])
  | 0x610 => some (fields [bit1 0 a.lateAny, bit1 1 a.ovf, bit1 2 a.swaitEmpty, bit1 3 a.disabledCtx, (8, 6, a.firstLate.toNat),
      bit1 14 a.firstLateValid])
  | 0x618 => some (fields [(0, 32, a.dropCount), (32, 4, a.dropDie.toNat), bit1 36 a.dropValid])
  | 0x620 => some (fields [(0, 2, a.waitKind.toNat), (2, 6, a.waitIdx.toNat), (32, 32, a.waitNeed.toNat)])
  | 0x680 => some (fields [(0, 4, e.stack.length), bit1 4 e.depthErr, bit1 5 e.openAtEnd, bit1 6 e.commitWait, (16, 16, e.commits),
      (32, 16, e.discards), (48, 16, e.relErrors)])
  | 0x688 => some (fields [(0, 10, (held.map (·.slots)).sum), (16, 11, held.length)])
  | 0x690 => some (fields [(0, 48, e.discBytes)])
  | 0x780 => some (fields [bit1 0 r.valid, bit1 1 r.failed, (4, 4, r.cause.toNat), (8, 4, r.req.toNat), (12, 6, r.opcode.toNat),
      (20, 3, r.runs.toNat), (24, 18, r.addr.toNat)])
  | 0x788 => some (fields [(0, 48, r.beat.toNat)])
  | 0x790 => some (fields [(0, 9, r.line.toNat), (9, 4, r.word.toNat), (16, 16, r.groups.toNat)])
  | 0x798 => some (fields [(0, 32, r.reruns), (32, 32, r.gateDropped)])
  | _ => none
/-- Core page B. -/
def coreBRead (s : State) (c : CoreId) (off : Nat) : Option Word :=
  let k := coreView s c
  if off < 0x200 then enginesRead (coreState s c == .on || coreState s c == .reset) k off
  else if off < 0x400 then vectorRead k off
  else if off < 0x500 || (0x700 ≤ off && off < 0x780) then ledgeRegs s k off
  else if off < 0x600 then xferRead k off
  else syncRead s c k off

/-! ## Cluster and router pages -/

/-- A cluster as page 0 shows it: a gated or fused one shows P: values, but for what the spine holds. -/
def clusView (s : State) (p : PClus) : Cluster :=
  match clusPage s p with
  | .on | .reset => getClus s p
  | _ => { Cluster.reset with repair := (getClus s p).repair }
/-- CLUS_TRAP_SUM.CORES: counted live. -/
def trappedCores (s : State) (p : PClus) : Nat := (allPCores.filter (fun q => (coreView s ⟨p, q⟩).trap.valid)).length
/-- Cluster page 0 (chapters 01, 09, 14, 18, 19). -/
def clusRead (s : State) (p : PClus) (off : Nat) : Option Word :=
  let k := clusView s p
  let r := k.repair
  match off with
  | 0x180 => some (fields [(0, 12, k.fifo.length), (16, 12, k.highWater), (32, 16, k.fullCount)])
  | 0x200 => some (fields [bit1 0 k.trapValid, bit1 1 k.trapMultiple, (4, 4, k.trapCause.toNat), (8, 3, k.trapEngine.toNat),
      (16, 7, k.trapCore.toNat), (24, 7, trappedCores s p)])
  | 0x208 => some k.trapStamp
  | 0x280 => some (fields [(0, 10, storeSlots k), (16, 11, storeEntries k), (32, 10, k.slotsHwm), (48, 15, k.heldFull)])
  | 0x300 => some (fields [(0, 32, k.droopCount), bit1 32 k.droopActive, (33, 3, if k.droopActive then k.droopStep.toNat + 1 else 0)])
  | 0x380 => some (fields [(0, 6, r.lclus.toNat), (6, 4, clusStateCode r.state), (10, 7, r.goodCores)])
  | 0x388 => some (bitsAt r.active 0 64)
  | 0x390 => some ((bitsAt r.active 64 4).setWidth 64)
  | _ => none
/-- The router page (chapter 15). -/
def routerRead (s : State) (p : PClus) (off : Nat) : Option Word :=
  let k := getClus s p
  match off with
  | 0x100 => some (fields [(0, 32, k.dataHolds), (32, 32, k.promoted)])
  | 0x108 => some k.flits
  | 0x110 => some (fields [(0, 32, k.absentCount), (32, 4, k.absentDie.toNat), (36, 6, k.absentLclus.toNat), (42, 7, k.absentLcore.toNat),
      bit1 49 k.absentWrite, bit1 50 k.absentValid])
  | _ => none

/-! ## Col and ridge pages -/

/-- A col as its page shows it: one left OFF shows P: values, but for its state and the cause (R522). -/
def colView (s : State) (c : Col) : ColSt :=
  let k := getCol s c
  if k.state == .off then { ColSt.reset with state := .off, downCause := k.downCause } else k
/-- A col page (chapter 16). -/
def colRead (s : State) (c : Col) (off : Nat) : Option Word :=
  let k := colView s c
  let recent := (k.mismatches.filter (fun t => s.tb.ranNs < t + 100000000)).length
  match off with
  | 0x100 => some (fields [bit1 2 k.autoRetrain, bit1 3 k.disable, (4, 2, k.maxRate.toNat), bit1 6 k.maxWidth])
  | 0x108 => some (fields [(0, 3, k.state.ctorIdx), (3, 2, k.rate.toNat), bit1 5 k.x32, bit1 6 k.upper, bit1 7 k.widthLimit,
      (8, 4, k.downCause.toNat), (12, 2, min 3 recent), (16, 8, k.partnerMajor.toNat), (24, 8, k.partnerMinor.toNat),
      (32, 4, k.partnerPort.toNat), (36, 4, k.partnerKind.toNat)])
  | 0x110 => some k.laneFail
  | 0x118 => some (fields [(0, 16, k.crcErrors), (16, 16, k.replays), (32, 8, k.retrains), (40, 8, k.downEvents), (48, 8, k.malformed)])
  | 0x120 => some (fields [(0, 16, k.summitUnmatched), (16, 16, k.signalsDropped), (32, 16, k.absents), (48, 16, k.unknownTag)])
  | 0x128 => some (fields [(0, 32, k.txFlits.toNat), (32, 32, k.rxFlits.toNat)])
  | _ => none
/-- Ordered pairs of routers with a VIA route. -/
def viaPairs (en : BitVec 42) : Nat :=
  ((List.range 42).flatMap (fun a => (List.range 42).filter (fun b => match routeOf en a b with | .via _ _ => true | _ => false))).length
/-- The ridge page (chapter 15). -/
def ridgeRead (s : State) (off : Nat) : Option Word :=
  let r := s.ridge
  match off with
  | 0x100 => some (fields [bit1 0 r.unroutable,
      (8, 6, if r.routed then ((List.range 42).filter (fun p => !r.en.getLsbD p)).length else 0),
      (16, 11, if r.routed then viaPairs r.en else 0), (32, 32, r.dieAbsent)])
  | 0x108 => some (r.en.setWidth 64)
  | 0x110 => some (fields [(0, 6, r.selSrc.toNat), (8, 6, r.selDst.toNat)])
  | 0x118 => some (match routeOf r.en r.selSrc.toNat r.selDst.toNat with
    | .none => fields [(0, 2, 3)]
    | .direct h => fields [(0, 2, 0), (16, 4, h)]
    | .via w h => fields [(0, 2, 1), (8, 6, w), (16, 4, h)])
  | _ => none

/-! ## Sequencer pages -/

/-- A program has started since the last reset of the sequencer: it has left IDLE, but for LOAD and CHECK. -/
def seqBegun (q : SeqSt) : Bool := (if q.state == .loading || q.state == .checking then q.prev else q.state) != .idle
/-- Sequencer registers (chapter 02). -/
def seqRead (s : State) (m : Massif) (off : Nat) : Option Word :=
  let q := getSeq s m
  match off with
  | 0x100 => some 0
  | 0x108 => some (fields [(0, 3, q.state.ctorIdx), bit1 3 (q.state == .loading || q.state == .checking), (4, 4, q.result.ctorIdx), bit1 8 q.checked,
      (9, 3, q.haltCause.ctorIdx), bit1 12 q.fetchParity, bit1 13 q.wdogExpired, (14, 2, q.hold.ctorIdx)])
  | 0x110 => some (fields [(0, 11, q.base.toNat), (16, 12, q.size.toNat)])
  | 0x118 => some (fields [(0, 18, q.entry.toNat)])
  | 0x120 => some q.loadSrc
  | 0x128 => some (fields [(0, 19, q.loadCount.toNat), (20, 18, q.loadDest.toNat)])
  | 0x130 => some (fields [(0, 4, q.checkCode.toNat), (8, 18, q.checkAddr.toNat), (26, 3, q.checkSlot.toNat), (32, 16, q.violations)])
  | 0x180 => some (fields [(0, 48, if seqBegun q then ((minBeat s m).getD q.nextBeat).toNat else 0)])
  | 0x188 => some (fields [(0, 16, q.mark.toNat), (16, 48, q.markBeat.toNat)])
  | 0x190 => some (fields [(0, 18, q.fetchAddr.toNat)])
  | 0x198 => some (fields [(0, 6, q.wdogLimit.toNat), bit1 6 q.wdogAction])
  | _ => if 0x140 ≤ off && off ≤ 0x178 then some (q.params.getD ((off - 0x140) / 8) 0) else none
/-- Some core of a massif satisfies a condition; how many do. -/
def anyCore (s : State) (m : Massif) (f : Core → Bool) : Bool := (massifCores s m).any (fun c => f (getCore s c))
def countCores (s : State) (m : Massif) (f : Core → Bool) : Nat := ((massifCores s m).filter (fun c => f (getCore s c))).length
/-- Streams of a massif that satisfy a condition. -/
def countStreams (s : State) (m : Massif) (f : Stream → Bool) : Nat :=
  ((massifCores s m).map (fun c => ((getCore s c).xfer.streams.toList.filter f).length)).sum
/-- MASSIF_EXC (R235, R237). -/
def massifExc (s : State) (m : Massif) : Word :=
  fields [bit1 0 (anyCore s m (·.trap.saturated)), bit1 1 (anyCore s m (·.trap.flushed)), bit1 2 (anyCore s m (·.trap.pairOverflow)),
    bit1 3 (anyCore s m (·.ost.outOverflow)), bit1 4 (anyCore s m (·.vxe.overflow)), bit1 5 (anyCore s m (·.vxe.divzero)),
    bit1 6 (anyCore s m (·.trap.valid)), bit1 7 (anyCore s m (·.trap.anyConfig)),
    bit1 8 ((getMassif s m).haltPending && running s m), (16, 12, countCores s m (·.trap.valid))]
/-- Numeric, ledge, transfer, deadline and power registers of a massif (chapters 06, 09, 10, 11, 12, 14, 18, 20, 21). -/
def massifRead (s : State) (m : Massif) (off : Nat) : Option Word :=
  let k := getMassif s m
  match off with
  | 0x1A0 => some k.seed
  | 0x1A8 => some (fields [bit1 0 k.seedMode])
  | 0x1B0 => some (fields [(0, 2, k.trapMode.toNat)])
  | 0x1B8 => some (massifExc s m)
  | 0x1C0 => some (fields [bit1 0 k.cacheEn])
  | 0x1C8 => some (bitsAt k.resident 0 64)
  | 0x1D0 => some ((bitsAt k.resident 64 32).setWidth 64)
  | 0x1D8 => some 0
  | 0x1E0 => some (fields [bit1 0 k.ttValid, (12, 28, k.ttBase.toNat)])
  | 0x1E8 => some (fields [(0, 16, countStreams s m (fun q => q.st == .faulted)), bit1 16 k.txErrored])
  | 0x1F0 => some 0
  | 0x200 => some (fields [(0, 14, k.tagMin.toNat), (16, 14, k.tagMax.toNat), bit1 32 k.missEvent])
  | 0x208 => some (fields [(0, 32, k.dlMisses), (32, 15, countStreams s m (·.tracked)),
      (48, 15, (s.trk.queue.filter (fun e => massifOf s e.1 == some m)).length)])
  | 0x300 => some (fields [bit1 0 (anyCore s m (·.epoch.depthErr)), bit1 1 (anyCore s m (·.epoch.openAtEnd)), bit1 2 k.heldFull])
  | 0x340 => some (fields [(0, 10, k.vReq.toNat)])
  | 0x380 => some 0
  | 0x388 => some (k.mask.setWidth 64)
  | 0x390 => some (fields [(0, 3, k.state.ctorIdx), (3, 4, k.result.ctorIdx),
      (7, 6, if k.state == .active || k.state == .resetting then (memberClus k).length else 0), (14, 7, k.survived)])
  | 0x3A0 => some (fields [bit1 0 (anyCore s m (·.err.failed)), (16, 12, countCores s m (·.err.failed))])
  | _ => if 0x348 ≤ off && off ≤ 0x370 then some (BitVec.ofNat 64 (k.energy.getD ((off - 0x348) / 8) 0 / 36000000000)) else none
/-- Summit registers (chapter 13). -/
def summitRead (s : State) (m : Massif) (off : Nat) : Option Word :=
  let k := (getMassif s m).summit
  let i := getInst s m (instKey (ctxScope s m k.selCtx) k.selCtx k.selClus.toNat)
  match off with
  | 0x240 => some ((getMassif s m).jobTag.setWidth 64)
  | 0x248 => some (fields [(0, 16, k.nodeId.toNat), (16, 5, k.parent.toNat), (32, 16, k.children.toNat), bit1 48 k.follow])
  | 0x250 => some (fields [(0, 4, k.selCtx.toNat), (4, 6, k.selClus.toNat)])
  | 0x258 => some (fields [(0, 32, i.gen.toNat), (32, 12, i.arrived.length), (48, 16, i.childArr.toNat)])
  | 0x260 => some (fields [(0, 32, i.skew), (32, 32, i.wait)])
  | 0x268 => some (fields [(0, 16, k.held.toNat), (16, 16, k.broken.toNat), bit1 32 k.genErr, bit1 33 (treeBad s k)])
  | 0x270 => some (fields [(0, 5, k.consec), bit1 5 k.straggler, (16, 16, k.lastNode.toNat)])
  | 0x278 => some (fields [(0, 12, k.rate.toNat), (12, 4, k.throttle.toNat), (16, 16, k.rateNode.toNat), bit1 32 k.followActive])
  | _ => if 0x280 ≤ off && off ≤ 0x2F8 then some ((k.ctxs.getD ((off - 0x280) / 8) 0).setWidth 64) else none
/-- The page of a sequencer. -/
def seqPageRead (s : State) (m : Massif) (off : Nat) : Option Word :=
  if off < 0x1A0 then seqRead s m off
  else if 0x240 ≤ off && off < 0x300 then summitRead s m off
  else massifRead s m off

/-! ## Die-level pages -/

/-- The die identity page (chapter 22). -/
def identRead (s : State) (off : Nat) : Option Word :=
  let f := s.fuse
  let r := s.ident
  match off with
  | 0x100 => some (fields [(0, 8, f.stepping.toNat), (8, 16, 0x4A71), (24, 11, f.mfr.toNat), (40, 8, 1), (56, 4, s.disc.id.toNat), bit1 60 s.disc.idValid])
  | 0x108 => some (f.serial.setWidth 64)
  | 0x110 => some (fields [(0, 2, f.variant.toNat), (2, 6, s.bring.active.toNat), (8, 6, variantClusters s), bit1 14 (f.variant == 2),
      (16, 16, (colMask s).toNat), (32, 32, f.features.toNat)])
  | 0x118 => some (fields [(0, 16, r.refusedWr), (16, 16, r.ignored), (32, 26, r.firstAddr.toNat), bit1 58 r.firstWrite, bit1 59 r.firstValid])
  | 0x180 => some (evtSum0 s)
  | 0x188 => some (evtSum1 s)
  | 0x190 => some (fields [bit1 0 r.notifyEn, (1, 4, r.notifyDst.toNat), (5, 23, r.notifyAddr.toNat), (32, 16, r.sent)])
  | _ => none
/-- FAULT_N is held by a fatal error, or by a trip (R510). -/
def faultN (s : State) : Bool := s.err.fatal || s.therm.tripped
/-- Timebase, die trap and error pages (chapters 01, 09, 21). -/
def trapPageRead (s : State) (off : Nat) : Option Word :=
  let e := s.err
  match off with
  | 0x100 => some (fields [bit1 0 e.trapValid, bit1 1 e.trapMultiple, (2, 2, e.trapMassif.toNat), (4, 4, e.trapCause.toNat), (8, 3, e.trapEngine.toNat),
      (16, 6, e.trapClus.toNat), (24, 7, e.trapCore.toNat)])
  | 0x108 => some e.trapStamp
  | 0x180 => some (fields [bit1 0 e.fatal, (4, 4, e.cause.toNat), (8, 4, e.unit.toNat), (12, 6, e.pclus.toNat), bit1 20 e.fatal, bit1 21 s.therm.tripped,
      (32, 16, e.tcParity)])
  | 0x188 => some e.time
  | 0x190 => some 0
  | 0x198 => some (fields [(0, 56, e.partnerSerial.toNat), (56, 4, e.partnerCause.toNat), bit1 60 e.partnerValid])
  | _ => none
/-- Small pages: timebase, program store, scrub, translation cache, tracker (chapters 01, 02, 10, 11, 12). -/
def smallRead (s : State) (n off : Nat) : Option Word :=
  match n, off with
  | 0x1, 0x100 => some s.tb.count
  | 0x1, 0x108 => some (fields [bit1 0 s.tb.locked, bit1 1 s.tb.aligned, bit1 2 s.tb.lockLost])
  | 0x3, 0x100 => some (fields [(3, 20, s.store.addr.toNat)])
  | 0x3, 0x108 => some (smGet 0 s.store.words s.store.addr.toNat)
  | 0x3, 0x110 => some (fields [(0, 16, s.store.blocked), bit1 16 s.store.readParity])
  | 0x8, 0x100 => some (fields [bit1 0 s.scrub.en, (1, 6, s.scrub.interval.toNat)])
  | 0x8, 0x108 => some (fields [(0, 32, s.scrub.passes), (32, 9, s.scrub.line.toNat),
      bit1 48 ((scrubCores s).any (fun c => (getCore s c).ledge.scrubMap != 0))])
  | 0x9, 0x100 => some 0
  | 0x9, 0x108 => some (fields [bit1 0 !s.tc.inval.isEmpty, (16, 16, s.tc.entries.length)])
  | 0x9, 0x110 => some s.tc.hits
  | 0x9, 0x118 => some s.tc.misses
  | 0xA, 0x100 => some (fields [(0, 15, s.trk.tracked), (16, 15, s.trk.queue.length), (32, 15, s.trk.trackedHwm)])
  | 0xA, 0x108 => some (fields [(0, 14, tagsInUse s), (16, 14, s.trk.tagHwm), (32, 32, s.trk.waits)])
  | 0xA, 0x110 => some (fields [(0, 16, s.trk.ageLimit.toNat)])
  | _, _ => none
/-- DISC_ROUTE as a register (R425). -/
def routeWord (e : RouteEntry) : Word :=
  fields [(0, 16, e.cols.toNat), (16, 3, e.count.toNat), (20, 3, e.spread.toNat), (24, 4, e.mcol.toNat), bit1 28 e.mvalid]
/-- Discovery and interconnect-test pages (chapter 17). -/
def discRead (s : State) (off : Nat) : Option Word :=
  let d := s.disc
  match off with
  | 0x100 => some (fields [(0, 4, d.result.toNat), bit1 4 d.crown, bit1 5 d.holdover, (8, 4, d.id.toNat), (12, 4, (d.clockCol.map (·.val)).getD 15), (16, 3, d.depth.toNat),
      (20, 4, d.dies.toNat), (24, 4, d.hubs.toNat), (32, 8, d.incompat.toNat), (48, 8, d.minStepping.toNat)])
  | 0x108 => some (fields [(0, 32, s.fuse.features.toNat), (32, 32, d.negotiated.toNat)])
  | 0x110 => some (fields [(0, 32, d.rtt.toNat), (32, 32, d.offset.toNat)])
  | _ => if 0x140 ≤ off && off ≤ 0x198 then some (routeWord (d.routes.getD ((off - 0x140) / 8) ⟨0, 0, 0, 0, false⟩)) else none
def itestRead (s : State) (off : Nat) : Option Word :=
  let t := s.itest
  match off with
  | 0x100 => some (fields [(0, 4, t.col.toNat), (4, 3, t.pattern.toNat), bit1 8 t.tx, bit1 9 t.rx, (10, 2, t.rate.toNat)])
  | 0x108 => some (fields [(0, 2, t.state.toNat), bit1 2 t.refused, bit1 3 t.sync, (32, 32, t.errors)])
  | 0x110 => some t.lanes
  | 0x118 => some (t.aux.setWidth 64)
  | _ => none
/-- PM_QUADq (R450, R446, R456). -/
def quadWord (s : State) (q : Fin 4) : Word :=
  let k := s.pm.quads.get q
  let runs := (quadMassifs s q).any (running s)
  fields [(0, 10, k.target.toNat), (16, 10, k.readback.toNat), (32, 10, if k.target == 0 then 0 else (quadDemand s q).toNat),
    (48, 8, if runs then s.pm.capV else 0), (56, 8, k.thermV + (32 - k.thermPace))]
/-- The power manager's page, with AVS_STAT and ELEC_STAT (chapters 18, 23). -/
def pmRead (s : State) (off : Nat) : Option Word :=
  let p := s.pm
  match off with
  | 0x100 => some (fields [(0, 11, p.cap.toNat), (11, 3, p.prio.toNat), bit1 14 p.capEn])
  | 0x108 => some (fields [(0, 10, p.vFloor.toNat), bit1 10 p.hintEn, (11, 12, p.hintLead.toNat), (23, 4, p.paceFloor.toNat), bit1 27 p.boostEn,
      (28, 8, p.droopTh.toNat)])
  | 0x110 => some (fields [(0, 4, dieThrottle s), (4, 4, limiter s), (8, 6, p.kPace), bit1 14 (p.quads.any (·.changed)), bit1 15 p.overCap])
  | 0x118 => some p.power
  | 0x120 => some (fields [(0, 48, p.window.toNat), bit1 48 p.windowValid])
  | 0x140 => some (quadWord s 0)
  | 0x148 => some (quadWord s 1)
  | 0x150 => some (quadWord s 2)
  | 0x158 => some (quadWord s 3)
  | 0x160 => some (fields [(0, 5, p.linkJ)])
  | 0x180 => some (fields [(0, 6, p.weightSel.toNat)])
  | 0x188 => some (fields [(0, 32, weightOf s p.weightSel.toNat)])
  | 0x190 => some (fields [(0, 3, p.classSel.toNat)])
  | 0x198 => some (BitVec.ofNat 64 (p.classEnergy.getD p.classSel.toNat 0 / 36000000000))
  | 0x1A0 => some (fields [bit1 0 p.telemEn, (1, 4, p.telemDst.toNat), (5, 8, p.telemPeriod.toNat), bit1 13 p.telemPower, bit1 14 p.telemEnergy])
  | 0x1C0 => some (fields ((List.finRange 4).map (fun q => bit1 q.val (p.quads.get q).railFail) ++ [(16, 16, p.failedFrames), (32, 32, p.frames.toNat)]))
  | 0x1C8 => some (fields [bit1 0 s.pins.pwrgd, bit1 1 (faultN s), (4, 4, p.boRail.toNat), bit1 8 p.boValid, (16, 16, p.boCount)])
  | _ => none
/-- The thermal page (chapter 18). -/
def thermRead (s : State) (off : Nat) : Option Word :=
  let t := s.therm
  let (top, at_) := hottest s (workingSensors s 0 64)
  match off with
  | 0x100 => some (fields [(0, 8, t.warn.toNat), (8, 8, t.throt.toNat), (16, 8, t.trip.toNat), (24, 4, t.hyst.toNat)])
  | 0x108 => some (fields ([(0, 10, top), (10, 6, at_), bit1 16 t.warned, bit1 21 t.tripped, bit1 22 t.tripSeen,
      bit1 23 ((List.finRange 4).any (sensorsFailed s)), (24, 8, t.tripCount)] ++
      (List.finRange 4).map (fun q => let k := s.pm.quads.get q; bit1 (17 + q.val) (0 < k.thermV || k.thermPace < 32))))
  | 0x110 => some (fields [(0, 6, t.sel.toNat)])
  | 0x118 => some (fields [(0, 10, (t.temps.get t.sel.toFin).toNat), bit1 10 (t.failed.getLsbD t.sel.toNat)])
  | _ => none
/-- REPAIR_VIEW: 0 before REPAIR completes, and where the selector names no core. -/
def repairView (s : State) : Word :=
  if h : isReady s ∧ s.bring.selClus.toNat < 42 ∧ s.bring.selCore.toNat < 68 then
    let c : CoreId := ⟨⟨s.bring.selClus.toNat, h.2.1⟩, ⟨s.bring.selCore.toNat, h.2.2⟩⟩
    let k := getClus s c.clus
    let on := k.repair.active.getLsbD c.core.val
    fields [(0, 4, coreStateCode (coreFound s c)), bit1 4 (k.repair.dis.getLsbD c.core.val), bit1 5 (getCore s c).mxe.laneValid,
      (6, 7, if on then logCore k c.core else 127), (14, 6, k.repair.lclus.toNat), (20, 4, clusStateCode k.repair.state)]
  else 0
/-- LMAPi. -/
def lmapWord (s : State) (i : Nat) : Word := fields ((List.range 10).map (fun j => (6 * j, 6, (s.bring.lmap.getD (10 * i + j) 63).toNat)))
/-- The bring-up page, compute reset and isolation (chapters 19, 20). -/
def bringRead (s : State) (off : Nat) : Option Word :=
  let b := s.bring
  match off with
  | 0x100 => some (fields [(0, 2, b.ctlLevel.toNat)])
  | 0x108 => some (fields [(0, 4, b.step.toNat), (4, 4, b.sub.toNat), (8, 4, b.fail.toNat), (12, 2, b.level.toNat), bit1 14 b.warm, bit1 15 (bringPaused s),
      bit1 16 b.refused, bit1 17 b.degraded, bit1 18 b.ignoredReset, bit1 19 b.readyEvent, (32, 32, b.elapsedNs / 1000000)])
  | 0x110 => some (fields [(0, 6, b.active.toNat), (6, 6, b.good.toNat), (12, 8, b.failedCores), (20, 4, b.spared.toNat), (24, 8, b.disagree),
      (32, 8, b.laneMaps.toNat)])
  | 0x118 => some (fields [(0, 6, b.selClus.toNat), (8, 7, b.selCore.toNat)])
  | 0x120 => some (repairView s)
  | 0x128 => some (fields [(0, 10, b.tMax.toNat), (16, 7, b.guard.toNat), (32, 12, s.fuse.charMin.toNat)])
  | 0x130 => some (fields [(0, 6, b.disClus.toNat), (8, 7, b.disCore.toNat), (16, 4, b.disState.toNat), bit1 20 b.disValid])
  | 0x140 => some (lmapWord s 0)
  | 0x148 => some (lmapWord s 1)
  | 0x150 => some (lmapWord s 2)
  | 0x158 => some (lmapWord s 3)
  | 0x180 => some (fields [bit1 1 b.compBusy, (32, 16, b.compCount)])
  | 0x188 => some (fields [bit1 0 s.fuse.debugLock, bit1 1 (allMassifs.any (fun m => (getMassif s m).filling)), (8, 16, b.teardowns),
      (24, 24, b.debugRefused)])
  | _ => none
/-- A die-level page. -/
def diePageRead (s : State) (n : Fin 16) (off : Nat) : Option Word :=
  match n.val with
  | 0x0 => identRead s off
  | 0x2 => trapPageRead s off
  | 0x4 => seqPageRead s 0 off
  | 0x5 => seqPageRead s 1 off
  | 0x6 => seqPageRead s 2 off
  | 0x7 => seqPageRead s 3 off
  | 0xB => discRead s off
  | 0xC => itestRead s off
  | 0xD => pmRead s off
  | 0xE => thermRead s off
  | 0xF => bringRead s off
  | n => smallRead s n off

/-! ## Register space -/

/-- The register at an address (a multiple of 8): its value, or none for an unimplemented address (R521). A reserved offset
of the header is assigned to no register. -/
def regValue (s : State) (addr : Nat) : Option Word :=
  let n := addr / 4096
  let off := addr % 4096
  let pg := pageAt n
  if pg = .absent then none
  else if off < 0x100 then headerRead s pg n off
  else match pg with
    | .die n => diePageRead s n off
    | .col c => colRead s c off
    | .ridge => ridgeRead s off
    | .clus p => clusRead s p off
    | .router p => routerRead s p off
    | .coreA c => coreARead s c off
    | .coreB c => coreBRead s c off
    | .absent => none

end Sys2Proof.Machine
end

