-- ==== Sys2Proof/Machine/RegWrites.lean ====
section
/-! DEFINITION. Writes of register space (chapter 22), the register commands that have rows of their own, and notifications of
events (R526) and of partners' fatal errors (R509). -/
namespace Sys2Proof.Machine

/-! ## Clears and records -/

/-- HWM_CLEAR (R41). -/
def hwmClear (p : PClus) (s : State) : State := modClus p (fun k => { k with highWater := k.fifo.length, fullCount := 0 }) s
/-- HWM_CLEAR (R41). -/
def execHwmClear (p : PClus) (s : State) : Host.Outcome State Fault Refusal := whenAwake s (hwmClear p)
/-- COUNT_CLEAR (R53). -/
def countClear (s : State) : State := { s with store := { s.store with blocked := 0 } }
/-- COUNT_CLEAR (R53). -/
def execCountClear (s : State) : Host.Outcome State Fault Refusal := whenAwake s countClear
/-- COL_ERR.CLEAR: every counter of COL_ERR and COL_DROP (R405). -/
def colErrClear (c : Col) (s : State) : State :=
  modCol c (fun k => { k with
    crcErrors := 0, replays := 0, retrains := 0, downEvents := 0, malformed := 0
    summitUnmatched := 0, signalsDropped := 0, absents := 0, unknownTag := 0 }) s
/-- COL_ERR_CLEAR (R405). -/
def execColErrClear (c : Col) (s : State) : Host.Outcome State Fault Refusal := whenAwake s (colErrClear c)
/-- REG_STAT.CLEAR (R521). -/
def regStatClear (s : State) : State := { s with ident := { s.ident with refusedWr := 0, ignored := 0 } }
/-- REG_STAT_CLEAR (R521). -/
def execRegStatClear (s : State) : Host.Outcome State Fault Refusal := whenAwake s regStatClear
/-- REG_STAT.FIRST_VALID written (R521). -/
def regStatFirstClear (s : State) : State := { s with ident := { s.ident with firstAddr := 0, firstWrite := false, firstValid := false } }
/-- REG_STAT_FIRST_CLEAR (R521). -/
def execRegStatFirstClear (s : State) : Host.Outcome State Fault Refusal := whenAwake s regStatFirstClear
/-- CLUS_TRAP_SUM.VALID written (R238); CORES is counted live. -/
def clusTrapSumClear (p : PClus) (s : State) : State :=
  modClus p (fun k => { k with trapValid := false, trapMultiple := false, trapCause := 0, trapEngine := 0, trapCore := 0, trapStamp := 0 }) s
/-- CLUS_TRAP_SUM_CLEAR (R238). -/
def execClusTrapSumClear (p : PClus) (s : State) : Host.Outcome State Fault Refusal := whenAwake s (clusTrapSumClear p)
/-- DIE_TRAP_SUM.VALID written (R238). -/
def dieTrapSumClear (s : State) : State :=
  { s with err := { s.err with
    trapValid := false, trapMultiple := false, trapMassif := 0, trapCause := 0, trapEngine := 0, trapClus := 0, trapCore := 0, trapStamp := 0 } }
/-- DIE_TRAP_SUM_CLEAR (R238). -/
def execDieTrapSumClear (s : State) : Host.Outcome State Fault Refusal := whenAwake s dieTrapSumClear
/-- ERR_PARTNER.VALID written (R509). -/
def errPartnerClear (s : State) : State := { s with err := { s.err with partnerSerial := 0, partnerCause := 0, partnerValid := false } }
/-- ERR_PARTNER_CLEAR (R509). -/
def execErrPartnerClear (s : State) : Host.Outcome State Fault Refusal := whenAwake s errPartnerClear
/-- BRINGUP_DIS.VALID written (R478). -/
def bringupDisClear (s : State) : State := { s with bring := { s.bring with disClus := 0, disCore := 0, disState := 0, disValid := false } }
/-- BRINGUP_DIS_CLEAR (R478). -/
def execBringupDisClear (s : State) : Host.Outcome State Fault Refusal := whenAwake s bringupDisClear
/-- ELEC_STAT.BO_VALID written (R537). -/
def elecStatBoClear (s : State) : State := { s with pm := { s.pm with boRail := 0, boValid := false } }
/-- ELEC_STAT_BO_CLEAR (R537). -/
def execElecStatBoClear (s : State) : Host.Outcome State Fault Refusal := whenAwake s elecStatBoClear
/-- A write to ERR_NOTIFY (R509): the first is recorded, and every one raises the event of ERR_PARTNER. -/
def errNotify (serial : BitVec 56) (cause : BitVec 4) (s : State) : State :=
  raiseEvt 2 0x198 (if s.err.partnerValid then s
    else { s with err := { s.err with partnerSerial := serial, partnerCause := cause, partnerValid := true } })
/-- ERR_NOTIFY (R509). -/
def execErrNotify (serial : BitVec 56) (cause : BitVec 4) (s : State) : Host.Outcome State Fault Refusal := whenAwake s (errNotify serial cause)

/-! ## The program store (R53, R55) -/

/-- PS_ADDR advances by one, modulo its 2^20 words. -/
def psAdvance (s : State) : State := { s with store := { s.store with addr := s.store.addr + 1 } }
/-- A PS_DATA read: a word with bad parity sets READ_PARITY. -/
def psRead (bad : Bool) (s : State) : State := psAdvance { s with store := { s.store with readParity := s.store.readParity || bad } }
/-- PS_DATA_READ (R53). -/
def execPsDataRead (bad : Bool) (s : State) : Host.Outcome State Fault Refusal := whenAwake s (psRead bad)
/-- The word at PS_ADDR lies in a region in use. -/
def psBlocked (s : State) : Bool := allMassifs.any (fun m => regionInUse (getSeq s m) && wordInRegion (getSeq s m) s.store.addr.toNat)
/-- A PS_DATA write: dropped and counted in a region in use. -/
def psWrite (data : BitVec 64) (s : State) : State :=
  psAdvance (if psBlocked s then { s with store := { s.store with blocked := satInc 16 s.store.blocked } } else storeWrite s.store.addr.toNat data s)
/-- PS_DATA_WRITE (R53). -/
def execPsDataWrite (data : BitVec 64) (s : State) : Host.Outcome State Fault Refusal := whenAwake s (psWrite data)

/-! ## The interconnect test (R433) -/

/-- START is accepted: the selected col is DOWN with DISABLE = 1, and the pattern is not reserved. -/
def itestAccepts (s : State) : Bool :=
  let k := getCol s s.itest.col.toFin
  k.state == .down && k.disable && s.itest.pattern.toNat ≤ 3
/-- PRBS31 by x^31 + x^28 + 1: one step of the generator, whose bit 30 is on the lane (which bit leads is a DESIGN CHOICE, log entry 126). -/
def prbsStep (g : BitVec 31) : BitVec 31 := (g <<< 1) ||| (if g.getLsbD 30 != g.getLsbD 27 then 1 else 0)
/-- The seed of a lane. -/
def prbsSeed (lane : Nat) : BitVec 31 := (0x7FFFFFFF ^^^ BitVec.ofNat 31 (lane * 0x1010101)) &&& 0x7FFFFFFF
/-- Bit n that the transmitter sends on a data lane: PRBS31, the lane pattern of UCIe 1.1, or 1010…; none for OFF. -/
def itestSignal (pattern : BitVec 3) (lane n : Nat) : Option Bool :=
  match pattern.toNat with
  | 1 => some ((Nat.repeat prbsStep n (prbsSeed lane)).getLsbD 30)
  | 2 => some (Config.ucieLane lane n)
  | 3 => some (n % 2 == 0)
  | _ => none
/-- What a data lane of the col under test carries now. -/
def itestLane (s : State) (lane : Nat) : Option Bool :=
  if s.itest.state == 1 && s.itest.tx then itestSignal s.itest.pattern lane s.itest.sent else none
/-- ITEST_CTL.START written. -/
def itestStart (s : State) : State :=
  { s with itest := if itestAccepts s then
      { s.itest with state := 1, errors := 0, lanes := 0, sync := false, sent := 0 }
    else { s.itest with refused := true } }
/-- ITEST_START (R433). -/
def execItestStart (s : State) : Host.Outcome State Fault Refusal := whenAwake s itestStart
/-- What the checker of a running test shows, its counts having risen to those that the command brings: what comes in on the lanes is the
environment's (log entry 93). -/
def itestSee (r : ItestResult) (s : State) : State :=
  if s.itest.state == 1 && s.itest.rx then { s with itest := { s.itest with
    sync := r.sync, errors := max s.itest.errors r.errors.toNat, lanes := s.itest.lanes ||| r.lanes, aux := s.itest.aux ||| r.aux } }
  else s
/-- ITEST_CTL.STOP written: what the checker has counted stands. -/
def itestStop (r : ItestResult) (s : State) : State :=
  if s.itest.state != 1 then s else let t := itestSee r s; { t with itest := { t.itest with state := 2 } }
/-- ITEST_STOP (R433). -/
def execItestStop (r : ItestResult) (s : State) : Host.Outcome State Fault Refusal := whenAwake s (itestStop r)

/-! ## Writes, page by page -/

/-- The state that a command answers; register writes with a row of their own act through it. -/
def did (s : State) : Host.Outcome State Fault Refusal → State
  | .next t => t
  | _ => s
/-- An action taken when a bit of the written word is 1. -/
def onBit (v : Word) (i : Nat) (f : State → State) (s : State) : State := if v.getLsbD i then f s else s

/-- EVT_STAT: PENDING is W1C, ENABLE is RW; on a gated page only ENABLE, a RW field, is written (R522). -/
def evtWrite (n : Nat) (gated : Bool) (v : Word) (s : State) : State :=
  let e := smGet Evt.reset s.evts n
  let e := { e with enable := v.getLsbD 1, pending := e.pending && !(v.getLsbD 0 && !gated) }
  { s with evts := smSet Evt.reset s.evts n e }
/-- Core page A: HOST_LIMIT. -/
def coreAWrite (c : CoreId) (off : Nat) (v : Word) (s : State) : State :=
  if off = 0x118 then modCore c (fun k => { k with issue := { k.issue with hostLimit := bitsAt v 44 12 } }) s else s
/-- Core page B. -/
def coreBWrite (c : CoreId) (off : Nat) (v : Word) (s : State) : State :=
  match off with
  | 0x210 => modCore c (fun k => { k with vxe := { k.vxe with selVreg := bitsAt v 0 4, selWord := bitsAt v 4 5 } }) s
  | 0x410 => onBit v 36 (fun s => did s (execLedgePerrLogClear c s)) s
  | 0x418 => modLedge c (fun l => { l with scrubMap := l.scrubMap &&& ~~~(v.setWidth 96) }) s
  | 0x420 => modLedge c (fun l => { l with scrubMap := l.scrubMap &&& ~~~((bitsAt v 0 32).setWidth 96 <<< 64) }) s
  | 0x428 => onBit v 63 (fun s => did s (execLedgeBgStatClear c s)) s
  | 0x508 => modCore c (fun k => { k with xfer := { k.xfer with sel := bitsAt v 0 3 } }) s
  | 0x530 => did s (execTxResume c (bitsAt v 0 8) s)
  | 0x600 => modCore c (fun k => { k with cairn := { k.cairn with sel := bitsAt v 0 6 } }) s
  | _ => s
/-- Cluster page 0. -/
def clusWrite (p : PClus) (off : Nat) (v : Word) (s : State) : State :=
  match off with
  | 0x180 => onBit v 63 (hwmClear p) s
  | 0x200 => onBit v 0 (clusTrapSumClear p) s
  | 0x280 => onBit v 63 (fun s => did s (execHwStoreStatClear p s)) s
  | _ => s
/-- The router page. -/
def routerWrite (p : PClus) (off : Nat) (v : Word) (s : State) : State :=
  if off = 0x110 then onBit v 50 (fun s => did s (execClusAbsentClear p s)) s else s
/-- A col page: settings first, then DISABLE, PORT_RESET, RETRAIN. -/
def colWrite (c : Col) (off : Nat) (v : Word) (s : State) : State :=
  match off with
  | 0x100 =>
    let s := modCol c (fun k => { k with autoRetrain := v.getLsbD 2, disable := v.getLsbD 3, maxRate := bitsAt v 4 2, maxWidth := v.getLsbD 6 }) s
    onBit v 0 (colRetrain c) (onBit v 1 (colReset c) (onBit v 3 (colDisable c) s))
  | 0x118 => onBit v 63 (colErrClear c) s
  | _ => s
/-- The ridge page. -/
def ridgeWrite (off : Nat) (v : Word) (s : State) : State :=
  if off = 0x110 then { s with ridge := { s.ridge with selSrc := bitsAt v 0 6, selDst := bitsAt v 8 6 } } else s

/-- SEQ_CMD (chapter 02). -/
def seqCommand (m : Massif) (code : Nat) (s : State) : State :=
  match code with
  | 0 => s
  | 1 => seqLoad m s
  | 2 => seqCheck m s
  | 3 => seqStart m s
  | 4 => seqStop m s
  | 5 => seqAbort m s
  | _ => seqResult m .badCmd s
/-- Sequencer registers (chapter 02). -/
def seqWrite (m : Massif) (off : Nat) (v : Word) (s : State) : State :=
  let region (f : SeqSt → SeqSt) : State := if regionInUse (getSeq s m) then s else modSeq m (fun q => { f q with checked := false }) s
  match off with
  | 0x100 => seqCommand m (bitsAt v 0 4).toNat s
  | 0x108 => modSeq m (fun q => { q with fetchParity := q.fetchParity && !v.getLsbD 12, wdogExpired := q.wdogExpired && !v.getLsbD 13 }) s
  | 0x110 => region (fun q => { q with base := bitsAt v 0 11, size := bitsAt v 16 12 })
  | 0x118 => region (fun q => { q with entry := bitsAt v 0 18 })
  | 0x120 => modSeq m (fun q => { q with loadSrc := v }) s
  | 0x128 => modSeq m (fun q => { q with loadCount := bitsAt v 0 19, loadDest := bitsAt v 20 18 }) s
  | 0x198 => modSeq m (fun q => { q with wdogLimit := bitsAt v 0 6, wdogAction := v.getLsbD 6 }) s
  | _ => if 0x140 ≤ off && off ≤ 0x178 then modSeq m (fun q => { q with params := q.params.setIfInBounds ((off - 0x140) / 8) v }) s else s
/-- MASSIF_CTL (R483, R487, R490). -/
def massifCommand (m : Massif) (code : Nat) (s : State) : State :=
  match code with
  | 0 => s
  | 1 => massifCreate m s
  | 2 => massifReset m s
  | 3 => massifTeardown m s
  | _ => massifResult m .badCmd s
/-- Numeric, ledge, transfer, deadline, power and massif registers of a sequencer page. -/
def massifWrite (m : Massif) (off : Nat) (v : Word) (s : State) : State :=
  let keep (f : MassifSt → MassifSt) : State := if (getMassif s m).state == .creating then s else modMassif m f s
  match off with
  | 0x1A0 => modMassif m (fun k => { k with seed := v }) s
  | 0x1A8 => modMassif m (fun k => { k with seedMode := v.getLsbD 0 }) s
  | 0x1B0 => modMassif m (fun k => { k with trapMode := bitsAt v 0 2 }) s
  | 0x1C0 => onBit v 1 (fun s => did s (execInvalidate m s)) (modMassif m (fun k => { k with cacheEn := v.getLsbD 0 }) s)
  | 0x1C8 => keep (fun k => { k with resident := bitsAt k.resident 64 32 ++ v })
  | 0x1D0 => keep (fun k => { k with resident := bitsAt v 0 32 ++ bitsAt k.resident 0 64 })
  | 0x1D8 => keep (fun k => { k with tenantKey := v })
  | 0x1E0 => modMassif m (fun k => { k with ttValid := v.getLsbD 0, ttBase := bitsAt v 12 28 }) s
  | 0x1F0 => onBit v 1 (tcInvalidate m none) (onBit v 0 (fun s => did s (execResumeAll m s)) s)
  | 0x200 => modMassif m (fun k => { k with tagMin := bitsAt v 0 14, tagMax := bitsAt v 16 14, missEvent := v.getLsbD 32 }) s
  | 0x340 => retarget (modMassif m (fun k => { k with vReq := bitsAt v 0 10 }) s)
  | 0x380 => massifCommand m (bitsAt v 0 3).toNat s
  | 0x388 => if (getMassif s m).state == .none then modMassif m (fun k => { k with mask := bitsAt v 0 40 }) s else s
  | _ => s
/-- Summit registers: JOB_TAG, SUMMIT_TREE and SUMMIT_CTXn are not written while the sequencer runs (chapter 13). -/
def summitWrite (m : Massif) (off : Nat) (v : Word) (s : State) : State :=
  if off = 0x250 then modSummit m (fun k => { k with selCtx := bitsAt v 0 4, selClus := bitsAt v 4 6 }) s
  else if running s m then s
  else match off with
    | 0x240 => modMassif m (fun k => { k with jobTag := bitsAt v 0 32 }) s
    | 0x248 => treeCheckAll m
        (modSummit m (fun k => { k with nodeId := bitsAt v 0 16, parent := bitsAt v 16 5, children := bitsAt v 32 16, follow := v.getLsbD 48 }) s)
    | _ => if 0x280 ≤ off && off ≤ 0x2F8 then modSummit m (fun k => { k with ctxs := k.ctxs.setIfInBounds ((off - 0x280) / 8) (bitsAt v 0 19) }) s else s
/-- The page of a sequencer. -/
def seqPageWrite (m : Massif) (off : Nat) (v : Word) (s : State) : State :=
  if off < 0x1A0 then seqWrite m off v s
  else if 0x240 ≤ off && off < 0x300 then summitWrite m off v s
  else massifWrite m off v s

/-- EVT_NOTIFY: a rise of ANY before EN was set sends nothing (R526). -/
def notifyWrite (v : Word) (s : State) : State :=
  { s with ident := { s.ident with
    any := s.ident.any || (!s.ident.notifyEn && evtAny s)
    notifyEn := v.getLsbD 0, notifyDst := bitsAt v 1 4, notifyAddr := bitsAt v 5 23 } }
/-- Identity, trap and small pages. -/
def smallWrite (n off : Nat) (v : Word) (s : State) : State :=
  match n, off with
  | 0x0, 0x118 => onBit v 63 regStatClear (onBit v 59 regStatFirstClear s)
  | 0x0, 0x190 => notifyWrite v s
  | 0x2, 0x100 => onBit v 0 dieTrapSumClear s
  | 0x2, 0x190 => errNotify (bitsAt v 0 56) (bitsAt v 56 4) s
  | 0x2, 0x198 => onBit v 60 errPartnerClear s
  | 0x3, 0x100 => { s with store := { s.store with addr := bitsAt v 3 20 } }
  | 0x3, 0x108 => psWrite v s
  | 0x3, 0x110 => onBit v 63 countClear (onBit v 16 (fun s => { s with store := { s.store with readParity := false } }) s)
  | 0x8, 0x100 => { s with scrub := { s.scrub with en := v.getLsbD 0, interval := bitsAt v 1 6 } }
  | 0x9, 0x100 => did s (execTcInval (bitsAt v 0 2).toFin (v.getLsbD 2) (bitsAt v 16 44) s)
  | 0xA, 0x100 => onBit v 63 (fun s => did s (execStreamTrkStatClear s)) s
  | 0xA, 0x110 => { s with trk := { s.trk with ageLimit := bitsAt v 0 16 } }
  | _, _ => s
/-- A message that waits at a col follows its destination's route: it crosses to the col that the entry now gives (R428). One that finds
none is answered as R393 gives. -/
def rerouteItem (c : Col) (e : EgressItem) (s : State) : State :=
  let keep (s : State) : State := modCol c (fun k => { k with egress := k.egress ++ [e] }) s
  match e.route with
  | none => keep s
  | some (src, mix) =>
    match (egressCol s e.msg.hdr.dst ((bodyVc e.msg.body).getD 0) src mix).filter (fun d => !crossesFailed s (colRouter c) (colRouter d)) with
    | none => egressDrop c e s
    | some d =>
      if d = c then keep s
      else
        let isMine (r : Msg) : Bool := r == e.msg
        let s := if (getCol s c).forwarded.any isMine then
            modCol d (fun k => { k with forwarded := k.forwarded ++ [e.msg] }) (modCol c (fun k => { k with forwarded := k.forwarded.eraseP isMine }) s)
          else s
        toCol d e (colRouter c) s
/-- The messages that wait for one destination, taken up anew in their order. -/
def reroute (dst : Nat) (s : State) : State :=
  let goes (e : EgressItem) : Bool := e.route.isSome && e.msg.hdr.dst.toNat = dst
  let items := allCols.flatMap (fun c => ((getCol s c).egress.filter goes).map (fun e => (c, e)))
  let s := allCols.foldl (fun s c => modCol c (fun k => { k with egress := k.egress.filter (fun e => !goes e) }) s) s
  let s := items.foldl (fun s e => rerouteItem e.1 e.2 s) s
  if items.isEmpty then s else allCols.foldl (fun s c => pumpAll c s) s
/-- DISC_ROUTEe (R425). -/
def routeWrite (off : Nat) (v : Word) (s : State) : State :=
  if 0x140 ≤ off && off ≤ 0x198 then
    let e : RouteEntry := ⟨bitsAt v 0 16, bitsAt v 16 3, bitsAt v 20 3, bitsAt v 24 4, v.getLsbD 28⟩
    reroute ((off - 0x140) / 8) { s with disc := { s.disc with routes := s.disc.routes.setIfInBounds ((off - 0x140) / 8) e } }
  else s
/-- The interconnect-test page. -/
def itestWrite (off : Nat) (v : Word) (r : ItestResult) (s : State) : State :=
  match off with
  | 0x100 =>
    let s := { s with itest := { s.itest with col := bitsAt v 0 4, pattern := bitsAt v 4 3, tx := v.getLsbD 8, rx := v.getLsbD 9, rate := bitsAt v 10 2 } }
    onBit v 13 (itestStop r) (onBit v 12 itestStart s)
  | 0x108 => onBit v 2 (fun s => { s with itest := { s.itest with refused := false } }) s
  | _ => s
/-- The power manager's page. -/
def pmWrite (off : Nat) (v : Word) (s : State) : State :=
  match off with
  | 0x100 => { s with pm := { s.pm with cap := bitsAt v 0 11, prio := bitsAt v 11 3, capEn := v.getLsbD 14 } }
  | 0x108 => retarget { s with pm := { s.pm with
      vFloor := bitsAt v 0 10, hintEn := v.getLsbD 10, hintLead := bitsAt v 11 12, paceFloor := bitsAt v 23 4, boostEn := v.getLsbD 27
      droopTh := bitsAt v 28 8 } }
  | 0x110 => onBit v 15 (fun s => { s with pm := { s.pm with overCap := false } }) s
  | 0x180 => { s with pm := { s.pm with weightSel := bitsAt v 0 6 } }
  | 0x190 => { s with pm := { s.pm with classSel := bitsAt v 0 3 } }
  | 0x1A0 => { s with pm := { s.pm with
      telemEn := v.getLsbD 0, telemDst := bitsAt v 1 4, telemPeriod := bitsAt v 5 8, telemPower := v.getLsbD 13, telemEnergy := v.getLsbD 14 } }
  | 0x1C8 => onBit v 8 elecStatBoClear s
  | _ => s
/-- The thermal page. -/
def thermWrite (off : Nat) (v : Word) (s : State) : State :=
  match off with
  | 0x100 => onBit v 28 tripClear (warnUpdate { s with therm := { s.therm with
      warn := bitsAt v 0 8, throt := bitsAt v 8 8, trip := bitsAt v 16 8, hyst := bitsAt v 24 4 } })
  | 0x110 => { s with therm := { s.therm with sel := bitsAt v 0 6 } }
  | _ => s
/-- The bring-up page, compute reset and isolation. -/
def bringWrite (off : Nat) (v : Word) (s : State) : State :=
  match off with
  | 0x100 =>
    if v.getLsbD 2 && !rebringOk s then rebring s else onBit v 2 rebring { s with bring := { s.bring with ctlLevel := bitsAt v 0 2 } }
  | 0x108 => { s with bring := { s.bring with
      refused := s.bring.refused && !v.getLsbD 16, ignoredReset := s.bring.ignoredReset && !v.getLsbD 18
      readyEvent := s.bring.readyEvent && !v.getLsbD 19 } }
  | 0x118 => { s with bring := { s.bring with selClus := bitsAt v 0 6, selCore := bitsAt v 8 7 } }
  | 0x130 => onBit v 20 bringupDisClear s
  | 0x180 => onBit v 0 compReset s
  | _ => s
/-- A die-level page. -/
def diePageWrite (n : Fin 16) (off : Nat) (v : Word) (r : ItestResult) (s : State) : State :=
  match n.val with
  | 0x4 => seqPageWrite 0 off v s
  | 0x5 => seqPageWrite 1 off v s
  | 0x6 => seqPageWrite 2 off v s
  | 0x7 => seqPageWrite 3 off v s
  | 0xB => routeWrite off v s
  | 0xC => itestWrite off v r s
  | 0xD => pmWrite off v s
  | 0xE => thermWrite off v s
  | 0xF => bringWrite off v s
  | n => smallWrite n off v s

/-! ## Accesses (R516, R521, R522) -/

/-- The first refused or ignored access is recorded. -/
def noteFirst (addr : Nat) (write : Bool) (s : State) : State :=
  if s.ident.firstValid then s
  else { s with ident := { s.ident with firstAddr := BitVec.ofNat 26 addr, firstWrite := write, firstValid := true } }
/-- An ignored access (R521, R522). -/
def noteIgnored (addr : Nat) (write : Bool) (s : State) : State :=
  noteFirst addr write { s with ident := { s.ident with ignored := satInc 16 s.ident.ignored } }
/-- A refused write (R516). -/
def noteRefused (addr : Nat) (s : State) : State :=
  noteFirst addr true { s with ident := { s.ident with refusedWr := satInc 16 s.ident.refusedWr } }
/-- The present write has left no event in the summaries: ANY has fallen (R526). -/
def evtSettle (s : State) : State := if evtAny s then s else { s with ident := { s.ident with any := false } }

/-- A write that is performed or ignored: an unimplemented address, a fused page, and all but EVT_STAT's ENABLE of a gated page
ignore it. -/
def regStore (addr : Nat) (v : Word) (r : ItestResult) (s : State) : State :=
  let n := addr / 4096
  let off := addr % 4096
  let pg := pageAt n
  let st := pageState s pg
  if (regValue s addr).isNone || st == .fused || (st == .gated && off != 0x10) then noteIgnored addr true s
  else if off = 0x10 then evtSettle (evtWrite n (st == .gated) v s)
  else if off < 0x100 then s
  else match pg with
    | .die n => diePageWrite n off v r s
    | .col c => colWrite c off v s
    | .ridge => ridgeWrite off v s
    | .clus p => clusWrite p off v s
    | .router p => routerWrite p off v s
    | .coreA c => coreAWrite c off v s
    | .coreB c => coreBWrite c off v s
    | .absent => s
/-- A read: its value, and its effects; `r` is what the interconnect test's checker has counted by then. -/
def regLoad (addr : Nat) (bad : Bool) (r : ItestResult) (s : State) : State × Word :=
  let s := if addr / 4096 = 0xC then itestSee r s else s
  match regValue s addr with
  | none => (noteIgnored addr false s, 0)
  | some v => (if addr = 0x3108 then psRead bad s else s, v)
/-- A write request, with its HOST bit (R516). -/
def regRequest (host : Bool) (addr : Nat) (v : Word) (r : ItestResult) (s : State) : State :=
  if host || addr = 0x2190 then regStore addr v r s else noteRefused addr s

/-! ## Register requests on a col (R407, R408, R423) -/

/-- The die answers the request: before discovery completes only its link partner's. -/
def answersReg (s : State) (h : MsgHdr) : Bool := s.disc.done || h.dst == 0xF
/-- REG_RSP for a request of a port; one that has left MGMT_ONLY and UP since has its responses discarded (R393). -/
def regReply (c : Col) (h : MsgHdr) (status : BitVec 3) (v : Word) (src : Nat) (s : State) : State :=
  if colLive (getCol s c) then replyFrom c h (.regRsp v) status src (dueOf s h) (some c) s else s
/-- Register requests can no longer reach the responder, or it has failed: they are answered ABSENT (R508). -/
def regLost (s : State) (c : Col) : Bool := failedUnit s 3 || crossesFailed s (colRouter c) diePort
/-- A register request received on a col; the responder meets a parity failure of PS_DATA, and what the interconnect test has counted by then. -/
structure RegReq where
  col : Col
  hdr : MsgHdr
  body : MsgBody
  bad : Bool
  itest : ItestResult
/-- The request is performed and answered. -/
def regAct (q : RegReq) (s : State) : State :=
  if regLost s q.col then regReply q.col q.hdr 1 0 (colRouter q.col) s
  else
    let s := ridgeDie (colRouter q.col) 2 none 1 s
    match q.body with
    | .regRd addr =>
      let (t, v) := regLoad (8 * addr.toNat) q.bad q.itest s
      regReply q.col q.hdr 0 v diePort t
    | .regWr addr data => regReply q.col q.hdr 0 0 diePort (regRequest q.hdr.host (8 * addr.toNat) data q.itest s)
    | _ => s
/-- Responses to a port's register requests that have not been sent. -/
def regOwed (s : State) (c : Col) : Nat :=
  s.cols.toList.foldl (fun a k => a + (k.egress.filter (answersAt c)).length) 0 +
    (s.net.filter (fun p => match p.what with | .out _ e => answersAt c e | _ => false)).length
/-- A port's next held register request may be performed: a response has been sent, or the port has left MGMT_ONLY and UP (R393, R408). -/
def regReady (s : State) (c : Col) : Bool := !(getCol s c).regHeld.isEmpty && (!colLive (getCol s c) || regOwed s c < 16)
/-- Held register requests are performed, in arrival order on each port, n of them at most; one that leaves a live port's ingress returns its
credits (R398). -/
def regDrain : Nat → State → State
  | 0, s => s
  | n + 1, s =>
    match allCols.find? (regReady s) with
    | none => s
    | some c =>
      match (getCol s c).regHeld with
      | [] => s
      | (m, bad, r) :: l =>
        let s := modCol c (fun k => { k with regHeld := l }) s
        let s := if colLive (getCol s c) then returnCredit c m s else s
        regDrain n (regAct ⟨c, m.hdr, m.body, bad, r⟩ s)
/-- What follows a command that can let a port send, or take it out of MGMT_ONLY or UP: held register requests (R393, R408), and a REPORT or
END that waited only for that port (R420). -/
def portSettle (s : State) : State := discPump (regDrain (s.cols.toList.foldl (fun a k => a + k.regHeld.length) 0) s)
/-- A command at the ports, and what follows it. -/
def portAct (s : State) (f : State → State) : Host.Outcome State Fault Refusal := whenAwake s (fun s => portSettle (f s))

/-- A register request for this die: beyond 16 outstanding it is held at the ingress (R408). -/
def regIn (q : RegReq) (s : State) : State :=
  if !answersReg s q.hdr then s
  else if 16 ≤ regOwed s q.col || !(getCol s q.col).regHeld.isEmpty then
    modCol q.col (fun k => { k with regHeld := k.regHeld ++ [(⟨q.hdr, q.body⟩, q.bad, q.itest)] }) s
  else regAct q s
/-- A register request's message: for this die, or forwarded. -/
def regReceive (q : RegReq) (s : State) : State :=
  arrive q.col ⟨q.hdr, q.body⟩ (fun s => if forMe s q.hdr then regIn q s else forward q.col ⟨q.hdr, q.body⟩ s) s
/-- REG_RD (R407). -/
def execRegRd (c : Col) (h : MsgHdr) (addr : BitVec 23) (bad : Bool) (s : State) (r : ItestResult := .none) :
    Host.Outcome State Fault Refusal :=
  portAct s (regReceive ⟨c, h, .regRd addr, bad, r⟩)
/-- REG_WR (R516). -/
def execRegWr (c : Col) (h : MsgHdr) (addr : BitVec 23) (data : BitVec 64) (r : ItestResult) (s : State) : Host.Outcome State Fault Refusal :=
  portAct s (regReceive ⟨c, h, .regWr addr data, false, r⟩)

/-! ## Commands at the ports (R388, R392, R394, R398) -/

/-- CREDIT (R398). -/
def execCredit (c : Col) (a : CreditArgs) (h : LinkHdr) (s : State) : Host.Outcome State Fault Refusal :=
  portAct s (linkReceive c h (creditReceive c a))
/-- LINK_DOWN (R392). -/
def execLinkDown (c : Col) (_cause : BitVec 4) (h : LinkHdr) (s : State) : Host.Outcome State Fault Refusal :=
  portAct s (linkReceive c h (linkDownReceive c))
/-- FLIT_CRC_FAIL (R388). -/
def execFlitCrcFail (c : Col) (s : State) : Host.Outcome State Fault Refusal := portAct s (flitCrcFail c)
/-- PARTNER_LOSS (R394). -/
def execPartnerLoss (c : Col) (s : State) (absent : Bool := false) : Host.Outcome State Fault Refusal := portAct s (partnerLoss c absent)
/-- RETRAIN (R392). -/
def execRetrain (c : Col) (s : State) : Host.Outcome State Fault Refusal := portAct s (colRetrain c)
/-- PORT_RESET (R392). -/
def execPortReset (c : Col) (s : State) : Host.Outcome State Fault Refusal := portAct s (colReset c)
/-- COL_DISABLE (R392). -/
def execColDisable (c : Col) (s : State) : Host.Outcome State Fault Refusal := portAct s (colDisable c)

/-! ## Event notification (R526) -/

/-- Data of the notification. -/
def notifyData (s : State) : Word :=
  fields [(0, 33, (evtSum0 s).toNat), bit1 33 (evtSum1 s != 0), (56, 4, s.disc.id.toNat), bit1 63 true]
/-- The summaries follow their sources: when ANY rises and EN = 1, one REG_WR is sent, if it finds a route. -/
def eventNotification (s : State) : State :=
  let rise := evtAny s && !s.ident.any
  let t := { s with ident := { s.ident with any := evtAny s } }
  if rise && s.ident.notifyEn && s.ident.notifyDst.toNat < 12 then
    match sendTo s.ident.notifyDst (.regWr s.ident.notifyAddr (notifyData s)) 0 0 0 diePort 0 none (some .reg) none none t with
    | (u, true) => { u with ident := { u.ident with sent := satInc 16 u.ident.sent } }
    | (u, false) => u
  else t
/-- EVENT_NOTIFICATION (R526). -/
def execEventNotification (s : State) : Host.Outcome State Fault Refusal := whenAwake s eventNotification

end Sys2Proof.Machine
end

