-- ==== Sys2Proof/Machine/PackageTest.lean ====
section
/-! DEFINITION. The TAP and the register bridge (R432, R434, R435, R493, R542). The TAP works whenever VDD_AON and VDD_IO are present. -/
namespace Sys2Proof.Machine

/-- The TAP is powered. -/
def tapOn (s : State) : Bool := s.pins.aon && s.pins.io
/-- The effect of a TAP operation: it needs VDD_AON and VDD_IO, not the die (R542). -/
def tapAct (s : State) (f : State → State) : Host.Outcome State Fault Refusal := .next (if tapOn s then f s else s)
/-- TDO is at high impedance, and the chain is broken (R542). -/
def tdoHighZ (s : State) : Bool := !tapOn s
/-- An instruction becomes current. Its scan captures 0b0000_0001 in the instruction register, and 0 in the bypass bit (R434, IEEE 1149.1).
One that takes the lanes holds every col DOWN, as DISABLE = 1 would (R435). -/
def tapSelect (ir : BitVec 8) (s : State) : State :=
  let was := takesLanes s.jtag.ir
  let s := { s with jtag := { s.jtag with ir := ir, irCapture := 1, bypassBit := false } }
  if takesLanes ir && !was && awake s then portSettle (allCols.foldl (fun s c => enterDown c 3 s) s) else s
/-- The boundary register captures what its cells see (R432). -/
def boundarySee (seen : Boundary) (refclk : Bool) (s : State) : State :=
  { s with jtag := { s.jtag with captured := ⟨seen, !s.pins.porst, s.pins.crownN, refclk⟩ } }
/-- The boundary register is loaded with what its cells drive. -/
def boundaryLoad (b : Boundary) (s : State) : State := { s with jtag := { s.jtag with drives := b } }

/-! ## What the die shows at its bumps (R510, R529, R535, R544, R545) -/

/-- What drives the lanes, the sideband and the RCK pair of a col. -/
inductive LaneDrive where
  | idle | boundary | port
  deriving DecidableEq, Repr
/-- A col's bumps: a fused-off col, a die without power, in reset, or in steps RAILS..SPINE holds them idle; EXTEST and CLAMP, which work
under PORST_N (R542), drive them from the boundary register and HIGHZ idles them. -/
def laneDrive (s : State) (c : Col) : LaneDrive :=
  if !s.pins.aon || !(colMask s).getLsbD c.val then .idle
  else if takesLanes s.jtag.ir then (if s.jtag.ir == 4 then .idle else .boundary)
  else if !awake s || colsIdle s || (getCol s c).state == .off then .idle
  else .port
/-- FAULT_N is asserted: on a die without VDD_AON, in reset, with a fatal error or a trip; while the TAP has the lanes, as the boundary
register drives it. -/
def faultAsserted (s : State) : Bool :=
  if !s.pins.aon then true
  else if takesLanes s.jtag.ir then !s.jtag.drives.faultN
  else !awake s || faultN s
/-- PWRGD_OUT is high: from the end of step RAILS until reset, brown-out or the loss of VDD_AON. -/
def pwrgdOut (s : State) : Bool := awake s && s.pins.pwrgd
/-- AVS_CLK and AVS_MDATA run; they are low on a die without power or in reset. -/
def avsRuns (s : State) : Bool := awake s

/-! ## The TAP -/

/-- TRST_N (R542): IDCODE is selected. -/
def execTrstN (s : State) : Host.Outcome State Fault Refusal := tapAct s (fun s => { s with jtag := JtagSt.reset })
/-- EXTEST (R432, R435): the boundary drives, and captures what it sees. -/
def execExtest (b : BoundaryScan) (s : State) : Host.Outcome State Fault Refusal :=
  tapAct s (fun s => boundarySee b.seen b.refclk (boundaryLoad b.load (tapSelect 0 s)))
/-- SAMPLE_PRELOAD (R434): the boundary captures what it sees, and is loaded for a later EXTEST or CLAMP. -/
def execSamplePreload (b : BoundaryScan) (s : State) : Host.Outcome State Fault Refusal :=
  tapAct s (fun s => boundarySee b.seen b.refclk (boundaryLoad b.load (tapSelect 1 s)))
/-- The IDCODE word (R434, R527). -/
def idcodeWord (s : State) : Word :=
  fields [bit1 0 true, (1, 11, s.fuse.mfr.toNat), (12, 16, 0x4A71), (28, 2, (bitsAt s.fuse.stepping 0 2).toNat), (30, 2, (bitsAt s.fuse.stepping 4 2).toNat)]
/-- IDCODE (R434): the identity register captures its word. -/
def execIdcode (s : State) : Host.Outcome State Fault Refusal :=
  tapAct s (fun s => tapSelect 2 { s with jtag := { s.jtag with bridge := idcodeWord s } })
/-- CLAMP (R435): outputs follow the boundary. -/
def execClamp (s : State) : Host.Outcome State Fault Refusal := tapAct s (tapSelect 3)
/-- HIGHZ (R435): outputs idle. -/
def execHighz (s : State) : Host.Outcome State Fault Refusal := tapAct s (tapSelect 4)
/-- A scan of the IEEE 1500 registers. -/
def wrapperScan (w : WrapperScan) (s : State) : State :=
  match w with
  | .select => s
  | .instruction bits => { s with jtag := { s.jtag with wrapInstr := bits } }
  | .data load seen => { s with jtag := { s.jtag with wrapData := load, wrapSeen := seen } }
/-- WRAPPER (R434): the IEEE 1500 instruction and data registers of the engines. -/
def execWrapper (s : State) (scan : WrapperScan := .select) : Host.Outcome State Fault Refusal :=
  tapAct s (fun s => wrapperScan scan (tapSelect 0x10 s))
/-- Codes that select a register of their own (R434). -/
def tapListed (code : BitVec 8) : Bool := takesLanes code || code == 1 || code == 2 || code == 0x10 || code == 0x11
/-- BYPASS (R434): 0xFF and every code that is not listed select the 1-bit bypass. A listed code is not this command's: 0xFF stands for it. -/
def execBypass (s : State) (code : BitVec 8 := 0xFF) : Host.Outcome State Fault Refusal := tapAct s (tapSelect (if tapListed code then 0xFF else code))

/-- A JTAG read refused by the debug lock is counted (R493). -/
def debugRefuse (s : State) : State := { s with bring := { s.bring with debugRefused := satInc 24 s.bring.debugRefused } }
/-- What the selected instrument or the bridge captures. -/
def bridgeTake (v : Word) (s : State) : State := { s with jtag := { s.jtag with bridge := v } }
/-- A BIST instrument is accessed: it shows its result, but in steps 0x5..0x9 it ignores the access and reads busy (R480). -/
def bistAccess (pass : Bool) (f : State → State) (s : State) : State :=
  let busy := 5 ≤ s.bring.step.toNat && s.bring.step.toNat ≤ 9
  let s := { s with jtag := { s.jtag with busy := busy } }
  if busy then s else f { s with jtag := { s.jtag with passed := pass } }
/-- An access to an instrument; an SRAM instrument under the debug lock shows its result alone, its data is zero, and that is counted (R493). -/
def ijtagAccess (a : IjtagAccess) (s : State) : State :=
  match a with
  | .logicBist pass => bistAccess pass id s
  | .sramBist pass data => bistAccess pass (fun s => if s.fuse.debugLock then bridgeTake 0 (debugRefuse s) else bridgeTake data s) s
  | .fuse word => bridgeTake word s
  | .itest ctl r => if awake s then itestWrite 0x100 ctl r s else s
/-- IJTAG (R433, R434). -/
def execIjtag (a : IjtagAccess) (s : State) : Host.Outcome State Fault Refusal := tapAct s (fun s => ijtagAccess a (tapSelect 0x11 s))

/-- The address is VXE_VREG_DATA of some core. -/
def isVregData (addr : Nat) : Bool := match pageAt (addr / 4096) with | .coreB _ => addr % 4096 == 0x218 | _ => false
/-- A register read through the bridge: data of a massif is refused under the debug lock. -/
def bridgeRead (addr : Nat) (bad : Bool) (r : ItestResult) (s : State) : State :=
  if s.fuse.debugLock && (addr = 0x3108 || isVregData addr) then
    bridgeTake 0 (debugRefuse (if addr = 0x3108 then psAdvance s else s))
  else
    let (t, v) := regLoad addr bad r s
    bridgeTake v t
/-- A read of a ledge through the bridge, as an RREAD of eight bytes: absent under the debug lock, and where the core is absent (R240, R258,
R380, R493). Whether it waits for a ledge cycle is not stated: it is served at once, in no cycle, before the reads that wait (DESIGN CHOICE,
log entry 132). -/
def bridgeLedge (lclus lcore off : Nat) (fs : List ReadFault) (s : State) : State :=
  if s.fuse.debugLock then bridgeTake 0 (debugRefuse s)
  else match physCore s lclus lcore with
    | some c =>
      if (getCore s c).presence != .on then bridgeTake 0 s
      else
        let (l, bs, _, _) := ledgeReadShape (coreEnv s c [] fs) 9 0 0 off 8 (getCore s c).ledge
        bridgeTake (BitVec.ofNat 64 (leNat bs)) (modLedge c (fun _ => l) s)
    | none => bridgeTake 0 s
/-- An access through the register bridge acts as a MGMT request that may write (R435, R516). -/
def bridgeAccess (a : BridgeAccess) (s : State) : State :=
  match a with
  | .read addr bad r => bridgeRead (8 * addr.toNat) bad r s
  | .write addr v r => regStore (8 * addr.toNat) v r s
  | .ledge lclus lcore off fs => bridgeLedge lclus.toNat lcore.toNat off.toNat fs s
/-- REGISTER_BRIDGE_ACCESS (R435): the IEEE 1687 network is selected, and the access is made when the spine acts. -/
def execRegisterBridgeAccess (a : BridgeAccess) (s : State) : Host.Outcome State Fault Refusal :=
  tapAct s (fun s =>
    let s := tapSelect 0x11 s
    if awake s then portSettle (bridgeAccess a s) else s)

end Sys2Proof.Machine
end

