-- ==== Sys2Proof/Machine/Slots.lean ====
section
/-! DEFINITION. The slot commands: the operation of one slot starts alone at its core's present beat, as the same slot of an issued
bundle starts it (chapters 03, 05, 07, 08, 11, 13, 14; log entry 5). -/
namespace Sys2Proof.Machine

/-! ## MXE slot -/
/-- MCFG (R143). -/
def execMcfg (p : SlotAt) (a : CfgArgs) (s : State) : Host.Outcome State Fault Refusal := mxeAlone p (.mcfg a) s
/-- MALAT (R98). -/
def execMalat (p : SlotAt) (a : MalatArgs) (s : State) : Host.Outcome State Fault Refusal := mxeAlone p (.malat a) s
/-- MWSP (R152). -/
def execMwsp (p : SlotAt) (a : MwspArgs) (s : State) : Host.Outcome State Fault Refusal := mxeAlone p (.mwsp a) s
/-- MTLD (R154). -/
def execMtld (p : SlotAt) (a : MtldArgs) (s : State) : Host.Outcome State Fault Refusal := mxeAlone p (.mtld a) s
/-- MTP (R156). -/
def execMtp (p : SlotAt) (a : MtpArgs) (s : State) : Host.Outcome State Fault Refusal := mxeAlone p (.mtp a) s
/-- MCLR (R98). -/
def execMclr (p : SlotAt) (s : State) : Host.Outcome State Fault Refusal := mxeAlone p .mclr s

/-! ## VXE slot -/
/-- VLD (R211). -/
def execVld (p : SlotAt) (a : VmemArgs) (s : State) : Host.Outcome State Fault Refusal := vxeAlone p (.vld a) s
/-- VST (R211). -/
def execVst (p : SlotAt) (a : VmemArgs) (s : State) : Host.Outcome State Fault Refusal := vxeAlone p (.vst a) s
/-- VLDL (R211). -/
def execVldl (p : SlotAt) (a : VmemArgs) (s : State) : Host.Outcome State Fault Refusal := vxeAlone p (.vldl a) s
/-- VSTL (R211). -/
def execVstl (p : SlotAt) (a : VmemArgs) (s : State) : Host.Outcome State Fault Refusal := vxeAlone p (.vstl a) s
/-- VADD (R215). -/
def execVadd (p : SlotAt) (a : VarithArgs) (s : State) : Host.Outcome State Fault Refusal := vxeAlone p (.vadd a) s
/-- VSUB (R215). -/
def execVsub (p : SlotAt) (a : VarithArgs) (s : State) : Host.Outcome State Fault Refusal := vxeAlone p (.vsub a) s
/-- VMUL (R215). -/
def execVmul (p : SlotAt) (a : VarithArgs) (s : State) : Host.Outcome State Fault Refusal := vxeAlone p (.vmul a) s
/-- VFMA (R215). -/
def execVfma (p : SlotAt) (a : VarithArgs) (s : State) : Host.Outcome State Fault Refusal := vxeAlone p (.vfma a) s
/-- VMAX (R216). -/
def execVmax (p : SlotAt) (a : VarithArgs) (s : State) : Host.Outcome State Fault Refusal := vxeAlone p (.vmax a) s
/-- VMIN (R216). -/
def execVmin (p : SlotAt) (a : VarithArgs) (s : State) : Host.Outcome State Fault Refusal := vxeAlone p (.vmin a) s
/-- VEXP (R218). -/
def execVexp (p : SlotAt) (a : VarithArgs) (s : State) : Host.Outcome State Fault Refusal := vxeAlone p (.vexp a) s
/-- VRCP (R218). -/
def execVrcp (p : SlotAt) (a : VarithArgs) (s : State) : Host.Outcome State Fault Refusal := vxeAlone p (.vrcp a) s
/-- VRSQRT (R218). -/
def execVrsqrt (p : SlotAt) (a : VarithArgs) (s : State) : Host.Outcome State Fault Refusal := vxeAlone p (.vrsqrt a) s
/-- VRED (R219). -/
def execVred (p : SlotAt) (a : VarithArgs) (s : State) : Host.Outcome State Fault Refusal := vxeAlone p (.vred a) s
/-- VROT (R220). -/
def execVrot (p : SlotAt) (a : VarithArgs) (s : State) : Host.Outcome State Fault Refusal := vxeAlone p (.vrot a) s
/-- VCMP (R221). -/
def execVcmp (p : SlotAt) (a : VcmpArgs) (s : State) : Host.Outcome State Fault Refusal := vxeAlone p (.vcmp a) s
/-- VCVT (R222). -/
def execVcvt (p : SlotAt) (a : VarithArgs) (s : State) : Host.Outcome State Fault Refusal := vxeAlone p (.vcvt a) s
/-- VBCAST (R223). -/
def execVbcast (p : SlotAt) (a : VbcastArgs) (s : State) : Host.Outcome State Fault Refusal := vxeAlone p (.vbcast a) s
/-- VTOOF (R224). -/
def execVtoof (p : SlotAt) (a : VtoofArgs) (s : State) : Host.Outcome State Fault Refusal := vxeAlone p (.vtoof a) s

/-! ## OST slot -/
/-- OCFG (R195). -/
def execOcfg (p : SlotAt) (a : CfgArgs) (s : State) : Host.Outcome State Fault Refusal := ostAlone p (.ocfg a) s
/-- OCVT (R202). -/
def execOcvt (p : SlotAt) (a : OcvtArgs) (s : State) : Host.Outcome State Fault Refusal := ostAlone p (.ocvt a) s

/-! ## TX slot -/
/-- TXGO (R104). -/
def execTxgo (p : SlotAt) (eng : Bool) (a : TxgoArgs) (s : State) : Host.Outcome State Fault Refusal := txAlone p eng (.txgo a) s
/-- TXCANCEL (R302). -/
def execTxcancel (p : SlotAt) (eng : Bool) (a : TxcancelArgs) (s : State) : Host.Outcome State Fault Refusal := txAlone p eng (.txcancel a) s
/-- TXPUT (R105). -/
def execTxput (p : SlotAt) (eng : Bool) (a : TxputArgs) (s : State) : Host.Outcome State Fault Refusal := txAlone p eng (.txput a) s

/-! ## SYN slot -/
/-- CWAIT (R106). -/
def execCwait (p : SlotAt) (a : CwaitArgs) (s : State) : Host.Outcome State Fault Refusal := synAlone p (.cwait a) s
/-- CSIG (R106). -/
def execCsig (p : SlotAt) (a : CsigArgs) (s : State) : Host.Outcome State Fault Refusal := synAlone p (.csig a) s
/-- CWIN (R106). -/
def execCwin (p : SlotAt) (a : CwinArgs) (s : State) : Host.Outcome State Fault Refusal := synAlone p (.cwin a) s
/-- SARR (R333). -/
def execSarr (p : SlotAt) (a : SarrArgs) (s : State) : Host.Outcome State Fault Refusal := synAlone p (.sarr a) s
/-- SWAIT (R333). -/
def execSwait (p : SlotAt) (a : SwaitArgs) (s : State) : Host.Outcome State Fault Refusal := synAlone p (.swait a) s
/-- EOPEN (R348). -/
def execEopen (p : SlotAt) (s : State) : Host.Outcome State Fault Refusal := synAlone p .eopen s
/-- ECOMMIT (R359). -/
def execEcommit (p : SlotAt) (s : State) : Host.Outcome State Fault Refusal := synAlone p .ecommit s
/-- EDISCARD (R362). -/
def execEdiscard (p : SlotAt) (s : State) : Host.Outcome State Fault Refusal := synAlone p .ediscard s

/-! ## EXT slot -/
/-- PSEL (R91). -/
def execPsel (p : SlotAt) (a : PselArgs) (s : State) : Host.Outcome State Fault Refusal := extAlone p (.psel a) s
/-- XIMM (R90). -/
def execXimm (p : SlotAt) (a : XimmArgs) (s : State) : Host.Outcome State Fault Refusal := extAlone p (.ximm a) s
/-- PXIMM (R90). -/
def execPximm (p : SlotAt) (a : PximmArgs) (s : State) : Host.Outcome State Fault Refusal := extAlone p (.pximm a) s
/-- OFADD (R108). -/
def execOfadd (p : SlotAt) (a : OfaddArgs) (s : State) : Host.Outcome State Fault Refusal := extAlone p (.ofadd a) s
/-- OFIDX (R108). -/
def execOfidx (p : SlotAt) (a : OfidxArgs) (s : State) : Host.Outcome State Fault Refusal := extAlone p (.ofidx a) s
/-- OFSET (R108). -/
def execOfset (p : SlotAt) (a : OfsetArgs) (s : State) : Host.Outcome State Fault Refusal := extAlone p (.ofset a) s
/-- PSET (R108). -/
def execPset (p : SlotAt) (a : PsetArgs) (s : State) : Host.Outcome State Fault Refusal := extAlone p (.pset a) s
/-- PSETI (R108). -/
def execPseti (p : SlotAt) (a : PsetiArgs) (s : State) : Host.Outcome State Fault Refusal := extAlone p (.pseti a) s
/-- PLOG (R108). -/
def execPlog (p : SlotAt) (a : PlogArgs) (s : State) : Host.Outcome State Fault Refusal := extAlone p (.plog a) s

end Sys2Proof.Machine
end

