-- ==== Sys2Proof/Machine/Dispatch.lean ====
section
/-! DEFINITION. One arm per command: a direct call of its meaning. -/
namespace Sys2Proof.Machine

def exec (i : Instr) (s : State) : Host.Outcome State Fault Refusal :=
  match i with
  | .porstNAssert held => Sys2Proof.Machine.execPorstNAssert held s
  | .porstNRelease crownN => Sys2Proof.Machine.execPorstNRelease crownN s
  | .brownOut rail => Sys2Proof.Machine.execBrownOut rail s
  | .brownOutRecovery crownN => Sys2Proof.Machine.execBrownOutRecovery crownN s
  | .vddAonLoss => Sys2Proof.Machine.execVddAonLoss s
  | .bringupStep f => Sys2Proof.Machine.execBringupStep f s
  | .wave => Sys2Proof.Machine.execWave s
  | .characterisationRun c v rate o => Sys2Proof.Machine.execCharacterisationRun c v rate o s
  | .rebring => Sys2Proof.Machine.execRebring s
  | .go => Sys2Proof.Machine.execGo s
  | .create m => Sys2Proof.Machine.execCreate m s
  | .createDone m => Sys2Proof.Machine.execCreateDone m s
  | .massifReset m => Sys2Proof.Machine.execMassifReset m s
  | .massifResetDone m => Sys2Proof.Machine.execMassifResetDone m s
  | .teardown m => Sys2Proof.Machine.execTeardown m s
  | .teardownFillDone m => Sys2Proof.Machine.execTeardownFillDone m s
  | .massifBadCmd m => Sys2Proof.Machine.execMassifBadCmd m s
  | .load z => Sys2Proof.Machine.execLoad z s
  | .loadComplete z => Sys2Proof.Machine.execLoadComplete z s
  | .check z => Sys2Proof.Machine.execCheck z s
  | .checkComplete z => Sys2Proof.Machine.execCheckComplete z s
  | .start z => Sys2Proof.Machine.execStart z s
  | .stop z => Sys2Proof.Machine.execStop z s
  | .abort z => Sys2Proof.Machine.execAbort z s
  | .badCmd z => Sys2Proof.Machine.execBadCmd z s
  | .broadcastBundle z bad1 bad2 => Sys2Proof.Machine.execBroadcastBundle z bad1 bad2 s
  | .programEnd z => Sys2Proof.Machine.execProgramEnd z s
  | .stopHalt z => Sys2Proof.Machine.execStopHalt z s
  | .trapHalt z => Sys2Proof.Machine.execTrapHalt z s
  | .watchdog z => Sys2Proof.Machine.execWatchdog z s
  | .issueBundle c e => Sys2Proof.Machine.execIssueBundle c e s
  | .loop q a => Sys2Proof.Machine.execLoop q a s
  | .branch q a => Sys2Proof.Machine.execBranch q a s
  | .halt q => Sys2Proof.Machine.execHalt q s
  | .hint q a => Sys2Proof.Machine.execHint q a s
  | .mark q a => Sys2Proof.Machine.execMark q a s
  | .mcfg p a => Sys2Proof.Machine.execMcfg p a s
  | .malat p a => Sys2Proof.Machine.execMalat p a s
  | .mwsp p a => Sys2Proof.Machine.execMwsp p a s
  | .mtld p a => Sys2Proof.Machine.execMtld p a s
  | .mtp p a => Sys2Proof.Machine.execMtp p a s
  | .mclr p => Sys2Proof.Machine.execMclr p s
  | .passRerun c faults => Sys2Proof.Machine.execPassRerun c faults s
  | .vld p a => Sys2Proof.Machine.execVld p a s
  | .vst p a => Sys2Proof.Machine.execVst p a s
  | .vldl p a => Sys2Proof.Machine.execVldl p a s
  | .vstl p a => Sys2Proof.Machine.execVstl p a s
  | .vadd p a => Sys2Proof.Machine.execVadd p a s
  | .vsub p a => Sys2Proof.Machine.execVsub p a s
  | .vmul p a => Sys2Proof.Machine.execVmul p a s
  | .vfma p a => Sys2Proof.Machine.execVfma p a s
  | .vmax p a => Sys2Proof.Machine.execVmax p a s
  | .vmin p a => Sys2Proof.Machine.execVmin p a s
  | .vexp p a => Sys2Proof.Machine.execVexp p a s
  | .vrcp p a => Sys2Proof.Machine.execVrcp p a s
  | .vrsqrt p a => Sys2Proof.Machine.execVrsqrt p a s
  | .vred p a => Sys2Proof.Machine.execVred p a s
  | .vrot p a => Sys2Proof.Machine.execVrot p a s
  | .vcmp p a => Sys2Proof.Machine.execVcmp p a s
  | .vcvt p a => Sys2Proof.Machine.execVcvt p a s
  | .vbcast p a => Sys2Proof.Machine.execVbcast p a s
  | .vtoof p a => Sys2Proof.Machine.execVtoof p a s
  | .ocfg p a => Sys2Proof.Machine.execOcfg p a s
  | .ocvt p a => Sys2Proof.Machine.execOcvt p a s
  | .txgo p eng a => Sys2Proof.Machine.execTxgo p eng a s
  | .txcancel p eng a => Sys2Proof.Machine.execTxcancel p eng a s
  | .txput p eng a => Sys2Proof.Machine.execTxput p eng a s
  | .cwait p a => Sys2Proof.Machine.execCwait p a s
  | .csig p a => Sys2Proof.Machine.execCsig p a s
  | .cwin p a => Sys2Proof.Machine.execCwin p a s
  | .sarr p a => Sys2Proof.Machine.execSarr p a s
  | .swait p a => Sys2Proof.Machine.execSwait p a s
  | .eopen p => Sys2Proof.Machine.execEopen p s
  | .ecommit p => Sys2Proof.Machine.execEcommit p s
  | .ediscard p => Sys2Proof.Machine.execEdiscard p s
  | .psel p a => Sys2Proof.Machine.execPsel p a s
  | .ximm p a => Sys2Proof.Machine.execXimm p a s
  | .pximm p a => Sys2Proof.Machine.execPximm p a s
  | .ofadd p a => Sys2Proof.Machine.execOfadd p a s
  | .ofidx p a => Sys2Proof.Machine.execOfidx p a s
  | .ofset p a => Sys2Proof.Machine.execOfset p a s
  | .pset p a => Sys2Proof.Machine.execPset p a s
  | .pseti p a => Sys2Proof.Machine.execPseti p a s
  | .plog p a => Sys2Proof.Machine.execPlog p a s
  | .idleCycle c faults => Sys2Proof.Machine.execIdleCycle c faults s
  | .insertedCycle c faults => Sys2Proof.Machine.execInsertedCycle c faults s
  | .landing n => Sys2Proof.Machine.execLanding n s
  | .remoteRead n => Sys2Proof.Machine.execRemoteRead n s
  | .descriptorBurst c x => Sys2Proof.Machine.execDescriptorBurst c x s
  | .transferRequest c x write => Sys2Proof.Machine.execTransferRequest c x write s
  | .tagGrant => Sys2Proof.Machine.execTagGrant s
  | .trackerAdmit => Sys2Proof.Machine.execTrackerAdmit s
  | .dueTimeRecompute c => Sys2Proof.Machine.execDueTimeRecompute c s
  | .agePromotion => Sys2Proof.Machine.execAgePromotion s
  | .streamFault c x => Sys2Proof.Machine.execStreamFault c x s
  | .storeSpaceGrant p => Sys2Proof.Machine.execStoreSpaceGrant p s
  | .releaseItemLeaves c bad => Sys2Proof.Machine.execReleaseItemLeaves c bad s
  | .arrivalDepart c ctx => Sys2Proof.Machine.execArrivalDepart c ctx s
  | .summitRelease m ctx lclus => Sys2Proof.Machine.execSummitRelease m ctx lclus s
  | .staircaseRelease m ctx lclus => Sys2Proof.Machine.execStaircaseRelease m ctx lclus s
  | .screeStepDown c => Sys2Proof.Machine.execScreeStepDown c s
  | .rampQuarter c => Sys2Proof.Machine.execRampQuarter c s
  | .trapForward c => Sys2Proof.Machine.execTrapForward c s
  | .paceRecalibrate c => Sys2Proof.Machine.execPaceRecalibrate c s
  | .ageDerateStep c => Sys2Proof.Machine.execAgeDerateStep c s
  | .windowMark pt => Sys2Proof.Machine.execWindowMark pt s
  | .publishWindow => Sys2Proof.Machine.execPublishWindow s
  | .railSample => Sys2Proof.Machine.execRailSample s
  | .hintRecompute => Sys2Proof.Machine.execHintRecompute s
  | .avsFrame r => Sys2Proof.Machine.execAvsFrame r s
  | .droopCrossing p => Sys2Proof.Machine.execDroopCrossing p s
  | .clampStep p => Sys2Proof.Machine.execClampStep p s
  | .sensorSample t => Sys2Proof.Machine.execSensorSample t s
  | .tripClear => Sys2Proof.Machine.execTripClear s
  | .scrubAdvance => Sys2Proof.Machine.execScrubAdvance s
  | .scrubRead c faults => Sys2Proof.Machine.execScrubRead c faults s
  | .spineParity u => Sys2Proof.Machine.execSpineParity u s
  | .eventNotification => Sys2Proof.Machine.execEventNotification s
  | .clockOfferSend => Sys2Proof.Machine.execClockOfferSend s
  | .clockOffer c vendor h serial => Sys2Proof.Machine.execClockOffer c vendor h serial s
  | .clockColChoice => Sys2Proof.Machine.execClockColChoice s
  | .clockReq c vendor zero => Sys2Proof.Machine.execClockReq c vendor zero s
  | .clockRelease c vendor zero => Sys2Proof.Machine.execClockRelease c vendor zero s
  | .clockFail => Sys2Proof.Machine.execClockFail s
  | .holdoverRechoose => Sys2Proof.Machine.execHoldoverRechoose s
  | .clockTimeout => Sys2Proof.Machine.execClockTimeout s
  | .discoveryStart => Sys2Proof.Machine.execDiscoveryStart s
  | .position c h a => Sys2Proof.Machine.execPosition c h a s
  | .report c h a => Sys2Proof.Machine.execReport c h a s
  | .endMsg c h n => Sys2Proof.Machine.execEnd c h n s
  | .assign c h a => Sys2Proof.Machine.execAssign c h a s
  | .routes c h id e => Sys2Proof.Machine.execRoutes c h id e s
  | .alignReq c h t1 => Sys2Proof.Machine.execAlignReq c h t1 s
  | .alignRsp c h t2 t3 => Sys2Proof.Machine.execAlignRsp c h t2 t3 s
  | .done c h => Sys2Proof.Machine.execDone c h s
  | .fail c h code => Sys2Proof.Machine.execFail c h code s
  | .discoveryTimeout => Sys2Proof.Machine.execDiscoveryTimeout s
  | .partnerDetectTimeout c => Sys2Proof.Machine.execPartnerDetectTimeout c s
  | .trainingAttempt c t => Sys2Proof.Machine.execTrainingAttempt c t s
  | .physicalLinkUp c => Sys2Proof.Machine.execPhysicalLinkUp c s
  | .hello c a rsvd => Sys2Proof.Machine.execHello c a rsvd s
  | .helloTimeout c => Sys2Proof.Machine.execHelloTimeout c s
  | .credit c a rsvd => Sys2Proof.Machine.execCredit c a rsvd s
  | .idle c rsvd => Sys2Proof.Machine.execIdle c rsvd s
  | .idleFlitSend c => Sys2Proof.Machine.execIdleFlitSend c s
  | .linkDown c cause rsvd => Sys2Proof.Machine.execLinkDown c cause rsvd s
  | .flitCrcFail c => Sys2Proof.Machine.execFlitCrcFail c s
  | .partnerLoss c absent => Sys2Proof.Machine.execPartnerLoss c s absent
  | .partnerTraining c => Sys2Proof.Machine.execPartnerTraining c s
  | .autoRetrain c => Sys2Proof.Machine.execAutoRetrain c s
  | .retrain c => Sys2Proof.Machine.execRetrain c s
  | .portReset c => Sys2Proof.Machine.execPortReset c s
  | .colDisable c => Sys2Proof.Machine.execColDisable c s
  | .summit c h a => Sys2Proof.Machine.execSummit c h a s
  | .csigMsg c h a => Sys2Proof.Machine.execCsigMsg c h a s
  | .lread c h a => Sys2Proof.Machine.execLread c h a s
  | .mread c h block => Sys2Proof.Machine.execMread c h block s
  | .lwrite c h a => Sys2Proof.Machine.execLwrite c h a s
  | .mwrite c h a => Sys2Proof.Machine.execMwrite c h a s
  | .rdata c h bytes => Sys2Proof.Machine.execRdata c h bytes s
  | .wack c h => Sys2Proof.Machine.execWack c h s
  | .walkRd c h entry => Sys2Proof.Machine.execWalkRd c h entry s
  | .walkRsp c h entry => Sys2Proof.Machine.execWalkRsp c h entry s
  | .regRd c h addr bad r => Sys2Proof.Machine.execRegRd c h addr bad s r
  | .regWr c h addr data r => Sys2Proof.Machine.execRegWr c h addr data r s
  | .regRsp c h data => Sys2Proof.Machine.execRegRsp c h data s
  | .forwardMessage c msg => Sys2Proof.Machine.execForwardMessage c msg s
  | .psDataRead bad => Sys2Proof.Machine.execPsDataRead bad s
  | .psDataWrite data => Sys2Proof.Machine.execPsDataWrite data s
  | .countClear => Sys2Proof.Machine.execCountClear s
  | .hwmClear p => Sys2Proof.Machine.execHwmClear p s
  | .ledgeBgStatClear c => Sys2Proof.Machine.execLedgeBgStatClear c s
  | .streamTrkStatClear => Sys2Proof.Machine.execStreamTrkStatClear s
  | .hwStoreStatClear p => Sys2Proof.Machine.execHwStoreStatClear p s
  | .colErrClear c => Sys2Proof.Machine.execColErrClear c s
  | .regStatClear => Sys2Proof.Machine.execRegStatClear s
  | .clusTrapSumClear p => Sys2Proof.Machine.execClusTrapSumClear p s
  | .dieTrapSumClear => Sys2Proof.Machine.execDieTrapSumClear s
  | .ledgePerrLogClear c => Sys2Proof.Machine.execLedgePerrLogClear c s
  | .invalidate m => Sys2Proof.Machine.execInvalidate m s
  | .txResume c mask => Sys2Proof.Machine.execTxResume c mask s
  | .resumeAll m => Sys2Proof.Machine.execResumeAll m s
  | .tcFlush m => Sys2Proof.Machine.execTcFlush m s
  | .tcInval m all page => Sys2Proof.Machine.execTcInval m all page s
  | .tcInvalDone => Sys2Proof.Machine.execTcInvalDone s
  | .errNotify serial cause => Sys2Proof.Machine.execErrNotify serial cause s
  | .itestStart => Sys2Proof.Machine.execItestStart s
  | .itestStop r => Sys2Proof.Machine.execItestStop r s
  | .trstN => Sys2Proof.Machine.execTrstN s
  | .extest b => Sys2Proof.Machine.execExtest b s
  | .samplePreload b => Sys2Proof.Machine.execSamplePreload b s
  | .idcode => Sys2Proof.Machine.execIdcode s
  | .clamp => Sys2Proof.Machine.execClamp s
  | .highz => Sys2Proof.Machine.execHighz s
  | .wrapper scan => Sys2Proof.Machine.execWrapper s scan
  | .ijtag a => Sys2Proof.Machine.execIjtag a s
  | .bypass code => Sys2Proof.Machine.execBypass s code
  | .registerBridgeAccess a => Sys2Proof.Machine.execRegisterBridgeAccess a s
  | .referenceLock => Sys2Proof.Machine.execReferenceLock s
  | .telemMessage c h a => Sys2Proof.Machine.execTelemMessage c h a s
  | .clusAbsentClear p => Sys2Proof.Machine.execClusAbsentClear p s
  | .errPartnerClear => Sys2Proof.Machine.execErrPartnerClear s
  | .bringupDisClear => Sys2Proof.Machine.execBringupDisClear s
  | .regStatFirstClear => Sys2Proof.Machine.execRegStatFirstClear s
  | .elecStatBoClear => Sys2Proof.Machine.execElecStatBoClear s

end Sys2Proof.Machine
end

