-- ==== Sys2Proof/Safety.lean ====
section
/-! DEFINITION. What claims call a good state and a good command: tables and memories in canonical form, and what no command may
ever change. -/
namespace Sys2Proof.Machine

/-- Equal contents are equal data: the tables of cores, clusters and page headers, the program store and every core's ledge are in
canonical form. -/
structure State.Canon (s : State) : Prop where
  cores : smWf Core.reset s.cores = true
  clusters : smWf Cluster.reset s.clusters = true
  evts : smWf Evt.reset s.evts = true
  words : smWf 0 s.store.words = true
  ledges : ∀ e ∈ s.cores, Memory.wf e.2.ledge.mem = true

/-- A core within its limits: predicate flag 0 is 1 (R73), and at most 8 epochs are open (R348). -/
abbrev CoreLim (k : Core) : Prop := k.issue.pfs.getLsbD 0 = true ∧ k.epoch.stack.length ≤ 8
/-- Every core is within its limits. -/
structure State.Limits (s : State) : Prop where
  core : ∀ c : CoreId, CoreLim (getCore s c)

/-- What every command keeps: the fuses (they are burnt before the die ever starts), the queue of waiting commands, the
canonical form, and every core's limits. -/
structure Kept (s t : State) : Prop where
  fuse : t.fuse = s.fuse
  queue : t.pending = s.pending
  canon : s.Canon → t.Canon
  limits : s.Limits → t.Limits

/-- A core that acts: its die is awake, it is out of reset, it has not halted, and no operation of it waits for a rerun (R498). -/
structure CoreActs (s : State) (c : CoreId) : Prop where
  awake : awake s = true
  on : (getCore s c).presence = .on
  goes : (getCore s c).issue.halted = false
  clear : (getCore s c).err.rerun = []

/-- The two states differ in one core at most. -/
structure OnlyCore (c : CoreId) (s t : State) : Prop where
  others : ∀ d, d ≠ c → getCore t d = getCore s d
  rest : t = { s with cores := t.cores }

/-- The byte that a read of the ledge from `base` finds at place i: an access outside the ledge range, or in an active cache region,
reads zeros (R240, R267). -/
def ledgeByte (lines : Nat) (l : LedgeSt) (base i : Nat) : Byte := if ledgeClass lines l base = 0 then memGet l.mem (base + i) else 0
/-- A read of n bytes passes its parity. -/
def ReadsClean (env : Env) (req : BitVec 4) (base n : Nat) (l : LedgeSt) : Prop := (ledgeRead env req base n l).2.2 = []

/-- Parts of a core that an engine's own operation leaves alone: its ledge's bytes, flags, cairns and epochs. -/
structure CoreKeeps (k k' : Core) : Prop where
  mem : k'.ledge.mem = k.ledge.mem
  pfs : k'.issue.pfs = k.issue.pfs
  beat : k'.issue.beat = k.issue.beat
  cairn : k'.cairn = k.cairn
  epoch : k'.epoch = k.epoch

/-- A message that a col takes: its port carries messages, and the message is not malformed (R391, R405). -/
structure Arrives (s : State) (c : Col) (h : MsgHdr) (b : MsgBody) : Prop where
  live : (getCol s c).state = .up ∨ (getCol s c).state = .mgmtOnly
  good : malformed (getCol s c).state ⟨h, b⟩ = false

/-- What a core shows once an operation alone waits for a rerun: a lower cause that the last bundle tried has met stands (R30). -/
def rerunShown (s : State) (c : CoreId) : IssueSt :=
  let i := (getCore s c).issue
  if i.waitCause = .none ∨ i.waitCause = .rerun then
    { i with waitCause := if (windowEntry s c).isNone then emptyCause s c else .rerun, waitUnits := 0 }
  else i

/-- A message with this body, TAG and STATUS has been put on a col's wire, or waits at its egress, or is on its way there across the
ridge (R371). -/
def Sent (s t : State) (c : Col) (b : MsgBody) (tag : BitVec 14) (status : BitVec 3) : Prop :=
  (∃ m ∈ (getCol t c).wire.drop (getCol s c).wire.length ++ (getCol t c).egress.map (·.msg),
    m.body = b ∧ m.hdr.tag = tag ∧ m.hdr.status = status) ∨
  ∃ p ∈ t.net, ∃ e, p.what = .out c e ∧ e.msg.body = b ∧ e.msg.hdr.tag = tag ∧ e.msg.hdr.status = status

/-- The two cores differ at most in the signals that have not yet left their die (R334). -/
def SameCore (k k' : Core) : Prop := k' = { k with xfer := { k.xfer with outSignals := k'.xfer.outSignals } }

/-- What sending and receiving at the cols may change: the cols, the activity counts of the stamping points, the signals of a core that
have not left this die, and the stamp of an alignment request that departs. -/
structure Linked (s t : State) : Prop where
  core : ∀ c, SameCore (getCore s c) (getCore t c)
  rest : t = { s with
    cores := t.cores, cols := t.cols, disc := { s.disc with t1 := t.disc.t1 }, pm := { s.pm with stamps := t.pm.stamps } }

/-- What carrying messages across the ridge may change besides: the packets in transit, with what counts them at the ports, and the
routers' counts of flits and of promoted packets. -/
structure Carried (s t : State) : Prop where
  core : ∀ c, SameCore (getCore s c) (getCore t c)
  clus : ∀ p, getClus t p = { getClus s p with flits := (getClus t p).flits, promoted := (getClus t p).promoted }
  rest : t = { s with
    cores := t.cores, clusters := t.clusters, cols := t.cols, net := t.net, netNext := t.netNext, netWait := t.netWait
    disc := { s.disc with t1 := t.disc.t1 }, pm := { s.pm with stamps := t.pm.stamps } }

/-- Only landings and reads for cores of this die are in transit. -/
def OnlyForCores (s : State) : Prop := ∀ p ∈ s.net, (∃ w, p.what = .land w) ∨ ∃ r, p.what = .read r

/-- Commands that act on a die that has no power, is held in power-on reset or is in brown-out (R535, R537, R542): those of the
pins that end these conditions, and those of the TAP. -/
def actsAsleep : Instr → Bool
  | .porstNAssert _ | .porstNRelease _ | .brownOutRecovery _ | .vddAonLoss => true
  | .trstN | .extest _ | .samplePreload _ | .idcode | .clamp | .highz | .wrapper | .bypass _ | .ijtag _ | .registerBridgeAccess _ => true
  | _ => false

end Sys2Proof.Machine
end

