-- ==== Sys2Proof/Certificates/Slice0/Obligations.lean ====
section
/-! DEFINITION. The statements about the model, for the provers. A statement about a command says that it answers a next state, for every
state and operands that meet the hypotheses, and what that state holds. A value that a log entry fixes is the model's choice, and is
named as such. -/

open Sys2Proof Sys2Proof.Machine

/-- A command at the front of the queue is the command that a step runs, on the state with the queue's rest (log entry 1). -/
def Obligations.StepRunsTheFrontCommand : Prop :=
  ∀ (c : Instr) (rest : List Instr) (s : State), s.pending = c :: rest → step s = exec c { s with pending := rest }

/-- On an empty queue a step is one tick (the model's choice, log entry 4): a locked timebase counts it (R46), the spine oscillator counts
it while the timebase holds (R439), a bring-up in progress is timed by it, and a die that does not act stands. -/
def Obligations.EmptyQueueTicks : Prop :=
  (∀ s : State, s.pending = [] → awake s = true → ∃ t, step s = .next t ∧ t.pending = [] ∧
    t.tb.count = (if s.tb.locked then s.tb.count + 1 else s.tb.count) ∧
    t.tb.oscNs = (if s.tb.locked then s.tb.oscNs else s.tb.oscNs + 1) ∧ t.tb.ranNs = s.tb.ranNs + 1 ∧
    t.bring.elapsedNs = (if s.bring.step.toNat < 10 then s.bring.elapsedNs + 1 else s.bring.elapsedNs) ∧
    t.cores = s.cores ∧ t.clusters = s.clusters ∧ t.seqs = s.seqs ∧ t.evts = s.evts ∧ t.cols = s.cols ∧ t.net = s.net) ∧
  (∀ s : State, s.pending = [] → awake s = false → step s = .next s)

/-- What the state after reset holds: no command waits, every table is in canonical form and every core within its limits, bring-up is at
its first step, and registers are at the P: values of their tables (R18), offset registers and predicate flags at 0 but for PF0, which reads
1 (R73, R486). -/
def Obligations.ResetState : Prop :=
  let s := State.reset
  s.pending = [] ∧ s.Canon ∧ s.Limits ∧ awake s = true ∧ s.tb.count = 0 ∧ s.tb.locked = false ∧ s.bring.step = 1 ∧ s.disc.clockCol = none ∧
  s.err.pclus = 63 ∧ s.err.fatal = false ∧ s.scrub.en = true ∧ s.scrub.interval = 16 ∧ s.trk.ageLimit = 2048 ∧
  s.pm.cap = 900 ∧ s.pm.capEn = true ∧ s.pm.vFloor = 650 ∧ s.pm.hintEn = true ∧ s.pm.hintLead = 2000 ∧ s.pm.paceFloor = 4 ∧
  s.pm.boostEn = true ∧ s.pm.droopTh = 40 ∧ s.pm.kPace = 32 ∧ s.pm.linkJ = 16 ∧ s.pm.telemPeriod = 244 ∧ s.pm.telemPower = true ∧
  s.pm.telemEnergy = true ∧ s.therm.warn = 95 ∧ s.therm.throt = 105 ∧ s.therm.trip = 120 ∧ s.therm.hyst = 3 ∧
  (∀ m : Massif, (getSeq s m).state = .idle ∧ (getSeq s m).hold = .ended ∧ (getSeq s m).wdogLimit = 30 ∧ (getMassif s m).state = .none ∧
    (getMassif s m).tagMax = 8192 ∧ (getMassif s m).vReq = 750 ∧ (getMassif s m).summit.parent = 31) ∧
  (∀ c : Col, (getCol s c).state = .down ∧ (getCol s c).autoRetrain = true) ∧
  (∀ p : PClus, (getClus s p).repair.lclus = 63 ∧ (getClus s p).fifo = [] ∧ (getClus s p).held = []) ∧
  (∀ l : Fin 40, s.bring.lmap.get l = 63) ∧
  (∀ c : CoreId, (getCore s c).issue.hostLimit = 0xFFF ∧ (getCore s c).issue.waitCause = .halted ∧ (getCore s c).issue.beat = 0 ∧
    (getCore s c).issue.ofs = Vector.replicate 32 0 ∧ (getCore s c).issue.pfs = 1 ∧ (getCore s c).ledge.scrubbed = BitVec.allOnes 96 ∧
    (∀ k, cairnOpen (getCore s c).cairn k = true ∧ smGet 0 (getCore s c).cairn.counts k = 0) ∧ (getCore s c).epoch.stack = [])

/-- No command stops the block: every one answers a next state, and keeps the fuses, the rest of the queue, the canonical form and the
limits of the cores. -/
def Obligations.EveryCommandAnswers : Prop := ∀ (c : Instr) (s : State), ∃ t, exec c s = .next t ∧ Kept s t

/-- Every step keeps the canonical form of the tables, the program store and the ledges, and the fuses. -/
def Obligations.StepKeepsCanonicalForm : Prop :=
  ∀ s : State, s.Canon → ∃ t, step s = .next t ∧ t.Canon ∧ t.fuse = s.fuse

/-- Every step keeps every core within its limits: predicate flag 0 is 1 (R73), and at most 8 epochs are open (R348). -/
def Obligations.StepKeepsCoreLimits : Prop :=
  ∀ s : State, s.Limits → ∃ t, step s = .next t ∧ t.Limits

/-- A die that has no power, is held in power-on reset or is in brown-out takes no command but those of the pins and of the TAP (R535, R537,
R542; log entry 2): every other leaves the whole state as it is. -/
def Obligations.SleepingDieStands : Prop :=
  ∀ (c : Instr) (s : State), awake s = false → actsAsleep c = false → exec c s = .next s

/-- Slot words (R84, R85): the word that encodes an operation of a slot, within its ranges, decodes to that operation, with every operand at
every value its field admits. -/
def Obligations.SlotWordsRoundTrip : Prop :=
  (∀ (x : BitVec 23) (op : SeqOp), op.wf x = true → decodeSeqOp x (encodeSeqOp op) = some op) ∧
  (∀ op : MxeOp, op.wf = true → decodeMxeOp (encodeMxeOp op) = some op) ∧
  (∀ op : VxeOp, op.wf = true → decodeVxeOp (encodeVxeOp op) = some op) ∧
  (∀ op : OstOp, op.wf = true → decodeOstOp (encodeOstOp op) = some op) ∧
  (∀ op : TxOp, op.wf = true → decodeTxOp (encodeTxOp op) = some op) ∧
  (∀ (x : BitVec 23) (op : SynOp), op.wf x = true → decodeSynOp x (encodeSynOp op) = some op) ∧
  (∀ op : ExtOp, op.wf = true → decodeExtOp (encodeExtOp op) = some op)

/-- The EXT operations that write offset registers: each core's OFADD, OFIDX and OFSET give the value of R108 to the register named, from
the registers as they stood at issue; guards and extension are those of a bundle without an extension operation; nothing else of the die
changes. The EXT operations that write predicate flags: PSET, PSETI and PLOG give flag d the comparison or the connective of R108, PF0
ignores the write (R73), every other flag stands, and nothing but the core's flags, guards and extension changes. PSEL gives slot k its flag
XOR its inversion bit as guard; XIMM gives an extension and lets every slot execute; PXIMM gives an extension, and guards the slots of its
mask by one flag; without an extension operation every slot executes (R90, R91). Nothing else changes. -/
def Obligations.ExtensionSlotOperations : Prop :=
  (
  ∀ (p : SlotAt) (s : State), CoreActs s p.core →
    (∀ a : OfaddArgs, ∃ t, exec (.ofadd p a) s = .next t ∧ OnlyCore p.core s t ∧
      getCore t p.core = { getCore s p.core with issue := { (getCore s p.core).issue with
        guards := 0x3F, ext := none
        ofs := (getCore s p.core).issue.ofs.set a.d.toNat ((getCore s p.core).issue.ofs.get a.a.toFin + a.imm.signExtend 48) } }) ∧
    (∀ a : OfidxArgs, ∃ t, exec (.ofidx p a) s = .next t ∧ OnlyCore p.core s t ∧
      getCore t p.core = { getCore s p.core with issue := { (getCore s p.core).issue with
        guards := 0x3F, ext := none
        ofs := (getCore s p.core).issue.ofs.set a.d.toNat ((getCore s p.core).issue.ofs.get a.a.toFin +
          BitVec.ofNat 48 (idxValue (slotEnv s p) a.src.toNat * a.m.toNat * 2 ^ a.sh.toNat)) } }) ∧
    (∀ a : OfsetArgs, ∃ t, exec (.ofset p a) s = .next t ∧ OnlyCore p.core s t ∧
      getCore t p.core = { getCore s p.core with issue := { (getCore s p.core).issue with
        guards := 0x3F, ext := none
        ofs := (getCore s p.core).issue.ofs.set a.d.toNat (BitVec.ofNat 48 (a.imm.toNat * 2 ^ a.sh.toNat)) } })) ∧
  (
  ∀ (p : SlotAt) (s : State), CoreActs s p.core →
    let i := (getCore s p.core).issue
    let set (d : BitVec 3) (v : Bool) (t : State) : Prop :=
      OnlyCore p.core s t ∧
      (∀ k : Fin 8, (getCore t p.core).issue.pfs.getLsbD k = (if k.val = d.toNat ∧ d ≠ 0 then v else i.pfs.getLsbD k)) ∧
      getCore t p.core = { getCore s p.core with issue := { i with guards := 0x3F, ext := none, pfs := (getCore t p.core).issue.pfs } }
    (∀ a : PsetArgs, ∃ t, exec (.pset p a) s = .next t ∧ set a.d (ofCompare a.cmp.toNat (i.ofs.get a.a.toFin) (i.ofs.get a.b.toFin)) t) ∧
    (∀ a : PsetiArgs, ∃ t, exec (.pseti p a) s = .next t ∧ set a.d (ofCompare a.cmp.toNat (i.ofs.get a.a.toFin) (a.imm.setWidth 48)) t) ∧
    (∀ a : PlogArgs, ∃ t, exec (.plog p a) s = .next t ∧
      set a.d (match a.op.toNat with
        | 0 => i.pfs.getLsbD a.a.toNat && i.pfs.getLsbD a.b.toNat
        | 1 => i.pfs.getLsbD a.a.toNat || i.pfs.getLsbD a.b.toNat
        | 2 => i.pfs.getLsbD a.a.toNat != i.pfs.getLsbD a.b.toNat
        | _ => i.pfs.getLsbD a.a.toNat && !i.pfs.getLsbD a.b.toNat) t)) ∧
  (
  ∀ (p : SlotAt) (s : State), CoreActs s p.core →
    let i := (getCore s p.core).issue
    (∀ a : PselArgs, ∃ t, exec (.psel p a) s = .next t ∧ OnlyCore p.core s t ∧
      (∀ k : Fin 6, (getCore t p.core).issue.guards.getLsbD k = (i.pfs.getLsbD (a.sel.toNat / 8 ^ k.val % 8) != a.inv.getLsbD k)) ∧
      getCore t p.core = { getCore s p.core with issue := { i with guards := (getCore t p.core).issue.guards, ext := none } }) ∧
    (∀ a : XimmArgs, ∃ t, exec (.ximm p a) s = .next t ∧ OnlyCore p.core s t ∧
      getCore t p.core = { getCore s p.core with issue := { i with guards := 0x3F, ext := some (a.tgt, a.x) } }) ∧
    (∀ a : PximmArgs, ∃ t, exec (.pximm p a) s = .next t ∧ OnlyCore p.core s t ∧
      (∀ k : Fin 6, (getCore t p.core).issue.guards.getLsbD k = (!a.gmask.getLsbD k || (i.pfs.getLsbD a.flag.toNat != a.inv))) ∧
      getCore t p.core = { getCore s p.core with issue := { i with
        guards := (getCore t p.core).issue.guards, ext := some (a.tgt, a.x.setWidth 23) } }) ∧
    (∀ pfs : BitVec 8, extGuards pfs .nop = (0x3F, none)))

/-- VADD, VSUB, VMUL, VFMA, VMAX and VMIN, not predicated off: each lane of vd holds the lane result of R215, R216, R217 for the operands as
they stood, every other vector register, the offset registers, the flags, the ledge and the MXE's accumulators stand, and outside the core
one VXE operation of one beat is counted (R442), and nothing else changes. -/
def Obligations.VectorArithmetic : Prop :=
  ∀ (p : SlotAt) (a : VarithArgs) (s : State), CoreActs s p.core → (getCore s p.core).vxe.run = none →
    (getCore s p.core).issue.guards.getLsbD 1 = true →
    let k := getCore s p.core
    let x (i : Nat) := vLane a.bf (vReg k.vxe a.va) i
    let y (i : Nat) := vLane a.bf (vReg k.vxe a.vb) i
    let z (i : Nat) := vLane a.bf (vReg k.vxe a.vc) i
    let lanes (f : Nat → LaneOut) (t : State) : Prop :=
      OnlyCore p.core (countCore p.core 2 1 s) t ∧
      vReg (getCore t p.core).vxe a.vd = vPack a.bf ((List.range (vLanes a.bf)).map (fun i => (f i).1)) ∧
      (∀ r : BitVec 4, r ≠ a.vd → vReg (getCore t p.core).vxe r = vReg k.vxe r) ∧
      (getCore t p.core).vxe.opCount = k.vxe.opCount + 1 ∧
      (getCore t p.core).issue.ofs = k.issue.ofs ∧ (getCore t p.core).issue.pfs = k.issue.pfs ∧
      (getCore t p.core).issue.beat = k.issue.beat ∧ (getCore t p.core).ledge = k.ledge ∧ (getCore t p.core).xfer = k.xfer ∧
      (getCore t p.core).cairn = k.cairn ∧ (getCore t p.core).epoch = k.epoch ∧ (getCore t p.core).mxe.pairHi = k.mxe.pairHi ∧
      (getCore t p.core).mxe.pairLo = k.mxe.pairLo
    (∃ t, exec (.vadd p a) s = .next t ∧ lanes (fun i => vAdd a.bf false (x i) (y i)) t) ∧
    (∃ t, exec (.vsub p a) s = .next t ∧ lanes (fun i => vAdd a.bf true (x i) (y i)) t) ∧
    (∃ t, exec (.vmul p a) s = .next t ∧ lanes (fun i => vFma a.bf (some (x i, y i)) false none) t) ∧
    (∃ t, exec (.vfma p a) s = .next t ∧ lanes (fun i => vFma a.bf (some (x i, y i)) false (some (z i))) t) ∧
    (∃ t, exec (.vmax p a) s = .next t ∧ lanes (fun i => vMaxMin a.bf true (x i) (y i)) t) ∧
    (∃ t, exec (.vmin p a) s = .next t ∧ lanes (fun i => vMaxMin a.bf false (x i) (y i)) t)

/-- VROT, VCVT and VBCAST, not predicated off: the lanes of vd are those of R220, R222, R223; every other vector register and the ledge
stand. VCMP gives a predicate flag its comparison (R221), PF0 ignoring the write (R73); VTOOF gives an offset register the low 48 bits of a
vector register (R224); nothing else of the core but its operation count changes. Outside the core each counts as one VXE operation of one
beat (R442), and nothing else changes. -/
def Obligations.VectorMoves : Prop :=
  (
  ∀ (p : SlotAt) (s : State), CoreActs s p.core → (getCore s p.core).vxe.run = none →
    (getCore s p.core).issue.guards.getLsbD 1 = true →
    let k := getCore s p.core
    let gives (vd : BitVec 4) (bf : Bool) (l : List Nat) (t : State) : Prop :=
      OnlyCore p.core (countCore p.core 2 1 s) t ∧ vReg (getCore t p.core).vxe vd = vPack bf l ∧
      (∀ r : BitVec 4, r ≠ vd → vReg (getCore t p.core).vxe r = vReg k.vxe r) ∧ (getCore t p.core).ledge = k.ledge ∧
      (getCore t p.core).issue.ofs = k.issue.ofs ∧ (getCore t p.core).issue.pfs = k.issue.pfs
    (∀ a : VarithArgs, ∃ t, exec (.vrot p a) s = .next t ∧
      gives a.vd a.bf ((List.range (vLanes a.bf)).map (fun i =>
        (vRotLane a.bf (a.sub == 1) (vReg k.vxe a.va) (vReg k.vxe a.vb) (vReg k.vxe a.vc) i).1)) t) ∧
    (∀ a : VarithArgs, a.sub = 0 → ∃ t, exec (.vcvt p a) s = .next t ∧
      gives a.vd true ((List.range 128).map (fun i =>
        let c := if i < 64 then vLane false (vReg k.vxe a.va) i else vLane false (vReg k.vxe a.vb) (i - 64)
        (bf16Encode (vSign false c) (vVal false c)).1)) t) ∧
    (∀ a : VarithArgs, a.sub ≠ 0 → ∃ t, exec (.vcvt p a) s = .next t ∧
      gives a.vd false ((List.range 64).map (fun i => vLane true (vReg k.vxe a.va) (i + if a.sub = 1 then 0 else 64) * 65536)) t) ∧
    (∀ a : VbcastArgs, ∃ t, exec (.vbcast p a) s = .next t ∧
      gives a.vd a.bf (List.replicate (vLanes a.bf) (vLane a.bf (vReg k.vxe a.va) a.j.toNat)) t)) ∧
  (
  ∀ (p : SlotAt) (s : State), CoreActs s p.core → (getCore s p.core).vxe.run = none →
    (getCore s p.core).issue.guards.getLsbD 1 = true →
    let k := getCore s p.core
    (∀ a : VcmpArgs, ∃ t, exec (.vcmp p a) s = .next t ∧ OnlyCore p.core (countCore p.core 2 1 s) t ∧
      (∀ j : Fin 8, (getCore t p.core).issue.pfs.getLsbD j = (if j.val = a.d.toNat ∧ a.d ≠ 0 then vcmpResult k.vxe a else k.issue.pfs.getLsbD j)) ∧
      getCore t p.core = { k with
        issue := { k.issue with pfs := (getCore t p.core).issue.pfs }, vxe := { k.vxe with opCount := k.vxe.opCount + 1 } }) ∧
    (∀ a : VtoofArgs, ∃ t, exec (.vtoof p a) s = .next t ∧ OnlyCore p.core (countCore p.core 2 1 s) t ∧
      getCore t p.core = { k with
        issue := { k.issue with ofs := k.issue.ofs.set a.d.toNat (BitVec.ofNat 48 (leNat ((vReg k.vxe a.va).take 6))) }
        vxe := { k.vxe with opCount := k.vxe.opCount + 1 } }))

/-- VEXP, VRCP, VRSQRT and VRED take two beats (R212): at their first they read their operand and leave every register as it was, and hold
the VXE with step 1 to come, and one VXE operation of two beats is counted (R442). The second step of VEXP, VRCP and VRSQRT gives every lane
of vd the result of R218 for the operand read at the first; that of VRED the root of R219 in every lane; one predicated off writes nothing
(R91). -/
def Obligations.TwoBeatVectorOperations : Prop :=
  (
  ∀ (p : SlotAt) (a : VarithArgs) (s : State) (i : Instr) (op : VxeOp), CoreActs s p.core → (getCore s p.core).vxe.run = none →
    (i, op) ∈ [(Instr.vexp p a, VxeOp.vexp a), (.vrcp p a, .vrcp a), (.vrsqrt p a, .vrsqrt a), (.vred p a, .vred a)] →
    let k := getCore s p.core
    ∃ t, exec i s = .next t ∧ OnlyCore p.core (countCore p.core 3 1 s) t ∧
      (getCore t p.core).vxe.run = some (⟨p.addr, k.issue.beat, 1, !k.issue.guards.getLsbD 1⟩, ⟨op, vReg k.vxe a.va⟩) ∧
      (getCore t p.core).vxe.vregs = k.vxe.vregs ∧ (getCore t p.core).issue = k.issue ∧ (getCore t p.core).ledge = k.ledge) ∧
  (
  ∀ (k : Core) (pr : Progress) (va : List Byte) (a : VarithArgs),
    (∀ op : VxeOp, k.vxe.run = some (pr, ⟨op, va⟩) → pr.off = true → (vxeAdvance k).vxe.vregs = k.vxe.vregs) ∧
    (∀ f : Nat, ∀ op : VxeOp, (f, op) ∈ [(0, VxeOp.vexp a), (1, .vrcp a), (2, .vrsqrt a)] →
      k.vxe.run = some (pr, ⟨op, va⟩) → pr.off = false →
      vReg (vxeAdvance k).vxe a.vd =
        vPack a.bf ((List.range (vLanes a.bf)).map (fun i => (vApprox a.bf f (vLane a.bf va i)).1)) ∧
      (vxeAdvance k).vxe.run = none ∧ (vxeAdvance k).ledge = k.ledge) ∧
    (k.vxe.run = some (pr, ⟨.vred a, va⟩) → pr.off = false →
      vReg (vxeAdvance k).vxe a.vd = vPack a.bf (List.replicate (vLanes a.bf)
        (vReduce a.bf a.sub.toNat ((List.range (vLanes a.bf)).map (vLane a.bf va))).1) ∧
      (vxeAdvance k).vxe.run = none ∧ (vxeAdvance k).ledge = k.ledge))

/-- VLD and VLDL, not predicated off: a read that passes its parity puts its bytes into vd, or into vd to vd+3 (R211, R239), one that fails
waits for a rerun, which holds the core's issue, and writes no vector register (R496, R498), and the ledge's bytes stand; VST and VSTL store
into the ledge where the address lies in it, and nowhere else (R240, R267). INC advances the base register by the bytes moved (R89); every
other vector register's bytes and every other byte of the ledge stand; outside the core the operation and its ledge slot are counted (R442),
and nothing else changes. -/
def Obligations.VectorMemoryOperations : Prop :=
  ∀ (p : SlotAt) (a : VmemArgs) (s : State) (line : Bool), CoreActs s p.core → (getCore s p.core).vxe.run = none →
    (getCore s p.core).issue.guards.getLsbD 1 = true →
    let k := getCore s p.core
    let n := if line then 1024 else 256
    let base := latRef (latchOf k.issue p.addr) 2 a.base a.d n
    let ofs := if a.inc then k.issue.ofs.set a.base.toNat (k.issue.ofs.get a.base.toFin + BitVec.ofNat 48 n) else k.issue.ofs
    let kept (slot : Nat) (t : State) : Prop := OnlyCore p.core (countCore p.core 2 1 (countCore p.core slot 1 s)) t ∧
      (getCore t p.core).mxe = k.mxe ∧ (getCore t p.core).ost = k.ost ∧ (getCore t p.core).xfer = k.xfer ∧
      (getCore t p.core).cairn = k.cairn ∧ (getCore t p.core).epoch = k.epoch
    (∃ t, exec (if line then .vldl p a else .vld p a) s = .next t ∧ kept 7 t ∧ (getCore t p.core).ledge.mem = k.ledge.mem ∧
      (∀ i, i < 256 * a.v.toNat ∨ 256 * a.v.toNat + n ≤ i → memGet (getCore t p.core).vxe.vregs i = memGet k.vxe.vregs i) ∧
      (ReadsClean (slotEnv s p) 2 base n k.ledge → (getCore t p.core).err = k.err ∧ (getCore t p.core).issue = { k.issue with ofs := ofs } ∧
        ∀ i, i < n → memGet (getCore t p.core).vxe.vregs (256 * a.v.toNat + i) = ledgeByte (dieLines s) k.ledge base i) ∧
      (¬ReadsClean (slotEnv s p) 2 base n k.ledge → (getCore t p.core).vxe.vregs = k.vxe.vregs ∧
        (getCore t p.core).issue = { rerunShown s p.core with ofs := ofs } ∧
        (getCore t p.core).err.rerun.length = k.err.rerun.length + 1)) ∧
    (∃ t, exec (if line then .vstl p a else .vst p a) s = .next t ∧ kept 8 t ∧ (getCore t p.core).vxe.vregs = k.vxe.vregs ∧
      (getCore t p.core).err = k.err ∧ (getCore t p.core).issue = { k.issue with ofs := ofs } ∧
      (ledgeClass (dieLines s) k.ledge base = 0 →
        (∀ i, i < n → memGet (getCore t p.core).ledge.mem (base + i) = memGet k.vxe.vregs (256 * a.v.toNat + i)) ∧
        (∀ i, i < base ∨ base + n ≤ i → memGet (getCore t p.core).ledge.mem i = memGet k.ledge.mem i)) ∧
      (ledgeClass (dieLines s) k.ledge base ≠ 0 → (getCore t p.core).ledge.mem = k.ledge.mem))

/-- MCFG, MALAT, MTLD and MCLR, not predicated off, at the first beat of each: MCFG whose read passes gives its set the first 96 bytes of
its line and takes the set's pass index to 0 (R143, R145); MALAT and MTLD of one line give the latch and the shadow tile that line, and
longer ones leave them as they were and hold the MXE with step 1 to come (R98, R498); MALAT's RESET sets the cursor; MCLR clears the result
buffer and the cursor. The ledge's bytes, the offset registers and the flags stand, and outside the core the read slot is counted (R442),
and nothing else changes. The last beat of a MALAT or an MTLD whose reads have all passed: the latch, or the shadow tile, takes the lines
held and the line of this beat together (R98, R161), and the shadow tile becomes valid. -/
def Obligations.MatrixConfigurationAndLoads : Prop :=
  (
  ∀ (p : SlotAt) (s : State), CoreActs s p.core → (getCore s p.core).mxe.run = none → (getCore s p.core).err.gate = [] →
    (getCore s p.core).issue.guards.getLsbD 0 = true →
    let k := getCore s p.core
    let t0 := latchOf k.issue p.addr
    let read (base i : Nat) : Byte := ledgeByte (dieLines s) k.ledge base i
    let kept (t : State) : Prop := OnlyCore p.core (countCore p.core 7 1 s) t ∧ CoreKeeps k (getCore t p.core) ∧
      (getCore t p.core).issue.ofs = k.issue.ofs ∧
      (getCore t p.core).vxe = k.vxe ∧ (getCore t p.core).ost = k.ost ∧ (getCore t p.core).xfer = k.xfer
    (∀ a : CfgArgs, let base := latRef t0 1 a.base a.d 1024
      ∃ t, exec (.mcfg p a) s = .next t ∧ kept t ∧ (getCore t p.core).mxe.run = none ∧
        (∀ i, i < 96 * a.c.toNat ∨ 96 * a.c.toNat + 96 ≤ i → memGet (getCore t p.core).mxe.cfg i = memGet k.mxe.cfg i) ∧
        (ReadsClean (slotEnv s p) 1 base 1024 k.ledge →
          (getCore t p.core).mxe.passIdx.get a.c.toFin = 0 ∧
          ∀ i, i < 96 → memGet (getCore t p.core).mxe.cfg (96 * a.c.toNat + i) = read base i)) ∧
    (∀ a : MalatArgs, let base := latRef t0 1 a.base a.d 1024
      ∃ t, exec (.malat p a) s = .next t ∧ kept t ∧ (getCore t p.core).mxe.cfg = k.mxe.cfg ∧
        (getCore t p.core).mxe.cursor = (if a.reset then BitVec.ofNat 14 (1024 * a.s.toNat) else k.mxe.cursor) ∧
        (a.n1 ≠ 0 → (getCore t p.core).mxe.latch = k.mxe.latch ∧
          (getCore t p.core).mxe.run = some (⟨p.addr, k.issue.beat, 1, false⟩, .malat (a.n1.toNat + 1) a.s.toNat base)) ∧
        (a.n1 = 0 → ReadsClean (slotEnv s p) 1 base 1024 k.ledge → (getCore t p.core).mxe.run = none ∧
          ∀ i, i < 1024 → memGet (getCore t p.core).mxe.latch (1024 * a.s.toNat + i) = read base i)) ∧
    (∀ a : MtldArgs, let base := latRef t0 1 a.base a.d 1024
      ∃ t, exec (.mtld p a) s = .next t ∧ kept t ∧ (getCore t p.core).mxe.active = k.mxe.active ∧
        (a.wcls = 1 → (getCore t p.core).mxe.shadow = k.mxe.shadow ∧
          (getCore t p.core).mxe.run = some (⟨p.addr, k.issue.beat, 1, false⟩, .mtld 2 base)) ∧
        (a.wcls ≠ 1 → ReadsClean (slotEnv s p) 1 base 1024 k.ledge → (getCore t p.core).mxe.shadowValid = true ∧
          (getCore t p.core).mxe.run = none ∧ ∀ i, i < 1024 → memGet (getCore t p.core).mxe.shadow i = read base i)) ∧
    (∃ t, exec (.mclr p) s = .next t ∧ OnlyCore p.core s t ∧
      getCore t p.core = { k with mxe := { k.mxe with resHi := [], resLo := [], cursor := 0, hits := [], second := false } })) ∧
  (
  ∀ (env : Env) (k : Core) (pr : Progress) (n base : Nat), pr.off = false → pr.step ≠ 0 → pr.step + 1 = n → k.mxe.hits = [] →
    let off := offAdd base (1024 * pr.step)
    let held (i : Nat) : Byte := if i < 1024 * pr.step then memGet k.mxe.wHeld i else ledgeByte env.lines k.ledge off (i - 1024 * pr.step)
    ReadsClean env 1 off 1024 k.ledge →
    (∀ place : Nat, k.mxe.run = some (pr, .malat n place base) →
      (mxeAdvance env k).mxe.run = none ∧ (mxeAdvance env k).ledge.mem = k.ledge.mem ∧
      (∀ i, i < 1024 * n → memGet (mxeAdvance env k).mxe.latch (1024 * place + i) = held i) ∧
      (∀ i, i < 1024 * place ∨ 1024 * place + 1024 * n ≤ i → memGet (mxeAdvance env k).mxe.latch i = memGet k.mxe.latch i)) ∧
    (k.mxe.run = some (pr, .mtld n base) →
      (mxeAdvance env k).mxe.run = none ∧ (mxeAdvance env k).ledge.mem = k.ledge.mem ∧ (mxeAdvance env k).mxe.shadowValid = true ∧
      (∀ i, i < 1024 * n → memGet (mxeAdvance env k).mxe.shadow i = held i)))

/-- MWSP and MTP, not predicated off, at their first beat. A set that fails the check of R160 is recorded, and the operation leaves the
indices, the cursor, the tiles, the offset registers and the ledge as they were; otherwise the set's pass index advances (R145), MWSP's
first step moves the cursor by 32 bytes (R98, R149) and WINC its base register by its weight lines (R89), and MTP makes the shadow tile
active when it is valid (R154). A pass stores only into the pair row that its set names. Outside the core the step's cell cycles and ledge
slots are counted (R442), and nothing else changes. -/
def Obligations.MatrixPassesIssue : Prop :=
  ∀ (p : SlotAt) (s : State), CoreActs s p.core → (getCore s p.core).mxe.run = none → (getCore s p.core).err.gate = [] →
    (getCore s p.core).issue.guards.getLsbD 0 = true →
    let k := getCore s p.core
    let t0 := latchOf k.issue p.addr
    let kept (x : MxePass) (t : State) : Prop :=
      let now : Option (Progress × MxeRun) := some (⟨p.addr, k.issue.beat, 0, decide (mxeCheck (featMx6 s) x ≠ 0)⟩, .pass x)
      OnlyCore p.core (mxeCount p.core now (slotCount p.core (mxeFore now) s)) t ∧ (getCore t p.core).issue.pfs = k.issue.pfs ∧
      (getCore t p.core).vxe.vregs = k.vxe.vregs ∧ (getCore t p.core).xfer = k.xfer ∧ (getCore t p.core).cairn = k.cairn ∧
      (getCore t p.core).mxe.cfg = k.mxe.cfg ∧ (getCore t p.core).mxe.latch = k.mxe.latch
    let fails (t : State) : Prop := (getCore t p.core).mxe.configTrapped = true ∧ (getCore t p.core).mxe.passIdx = k.mxe.passIdx ∧
      (getCore t p.core).mxe.cursor = k.mxe.cursor ∧ (getCore t p.core).mxe.active = k.mxe.active ∧
      (getCore t p.core).mxe.shadow = k.mxe.shadow ∧ (getCore t p.core).issue.ofs = k.issue.ofs ∧ (getCore t p.core).ledge.mem = k.ledge.mem
    (∀ a : MwspArgs, let x := mwspPass k.issue.ofs k.mxe a (extOf t0 1)
      ∃ t, exec (.mwsp p a) s = .next t ∧ kept x t ∧
        (mxeCheck (featMx6 s) x ≠ 0 → fails t) ∧
        (mxeCheck (featMx6 s) x = 0 →
          (getCore t p.core).mxe.passIdx.get a.c.toFin = k.mxe.passIdx.get a.c.toFin + 1 ∧
          (getCore t p.core).mxe.cursor = BitVec.ofNat 14 (k.mxe.cursor.toNat + 32) ∧
          (getCore t p.core).mxe.active = k.mxe.active ∧
          (getCore t p.core).issue.ofs = (if a.winc then
              k.issue.ofs.set a.base.toNat (k.issue.ofs.get a.base.toFin + BitVec.ofNat 48 (1024 * passWeightLines a.wcls (a.p1.toNat + 1)))
            else k.issue.ofs) ∧
          ∀ i, i < x.pairBase ∨ x.pairBase + 256 ≤ i → memGet (getCore t p.core).ledge.mem i = memGet k.ledge.mem i)) ∧
    (∀ a : MtpArgs, let x := mtpPass k.issue.ofs k.mxe a
      ∃ t, exec (.mtp p a) s = .next t ∧ kept x t ∧
        (mxeCheck (featMx6 s) x ≠ 0 → fails t) ∧
        (mxeCheck (featMx6 s) x = 0 →
          (getCore t p.core).mxe.passIdx.get a.c.toFin = k.mxe.passIdx.get a.c.toFin + 1 ∧
          (getCore t p.core).mxe.cursor = k.mxe.cursor ∧
          (getCore t p.core).mxe.active = (if k.mxe.shadowValid then k.mxe.shadow else k.mxe.active) ∧
          (getCore t p.core).mxe.shadowValid = false ∧
          (getCore t p.core).issue.ofs = k.issue.ofs ∧ (getCore t p.core).ledge.mem = k.ledge.mem))

/-- OCFG, not predicated off, gives its set the 1024 bytes of its line when the read passes (R195); every other byte of the sets, the
ledge's bytes, the offset registers and the flags stand; outside the core its read slot is counted. OCVT, not predicated off, at its first
beat. A set that fails the check of R206 is recorded, and nothing is converted; otherwise the first row is counted and stored within its
line of the ledge, INC advances the base register by its rows (R89), and the OST holds its further rows; outside the core the row image and
its write slot are counted (R442), and nothing else changes. -/
def Obligations.OutputConversion : Prop :=
  (
  ∀ (p : SlotAt) (a : CfgArgs) (s : State), CoreActs s p.core → (getCore s p.core).ost.run = none →
    (getCore s p.core).issue.guards.getLsbD 2 = true →
    let k := getCore s p.core
    let base := latRef (latchOf k.issue p.addr) 3 a.base a.d 1024
    ∃ t, exec (.ocfg p a) s = .next t ∧ OnlyCore p.core (countCore p.core 7 1 s) t ∧ CoreKeeps k (getCore t p.core) ∧
      (getCore t p.core).issue.ofs = k.issue.ofs ∧ (getCore t p.core).mxe = k.mxe ∧ (getCore t p.core).vxe = k.vxe ∧
      (getCore t p.core).ost.run = none ∧
      (∀ i, i < 1024 * a.c.toNat ∨ 1024 * a.c.toNat + 1024 ≤ i → memGet (getCore t p.core).ost.cfg i = memGet k.ost.cfg i) ∧
      (ReadsClean (slotEnv s p) 3 base 1024 k.ledge →
        ∀ i, i < 1024 → memGet (getCore t p.core).ost.cfg (1024 * a.c.toNat + i) = ledgeByte (dieLines s) k.ledge base i)) ∧
  (
  ∀ (p : SlotAt) (a : OcvtArgs) (s : State), CoreActs s p.core → (getCore s p.core).ost.run = none →
    (getCore s p.core).issue.guards.getLsbD 2 = true →
    let k := getCore s p.core
    let set := ostLatch k.ost a.c
    let rows := a.r1.toNat + 1
    let base := refAddr (latOf (latchOf k.issue p.addr) a.base) (extOf (latchOf k.issue p.addr) 3 ++ a.d).toNat 1024 64
    ∃ t, exec (.ocvt p a) s = .next t ∧ OnlyCore p.core (countCore p.core 4 1 (countCore p.core 8 1 s)) t ∧ (getCore t p.core).issue.pfs = k.issue.pfs ∧
      (getCore t p.core).vxe.vregs = k.vxe.vregs ∧ (getCore t p.core).mxe = k.mxe ∧ (getCore t p.core).xfer = k.xfer ∧
      (getCore t p.core).cairn = k.cairn ∧ (getCore t p.core).ost.cfg = k.ost.cfg ∧
      (ostCheck (featMx6 s) a.src rows set ≠ 0 →
        (getCore t p.core).ost.configTrapped = true ∧ (getCore t p.core).ost.rowCount = k.ost.rowCount ∧
        (getCore t p.core).issue.ofs = k.issue.ofs ∧ (getCore t p.core).ledge = k.ledge) ∧
      (ostCheck (featMx6 s) a.src rows set = 0 →
        (getCore t p.core).ost.rowCount = k.ost.rowCount + 1 ∧
        (getCore t p.core).issue.ofs = (if a.inc then
            k.issue.ofs.set a.base.toNat (k.issue.ofs.get a.base.toFin + BitVec.ofNat 48 (rows * ostPitch set))
          else k.issue.ofs) ∧
        (rows = 1 → (getCore t p.core).ost.run = none) ∧
        (1 < rows → (getCore t p.core).ost.run.map (·.1) = some ⟨p.addr, k.issue.beat, 1, false⟩) ∧
        (∀ i, i < base / 1024 * 1024 ∨ base / 1024 * 1024 + 1024 ≤ i →
          memGet (getCore t p.core).ledge.mem i = memGet k.ledge.mem i)))

/-- TXGO, not predicated off and ready (R104, R274), with nothing gated. The handle's stream counts its deadlines from the issue beat
(R305). When the read of the list's first line passes, the engine decodes as many descriptors as the line holds up to its first END or LINK;
when it fails, the stream is in RUN, gated until the read is rerun, which holds the core's issue (R496, R498, R500). No other core's state,
no ledge's bytes and nothing on the ridge or the cols changes. TXCANCEL, not predicated off, with nothing gated: a stream in flight is left
idle or cancelling, and the bytes of the requests it had issued for chunks that never signalled are counted (R300, R302, R550); a handle
with no stream in flight stands, and so does everything else. -/
def Obligations.TransferListsStartAndCancel : Prop :=
  (
  ∀ (p : SlotAt) (eng : Bool) (a : TxgoArgs) (s : State), CoreActs s p.core → (getCore s p.core).err.gate = [] →
    (getCore s p.core).err.spans = [] → (getCore s p.core).issue.guards.getLsbD (txSlotNo eng - 1) = true →
    (getStream s p.core (streamOf eng a.h)).st = .idle →
    (if eng then (getCore s p.core).xfer.decodeB else (getCore s p.core).xfer.decodeA) = 0 →
    let k := getCore s p.core
    let x := streamOf eng a.h
    let base := latRef (latchOf k.issue p.addr) (txSlotNo eng) a.base a.d 1024
    ∃ t, exec (.txgo p eng a) s = .next t ∧ (∀ d, d ≠ p.core → getCore t d = getCore s d) ∧ t.net = s.net ∧ t.cols = s.cols ∧
      (getCore t p.core).ledge.mem = k.ledge.mem ∧ (getCore t p.core).vxe = k.vxe ∧
      (getCore t p.core).cairn = k.cairn ∧ (getCore t p.core).epoch = k.epoch ∧
      (∀ y, y ≠ x → getStream t p.core y = getStream s p.core y) ∧
      (getStream t p.core x).goBeat = k.issue.beat ∧
      (ReadsClean (slotEnv s p) (txReq eng) base 1024 k.ledge → (getCore t p.core).issue = k.issue ∧
        (if eng then (getCore t p.core).xfer.decodeB else (getCore t p.core).xfer.decodeA) =
          burstCount 16 ((List.range 1024).map (ledgeByte (dieLines s) k.ledge base))) ∧
      (¬ReadsClean (slotEnv s p) (txReq eng) base 1024 k.ledge → (getCore t p.core).issue = rerunShown s p.core ∧
        (getStream t p.core x).st = .run ∧ (getStream t p.core x).gated = true ∧
        (getCore t p.core).err.rerun.length = k.err.rerun.length + 1)) ∧
  (
  ∀ (p : SlotAt) (eng : Bool) (a : TxcancelArgs) (s : State), CoreActs s p.core → (getCore s p.core).err.gate = [] →
    (getCore s p.core).issue.guards.getLsbD (txSlotNo eng - 1) = true →
    let q := getStream s p.core (streamOf eng a.h)
    (q.st = .run ∨ q.st = .faulted →
      ∃ t, exec (.txcancel p eng a) s = .next t ∧ (∀ d, d ≠ p.core → getCore t d = getCore s d) ∧ t.net = s.net ∧
        (∀ y, y ≠ streamOf eng a.h → getStream t p.core y = getStream s p.core y) ∧
        ((getStream t p.core (streamOf eng a.h)).st = .idle ∨ (getStream t p.core (streamOf eng a.h)).st = .cancelling) ∧
        (getCore t p.core).xfer.cancelBytes = (getCore s p.core).xfer.cancelBytes + cancelCount q ∧
        (getCore t p.core).ledge.mem = (getCore s p.core).ledge.mem ∧ (getCore t p.core).issue = (getCore s p.core).issue) ∧
    (q.st = .idle ∨ q.st = .cancelling → exec (.txcancel p eng a) s = .next s))

/-- TXPUT, not predicated off and ready (R105, R274), with nothing gated and its read passing: at depth 0, or for its own core, with no
released item ahead of it, its write enters the ridge at its cluster's port for the core of this die that it names, under the core's next
write number, due at once (R275, R311, R334); in an open epoch one for another core is placed last in the cluster's held-write store (R350,
R355), and nothing leaves. -/
def Obligations.TransferPut : Prop :=
  ∀ (p : SlotAt) (eng : Bool) (a : TxputArgs) (s : State), CoreActs s p.core → (getCore s p.core).err.gate = [] →
    (getCore s p.core).err.spans = [] → (getCore s p.core).issue.guards.getLsbD (txSlotNo eng - 1) = true →
    (if eng then (getCore s p.core).xfer.queueB else (getCore s p.core).xfer.queueA) < 8 →
    let k := getCore s p.core
    let c := getClus s p.core.clus
    let w := putWrite (latchOf k.issue p.addr) a
    let base := putSource (latchOf k.issue p.addr) a
    let w' := putData w ((List.range w.len).map (ledgeByte (dieLines s) k.ledge base))
    ReadsClean (slotEnv s p) (txReq eng) base w.len k.ledge →
    (∀ d : CoreId, putHeld s p.core w = none → hasReleased s p.core = false → ownDie s a.die.toNat = true →
      physCore s w.lclus.toNat w.lcore.toNat = some d → crossesFailed s p.core.clus.val d.clus.val = false →
      ∃ t, exec (.txput p eng a) s = .next t ∧ (∀ d, d ≠ p.core → getCore t d = getCore s d) ∧
        t.net = (netPut p.core.clus.val d.clus.val portCluster (packetFlits w.len) (some (now s : Int)) (.land ⟨d, w'.bytes, w'.mask,
          dieCode s, massifOf s p.core, coreJob s p.core, false, w'.sig, .put p.core eng k.xfer.nextWrite, false⟩) s).net ∧
        (getCore t p.core).xfer.nextWrite = k.xfer.nextWrite + 1 ∧
        (getCore t p.core).xfer.outWrites = k.xfer.outWrites ++ [k.xfer.nextWrite] ∧
        (getCore t p.core).ledge.mem = k.ledge.mem ∧ (getCore t p.core).issue = k.issue) ∧
    (∀ (e slots : Nat) (r : List Nat), k.epoch.stack = e :: r → smGet .opened k.epoch.fate e = .opened →
      putHeld s p.core w = some slots → storeFits c 1 slots = true → storeTurn c (.put p.core.core) = true →
      ∃ t, exec (.txput p eng a) s = .next t ∧ (∀ d, d ≠ p.core → getCore t d = getCore s d) ∧ t.net = s.net ∧
        (getClus t p.core.clus).held = c.held ++
          [⟨p.core.core, e, none, false, slots, w.len, .write { w' with due := some (now s : Int) }, false, true, 0, none, false⟩] ∧
        (getCore t p.core).xfer.nextWrite = k.xfer.nextWrite ∧
        (getCore t p.core).ledge.mem = k.ledge.mem ∧ (getCore t p.core).issue = k.issue)

/-- CWAIT, CSIG and CWIN, not predicated off, with nothing gated. A CWAIT whose cairn has its count takes it away unless KEEP, and one that
has not waits for it (R106, R322); CSIG adds, saturating at the top of the count with its overflow flag (R321); CWIN opens or closes the
window of its cairn, and zeroes the count with ZERO (R330). Every other cairn stands, and nothing outside the core's cairns changes but what
the core shows of its wait. -/
def Obligations.CairnOperations : Prop :=
  ∀ (p : SlotAt) (s : State), CoreActs s p.core → (getCore s p.core).err.gate = [] →
    (getCore s p.core).issue.guards.getLsbD 5 = true →
    let k := getCore s p.core
    let n (x : BitVec 16) : Nat := (synCount (latchOf k.issue p.addr) x).toNat
    let count (t : State) (i : Nat) : Nat := smGet 0 (getCore t p.core).cairn.counts i
    let kept (i : BitVec 6) (t : State) : Prop := OnlyCore p.core s t ∧ (∀ j, j ≠ i.toNat → count t j = count s j ∧
        smGet false (getCore t p.core).cairn.closed j = smGet false k.cairn.closed j) ∧
      getCore t p.core = { k with cairn := (getCore t p.core).cairn, epoch := { k.epoch with commitWait := false } } ∧
      (getCore t p.core).cairn.arrivals = k.cairn.arrivals ∧ (getCore t p.core).cairn.made = k.cairn.made
    (∀ a : CwaitArgs, ∃ t, exec (.cwait p a) s = .next t ∧ kept a.k t ∧
      (n a.n ≤ count s a.k.toNat → (getCore t p.core).cairn.waitKind = 0 ∧
        count t a.k.toNat = (if a.keep then count s a.k.toNat else count s a.k.toNat - n a.n)) ∧
      (count s a.k.toNat < n a.n → (getCore t p.core).cairn.waitKind = 1 ∧ (getCore t p.core).cairn.waitIdx = a.k ∧
        count t a.k.toNat = count s a.k.toNat)) ∧
    (∀ a : CsigArgs, ∃ t, exec (.csig p a) s = .next t ∧ kept a.k t ∧
      count t a.k.toNat = min (count s a.k.toNat + n a.n) (2 ^ 32 - 1) ∧
      (getCore t p.core).cairn.ovf = (k.cairn.ovf || decide (2 ^ 32 ≤ count s a.k.toNat + n a.n))) ∧
    (∀ a : CwinArgs, ∃ t, exec (.cwin p a) s = .next t ∧ kept a.k t ∧
      smGet false (getCore t p.core).cairn.closed a.k.toNat = !a.opn ∧
      count t a.k.toNat = (if a.zero then 0 else count s a.k.toNat))

/-- SARR and SWAIT, not predicated off, with nothing gated. At a context that is disabled for the massif each only sets its flag (R333).
Otherwise SARR makes an arrival that covers the writes numbered so far (R333, R334); while an earlier one there is unreleased, it is
withheld until that one is released (the model's choice, log entry 18). With WAIT = 0 the operation ends at once (R107); with WAIT = 1 it
waits until its own arrival is released, and makes no second one meanwhile. SWAIT at a context with no unreleased arrival and none withheld,
or none made since the last SWAIT there, ends, and records that none was made; it waits otherwise. -/
def Obligations.SummitOperations : Prop :=
  ∀ (p : SlotAt) (s : State), CoreActs s p.core → (getCore s p.core).err.gate = [] → (getCore s p.core).err.spans = [] →
    (getCore s p.core).issue.guards.getLsbD 5 = true →
    let k := getCore s p.core
    let arrival (t : State) (x : BitVec 4) : Option Arrival := smGet none (getCore t p.core).cairn.arrivals x.toNat
    let kept (t : State) : Prop := OnlyCore p.core s t ∧ (getCore t p.core).cairn.counts = k.cairn.counts ∧
      (getCore t p.core).cairn.closed = k.cairn.closed ∧ (getCore t p.core).ledge = k.ledge ∧ (getCore t p.core).issue = k.issue ∧
      (getCore t p.core).xfer = k.xfer
    let held (t : State) (x : BitVec 4) : List (BitVec 48 × Nat × Bool) := smGet [] (getCore t p.core).cairn.withheld x.toNat
    let waits (x : BitVec 4) (t : State) : Prop := kept t ∧ (getCore t p.core).cairn.waitKind = 2 ∧
      (getCore t p.core).cairn.waitIdx = x.setWidth 6 ∧ (getCore t p.core).cairn.arrivals = k.cairn.arrivals ∧
      (getCore t p.core).cairn.withheld = k.cairn.withheld ∧ (getCore t p.core).cairn.made = k.cairn.made
    (∀ a : SarrArgs, ctxDisabled s p.core a.ctx = true → ∃ t, exec (.sarr p a) s = .next t ∧ kept t ∧
      (getCore t p.core).cairn.disabledCtx = true ∧ (getCore t p.core).cairn.arrivals = k.cairn.arrivals) ∧
    (∀ a : SarrArgs, ctxDisabled s p.core a.ctx = false →
      (a.wait = true → k.cairn.released.getLsbD a.ctx.toNat = false ∧ arrivalWaits s p.core a.ctx = false) →
      ∃ t, exec (.sarr p a) s = .next t ∧ kept t ∧ (∀ x, x ≠ a.ctx → arrival t x = arrival s x ∧ held t x = held s x) ∧
      (arrivalFree s p.core a.ctx = true →
        arrival t a.ctx = some ⟨false, k.xfer.nextWrite, false, trapFlag s p.core k.issue.beat, a.wait⟩ ∧ held t a.ctx = held s a.ctx) ∧
      (arrivalFree s p.core a.ctx = false → arrival t a.ctx = arrival s a.ctx ∧
        held t a.ctx = held s a.ctx ++ [(k.issue.beat, k.xfer.nextWrite, a.wait)]) ∧
      (getCore t p.core).cairn.made = k.cairn.made ||| (1#16 <<< a.ctx.toNat) ∧
      (getCore t p.core).cairn.waitKind = (if a.wait then 2 else 0)) ∧
    (∀ a : SarrArgs, ctxDisabled s p.core a.ctx = false → a.wait = true → k.cairn.released.getLsbD a.ctx.toNat = true →
      ∃ t, exec (.sarr p a) s = .next t ∧ kept t ∧ (getCore t p.core).cairn.released.getLsbD a.ctx.toNat = false ∧
      (getCore t p.core).cairn.arrivals = k.cairn.arrivals ∧ (getCore t p.core).cairn.withheld = k.cairn.withheld ∧
      (getCore t p.core).cairn.waitKind = 0) ∧
    (∀ a : SarrArgs, ctxDisabled s p.core a.ctx = false → a.wait = true → k.cairn.released.getLsbD a.ctx.toNat = false →
      arrivalWaits s p.core a.ctx = true → ∃ t, exec (.sarr p a) s = .next t ∧ waits a.ctx t) ∧
    (∀ a : SwaitArgs, ctxDisabled s p.core a.ctx = true → ∃ t, exec (.swait p a) s = .next t ∧ kept t ∧
      (getCore t p.core).cairn.disabledCtx = true ∧ (getCore t p.core).cairn.made = k.cairn.made) ∧
    (∀ a : SwaitArgs, ctxDisabled s p.core a.ctx = false →
      arrivalFree s p.core a.ctx = true ∨ k.cairn.made.getLsbD a.ctx.toNat = false → ∃ t, exec (.swait p a) s = .next t ∧
      kept t ∧ (getCore t p.core).cairn.made.getLsbD a.ctx.toNat = false ∧
      (getCore t p.core).cairn.swaitEmpty = (k.cairn.swaitEmpty || !k.cairn.made.getLsbD a.ctx.toNat) ∧
      (getCore t p.core).cairn.arrivals = k.cairn.arrivals) ∧
    (∀ a : SwaitArgs, ctxDisabled s p.core a.ctx = false → arrivalFree s p.core a.ctx = false →
      k.cairn.made.getLsbD a.ctx.toNat = true → ∃ t, exec (.swait p a) s = .next t ∧ waits a.ctx t)

/-- EOPEN, ECOMMIT and EDISCARD, not predicated off, with nothing gated. EOPEN at a depth below 8 opens the next epoch; ECOMMIT of an inner
epoch merges it into the one around it, and of the outermost, with no stream of it in flight, releases it and its held items; with a stream
of it in flight it waits (R358); EDISCARD of the innermost drops its held items (R348, R359, R360, R362); each at the wrong depth only
records its error (R348). No other core changes, and no ledge's bytes. -/
def Obligations.EpochOperations : Prop :=
  ∀ (p : SlotAt) (s : State), CoreActs s p.core → (getCore s p.core).err.gate = [] →
    (getCore s p.core).issue.guards.getLsbD 5 = true →
    let k := getCore s p.core
    let q (t : State) : EpochSt := (getCore t p.core).epoch
    let held (t : State) : List HeldItem := (getClus t p.core.clus).held
    let kept (t : State) : Prop := (∀ d, d ≠ p.core → getCore t d = getCore s d) ∧ t.net = s.net ∧
      (getCore t p.core).ledge.mem = k.ledge.mem ∧ (getCore t p.core).issue = k.issue
    let wrong (t : State) : Prop := kept t ∧ (q t).depthErr = true ∧ (q t).stack = k.epoch.stack ∧ held t = held s
    (∃ t, exec (.eopen p) s = .next t ∧
      (k.epoch.stack.length < 8 → kept t ∧ (q t).stack = k.epoch.next :: k.epoch.stack ∧ (q t).next = k.epoch.next + 1 ∧ held t = held s) ∧
      (8 ≤ k.epoch.stack.length → wrong t)) ∧
    (k.epoch.stack = [] → (∃ t, exec (.ecommit p) s = .next t ∧ wrong t) ∧ ∃ t, exec (.ediscard p) s = .next t ∧ wrong t) ∧
    (∀ (e e' : Nat) (r : List Nat), k.epoch.stack = e :: e' :: r → ∃ t, exec (.ecommit p) s = .next t ∧ kept t ∧
      (q t).stack = e' :: r ∧ smGet .opened (q t).fate e = .merged e' ∧ held t = held s) ∧
    (∀ e : Nat, k.epoch.stack = [e] → commitReady s p.core = true → ∃ t, exec (.ecommit p) s = .next t ∧ kept t ∧
      (q t).stack = [] ∧ smGet .opened (q t).fate e = .released ∧ (q t).commits = satInc 16 k.epoch.commits ∧
      (held t).length = (held s).length ∧ ∀ h ∈ held s, heldIn s p.core e h = true → ∃ h' ∈ held t, h'.released = true ∧
        h'.core = h.core ∧ h'.epoch = h.epoch ∧ h'.stream = h.stream ∧ h'.size = h.size) ∧
    (commitReady s p.core = false → ∃ t, exec (.ecommit p) s = .next t ∧ kept t ∧ (q t).commitWait = true ∧
      (q t).stack = k.epoch.stack ∧ held t = held s) ∧
    (∀ (e : Nat) (r : List Nat), k.epoch.stack = e :: r → ∃ t, exec (.ediscard p) s = .next t ∧ kept t ∧
      (q t).stack = r ∧ smGet .opened (q t).fate e = .discarded ∧ (q t).discards = satInc 16 k.epoch.discards ∧
      held t = (held s).filter (fun h => !heldIn s p.core e h))

/-- The operations of the SEQ slot, each alone (that a slot's operation runs alone is the model's choice, log entry 5), at the fetch address
A of a sequencer in RUNNING or STOPPING (R60) that has broadcast no HALT (R61) and has not reached its clean point (R64). LOOP takes its
counter to 0 and, with a count N above 0, goes on to its body at A + 1 and opens the loop with that first address, its last address A + LEN
and N; with N = 0 the body's end is as passed, and the end tests of R70 at A + LEN give the next address (R69). BRANCH, when its condition
holds, goes to its target and leaves the loops that do not hold the target (R71); otherwise, as after HINT and MARK, the end tests at A give
the next address. HALT is the last bundle, and the address stands (R61). HINT posts its class, its beats and their times, of which the
latest four hints are kept (R76, R449), and every target then follows its rule (R450). MARK puts its number behind the marks that wait for
every core to issue their bundles (R77). Nothing else changes; where the sequencer does not fetch, the operation changes nothing. The end
tests (R70): at an address that ends no open loop the next address follows. At the end of the innermost loop's body its counter goes up by
one; short of the count the next address is the body's first; at the count the counter holds the count, the loop is left, and the loop
around it is tested at the same address. -/
def Obligations.SequencerSlotOperations : Prop :=
  (
  ∀ (q : SeqAt) (s : State), awake s = true →
    let z := getSeq s q.s
    let A := z.fetchAddr.toNat
    let next := endTests A z.loops z.lcs
    let kept (t : State) : Prop := (∀ m, m ≠ q.s → getSeq t m = getSeq s m) ∧ ∀ m, getMassif t m = getMassif s m
    ((z.state = .running ∨ z.state = .stopping) → z.sentHalt = false → z.atClean = false →
      (∀ a : LoopArgs,
        let N := if a.src then (z.file.get (bitsAt a.cnt 0 3).toFin).toNat % 2 ^ 32 else a.cnt.toNat + 1
        let E := A + loopLen a (q.x.getD 0)
        let past := endTests E z.loops (z.lcs.set a.n.toNat 0)
        ∃ t, exec (.loop q a) s = .next t ∧ kept t ∧ t = { s with seqs := t.seqs } ∧
        (N ≠ 0 → getSeq t q.s = { z with
          fetchAddr := z.fetchAddr + 1, loops := ⟨a.n, A + 1, E, N⟩ :: z.loops, lcs := z.lcs.set a.n.toNat 0 }) ∧
        (N = 0 → getSeq t q.s = { z with fetchAddr := BitVec.ofNat 18 past.1, loops := past.2.1, lcs := past.2.2 })) ∧
      (∀ a : BranchArgs,
        let target := ((A : Int) + branchOfs a q.x).toNat
        ∃ t, exec (.branch q a) s = .next t ∧ kept t ∧ t = { s with seqs := t.seqs } ∧
        (branchTaken z.lcs z.file a (q.x.getD 0) = true → getSeq t q.s = { z with
          fetchAddr := BitVec.ofNat 18 target, loops := z.loops.filter (fun l => decide (l.start ≤ target) && decide (target ≤ l.end_)) }) ∧
        (branchTaken z.lcs z.file a (q.x.getD 0) = false → getSeq t q.s = { z with
          fetchAddr := BitVec.ofNat 18 next.1, loops := next.2.1, lcs := next.2.2 })) ∧
      (∃ t, exec (.halt q) s = .next t ∧ kept t ∧ t = { s with seqs := t.seqs } ∧ getSeq t q.s = { z with sentHalt := true }) ∧
      (∀ a : MarkArgs, ∃ t, exec (.mark q a) s = .next t ∧ kept t ∧ t = { s with seqs := t.seqs } ∧ getSeq t q.s = { z with
        fetchAddr := BitVec.ofNat 18 next.1, loops := next.2.1, lcs := next.2.2, marks := z.marks ++ [(z.nextBeat, a.imm)] }) ∧
      (∀ a : HintArgs,
        let b0 := z.nextBeat.toNat + a.lead.toNat
        let b1 := b0 + hintLen a (q.x.getD 0)
        ∃ t, exec (.hint q a) s = .next t ∧ kept t ∧ t = { s with seqs := t.seqs, pm := t.pm } ∧
        getSeq t q.s = { z with
          fetchAddr := BitVec.ofNat 18 next.1, loops := next.2.1, lcs := next.2.2
          hints := (z.hints ++ [(⟨a.cls, b0, b1, hintTime s q.s b0, hintTime s q.s b1⟩ : Hint)]).drop (z.hints.length + 1 - 4) } ∧
        ∀ n, (t.pm.quads.get n).target = BitVec.ofNat 10 (quadTarget t n))) ∧
    (z.sentHalt = true ∨ z.atClean = true ∨ (z.state ≠ .running ∧ z.state ≠ .stopping) →
      (∀ a, exec (.loop q a) s = .next s) ∧ (∀ a, exec (.branch q a) s = .next s) ∧ exec (.halt q) s = .next s ∧
      (∀ a, exec (.mark q a) s = .next s) ∧ ∀ a, exec (.hint q a) s = .next s)) ∧
  (
  ∀ (e : Nat) (lcs : Vector (BitVec 32) 4), endTests e [] lcs = (e + 1, [], lcs) ∧
    ∀ (l : OpenLoop) (r : List OpenLoop),
    (l.end_ ≠ e → endTests e (l :: r) lcs = (e + 1, l :: r, lcs)) ∧
    (l.end_ = e → (lcs.get l.n.toFin).toNat + 1 < l.count → endTests e (l :: r) lcs =
      (l.start, l :: r, lcs.set l.n.toNat (BitVec.ofNat 32 ((lcs.get l.n.toFin).toNat + 1)))) ∧
    (l.end_ = e → l.count ≤ (lcs.get l.n.toFin).toNat + 1 → endTests e (l :: r) lcs =
      endTests e r (lcs.set l.n.toNat (BitVec.ofNat 32 l.count))))

/-- The sequencer's commands, accepted (R51, R56, R57, R64, R65, R78, R547): LOAD and CHECK go to LOADING and CHECKING, and remember the
state they came from; STOP goes to STOPPING; ABORT ends a run in ABORTED, and a load or a check with result ABORTED and CHECKED 0; a
reserved code only leaves its result; and none of them changes another sequencer's state of execution. A command that its massif or its
sequencer's state does not accept only leaves its result (R57): BUSY while the massif resets or a command is in progress, NO_MASSIF while
the massif is not ACTIVE. The model's choices: that a START waiting for acknowledgements is a command in progress (log entry 45), and that a
reserved code is BAD_CMD also while a command is in progress (log entry 26). -/
def Obligations.SequencerCommands : Prop :=
  (
  ∀ (m : Massif) (s : State), awake s = true →
    let z := getSeq s m
    (seqReject s m (fun q => q.state == .idle || q.state == .halted) false = none → seqTests s m false true false = none →
      ∃ t, exec (.load m) s = .next t ∧ (getSeq t m).state = .loading ∧ (getSeq t m).checked = false ∧ (getSeq t m).prev = z.state ∧
        (getSeq t m).loaded = 0 ∧ t.store = s.store ∧ t.cores = s.cores) ∧
    (seqReject s m (fun q => q.state == .idle || q.state == .halted) false = none → seqTests s m true false false = none →
      ∃ t, exec (.check m) s = .next t ∧ getSeq t m = { z with prev := z.state, state := .checking } ∧ t = { s with seqs := t.seqs } ∧
        ∀ k, k ≠ m → getSeq t k = getSeq s k) ∧
    (seqReject s m (fun q => q.state == .running) false = none →
      ∃ t, exec (.stop m) s = .next t ∧ getSeq t m = { z with state := .stopping, result := .ok } ∧ t = { s with seqs := t.seqs } ∧
        ∀ k, k ≠ m → getSeq t k = getSeq s k) ∧
    (seqReject s m (fun _ => true) true = none → ∃ t, exec (.abort m) s = .next t ∧
      (z.state = .loading ∨ z.state = .checking →
        (getSeq t m).state = z.prev ∧ (getSeq t m).checked = false ∧ (getSeq t m).result = .aborted ∧ t.cores = s.cores) ∧
      (z.state = .running ∨ z.state = .stopping →
        (getSeq t m).state = .aborted ∧ (getSeq t m).haltCause = .abort ∧ (getSeq t m).result = .ok ∧
        ∀ c, (getCore t c).issue = (getCore s c).issue) ∧
      (z.state ≠ .loading → z.state ≠ .checking → z.state ≠ .running → z.state ≠ .stopping →
        getSeq t m = { z with result := .ok } ∧ t.cores = s.cores)) ∧
    (∃ t, exec (.badCmd m) s = .next t ∧ getSeq t m = { z with result := .badCmd } ∧ t = { s with seqs := t.seqs } ∧
        ∀ k, k ≠ m → getSeq t k = getSeq s k)) ∧
  (
  ∀ (m : Massif) (s : State) (c : Instr), awake s = true → c ∈ [Instr.load m, .check m, .start m, .stop m] →
    let gives (r : SeqResult) : Prop := exec c s = .next (modSeq m (fun q => { q with result := r }) s)
    ((getMassif s m).state = .resetting → gives .busy) ∧
    ((getMassif s m).state ≠ .resetting → (getMassif s m).state ≠ .active → gives .noMassif) ∧
    ((getMassif s m).state = .active →
      (getSeq s m).state = .loading ∨ (getSeq s m).state = .checking ∨ (getSeq s m).startPend = true → gives .busy))

/-- The completion of a load and of a check: a load returns to the state it came from, with LOAD_FAULT when a condition of R51 was met; a
check returns likewise, and is OK and CHECKED exactly when the program has no violation (R81). -/
def Obligations.LoadsAndChecksComplete : Prop :=
  ∀ (m : Massif) (s : State), awake s = true →
    let z := getSeq s m
    let kept (t : State) : Prop := t = { s with seqs := t.seqs } ∧ ∀ k, k ≠ m → getSeq t k = getSeq s k
    (z.state = .loading → z.loadFault = true ∨ z.loaded = z.loadCount.toNat → ∃ t, exec (.loadComplete m) s = .next t ∧ kept t ∧
      (getSeq t m).state = z.prev ∧ (getSeq t m).result = (if z.loadFault then .loadFault else .ok) ∧
      (getSeq t m).checked = z.checked) ∧
    (z.state = .checking → ∃ t, exec (.checkComplete m) s = .next t ∧ kept t ∧ (getSeq t m).state = z.prev ∧
      ((getSeq t m).checked = true ↔ loadCheck s m = []) ∧ ((getSeq t m).result = .ok ↔ loadCheck s m = []) ∧
      (loadCheck s m ≠ [] → (getSeq t m).result = .checkFail ∧ (getSeq t m).checked = false ∧ ∃ v ∈ loadCheck s m,
        (getSeq t m).checkCode = BitVec.ofNat 4 v.code ∧ (getSeq t m).checkAddr = BitVec.ofNat 18 v.addr ∧
        (getSeq t m).checkSlot = BitVec.ofNat 3 v.slot))

/-- START, accepted, with every TXPUT of the massif acknowledged (R59, R324): the sequencer runs from ENTRY with its parameters, and every
core of the massif starts at beat 0, its offset registers 0, its flags 1 in PF0 alone, its cairns 0 and open, its configuration sets and
vector registers 0; the ledges keep their bytes, and no core outside the massif changes. How a run ends: PROGRAM_END, STOP_HALT and
TRAP_HALT, once their conditions hold and the run has drained, leave the sequencer HALTED with its cause and every core of the massif
halted, with no epoch open (R61, R64, R66, R235, R366). WATCHDOG: when the watchdog's interval has passed with no change of MIN_BEAT, it
sets WDOG_EXPIRED once in the stall and raises its event; with ACTION = 1 the run is aborted with halt cause WATCHDOG (R82); before the
interval has passed, nothing happens. -/
def Obligations.RunsBeginAndEnd : Prop :=
  (
  ∀ (m : Massif) (s : State), awake s = true → seqReject s m startAccepts false = none → seqTests s m true false true = none →
    putsAcked s m = true →
    ∃ t, exec (.start m) s = .next t ∧
      (getSeq t m).state = .running ∧ (getSeq t m).result = .ok ∧ (getSeq t m).fetchAddr = (getSeq s m).entry ∧
      (getSeq t m).file = (getSeq s m).params ∧ (getSeq t m).nextBeat = 0 ∧ (getSeq t m).loops = [] ∧
      (getMassif t m).runSeed = (getMassif s m).seed ∧ (getMassif t m).runTrapMode = (getMassif s m).trapMode ∧
      (∀ c ∈ massifCores s m,
        (getCore t c).issue.beat = 0 ∧ (getCore t c).issue.ofs = Vector.replicate 32 0 ∧ (getCore t c).issue.pfs = 1 ∧
        (getCore t c).issue.halted = false ∧ (getCore t c).mxe.cfg = [] ∧ (getCore t c).ost.cfg = [] ∧ (getCore t c).vxe.vregs = [] ∧
        (getCore t c).cairn.counts = [] ∧ (getCore t c).cairn.closed = [] ∧ (getCore t c).epoch.stack = [] ∧
        (getCore t c).trap = TrapSt.reset ∧ (getCore t c).ledge.mem = (getCore s c).ledge.mem) ∧
      (∀ c, c ∉ massifCores s m → getCore t c = getCore s c)) ∧
  (
  ∀ (m : Massif) (s : State) (c : Instr) (cause : HaltCause), awake s = true → runDrained s m = true →
    ((c = .programEnd m ∧ cause = .programEnd ∧ running s m = true ∧ (getSeq s m).sentHalt = true ∧ runIssued s m = true) ∨
     (c = .stopHalt m ∧ cause = .stop ∧ (getSeq s m).state = .stopping ∧ (getSeq s m).atClean = true ∧ runIssued s m = true) ∨
     (c = .trapHalt m ∧ cause = .trap ∧ running s m = true ∧ trapHalts s m = true)) →
    ∃ t, exec c s = .next t ∧ (getSeq t m).state = .halted ∧ (getSeq t m).haltCause = cause ∧
      (∀ d ∈ massifCores s m, (getCore t d).issue.halted = true ∧ (getCore t d).epoch.stack = [] ∧ (getCore t d).ledge.cacheActive = false) ∧
      (∀ k, k ≠ m → getSeq t k = getSeq s k) ∧ ∀ d, d ∉ massifCores s m → getCore t d = getCore s d) ∧
  (
  ∀ (m : Massif) (s : State), awake s = true → running s m = true → (getSeq s m).wdogLimit ≠ 0 → (getSeq s m).wdogActed = false →
    (wdogTicks (getSeq s m) ≤ now s - (getSeq s m).wdogTick.toNat →
      ∃ t, exec (.watchdog m) s = .next t ∧ (getSeq t m).wdogExpired = true ∧ (getSeq t m).wdogActed = true ∧
        (smGet Evt.reset t.evts (pageSeq m)).pending = true ∧
        (getSeq t m).state = (if (getSeq s m).wdogAction then .aborted else (getSeq s m).state) ∧
        (getSeq t m).haltCause = (if (getSeq s m).wdogAction then .watchdog else (getSeq s m).haltCause) ∧
        ∀ k, k ≠ m → getSeq t k = getSeq s k) ∧
    (now s - (getSeq s m).wdogTick.toNat < wdogTicks (getSeq s m) → exec (.watchdog m) s = .next s))

/-- BROADCAST_BUNDLE of a sequencer that fetches: a bundle that passes parity, with room in every FIFO of its massif, no zero-fill under way
and no clean point under STOP, is sent from the fetch address, with the beat and the loop counters, to every cluster of the massif, and the
sequencer goes on to the next beat and to the address its SEQ slot gives (R41, R67, R68). At the clean point under STOP, with every unit at
the end of its operation, nothing is sent and the point is taken (R62, R64). A full FIFO holds the tree, and nothing is sent (R41); so does
the zero-fill of R268, which shows cause TREE too (the model's choice, log entry 30). A bundle that fails parity is read again, with hold
cause FETCH (R68); one whose reread fails too faults the run (R55). -/
def Obligations.BundlesAreBroadcast : Prop :=
  ∀ (m : Massif) (bad1 bad2 : Bool) (s : State), awake s = true → fetching s m = true →
    let z := getSeq s m
    let w := bundleAt s z z.fetchAddr.toNat
    let clean := z.state = .stopping ∧ z.occ.toList.all (· == 0) = true
    let full := ∃ p ∈ massifClus s m, 2048 ≤ (getClus s p).fifo.length
    let ends (t : State) : Prop := exec (.broadcastBundle m bad1 bad2) s = .next t
    let holds (h : HoldCause) (t : State) : Prop := ends t ∧ getSeq t m = { z with hold := h } ∧ t.cores = s.cores ∧ t.store = s.store ∧
      ∀ p, (getClus t p).fifo = (getClus s p).fifo
    (bad1 = false → ¬clean → zeroing s m = false → ¬full →
      ∃ t, ends t ∧ t.cores = s.cores ∧
        (∀ p, (getClus t p).fifo = (getClus s p).fifo ++
          List.replicate ((massifClus s m).count p) ⟨z.fetchAddr, z.nextBeat, w, z.lcs, false⟩) ∧
        (getSeq t m).nextBeat = z.nextBeat + 1 ∧
        (getSeq t m).fetchAddr = BitVec.ofNat 18 (seqNext z (readBundle w).seq (seqExt w)).1 ∧
        (getSeq t m).loops = (seqNext z (readBundle w).seq (seqExt w)).2.1 ∧
        (getSeq t m).lcs = (seqNext z (readBundle w).seq (seqExt w)).2.2 ∧
        (getSeq t m).hold = (if (readBundle w).seq = .halt then .ended else .none)) ∧
    (bad1 = false → clean → ∃ t, ends t ∧ getSeq t m = { z with atClean := true, hold := .ended } ∧ t = { s with seqs := t.seqs }) ∧
    (bad1 = false → ¬clean → zeroing s m = true ∨ full → ∃ t, holds .tree t) ∧
    (bad1 = true → bad2 = false → z.hold ≠ .fetch → ∃ t, holds .fetch t) ∧
    (bad1 = true → bad2 = true ∨ z.hold = .fetch → ∃ t, ends t ∧ (getSeq t m).state = .faulted ∧
        (getSeq t m).haltCause = .fetchParity ∧ (getSeq t m).fetchParity = true ∧ (getSeq t m).hold = .ended ∧ t.clusters = s.clusters)

/-- ISSUE_BUNDLE, of a bundle whose transfer and SYN slots are empty: the core issues it when its window holds it, the pacing circuit allows
it, its ceiling is not 0, the MXE has acknowledged (R141), no inserted ledge cycle is due and no operation waits for a rerun (R24, R30,
R252): the beat advances by one, the guards and the extension end with the bundle (R90, R91), HALT ends the core's program (R61), and no
other core's state changes. The premises leave nothing in the gate and nothing for the ledge's background to serve. What holds issue, and
what the core shows of it (R24, R30, R495): with no bundle in the window of a running massif, FIFO_EMPTY; a halted core, HALTED; a pacing
circuit that does not allow it, PACE; in each case the beat stands and no other core changes. A bundle that fails parity in the FIFO is a
hard error of cause 3, and the core does not issue it. -/
def Obligations.BundleIssue : Prop :=
  (
  ∀ (c : CoreId) (v : IssueEnv) (e : FifoEntry) (s : State), CoreActs s c → (massifOf s c).isSome = true →
    windowEntry s c = some e → v.fifoBad = false → e.bad = false → v.paced = true →
    ((getCore s c).mxe.second = false ∨ v.late.getLsbD 0 = false) → effective s c ≠ 0 →
    (readBundle e.slots).txa = .nop → (readBundle e.slots).txb = .nop → (readBundle e.slots).syn = .nop →
    insertDue (getCore s c).ledge = false → (getCore s c).err.gate = [] → (getCore s c).ledge.bg = [] →
    ∃ t, exec (.issueBundle c v) s = .next t ∧ (∀ d, d ≠ c → getCore t d = getCore s d) ∧ t.net = s.net ∧
      (getCore t c).issue.beat = (getCore s c).issue.beat + 1 ∧ (getCore t c).issue.guards = 0x3F ∧ (getCore t c).issue.ext = none ∧
      (getCore t c).issue.ended = ((getCore s c).issue.ended || (readBundle e.slots).seq == .halt) ∧
      ((readBundle e.slots).seq = .halt → (getCore t c).issue.halted = true) ∧
      (getCore t c).cairn.counts = (getCore s c).cairn.counts ∧ (getCore t c).epoch.stack = (getCore s c).epoch.stack) ∧
  (
  ∀ (c : CoreId) (v : IssueEnv) (s : State) (m : Massif), awake s = true → (getCore s c).presence = .on → massifOf s c = some m →
    let shows (w : WaitCause) : Prop := ∃ t, exec (.issueBundle c v) s = .next t ∧ (∀ d, d ≠ c → getCore t d = getCore s d) ∧
      (getCore t c).issue.waitCause = w ∧ (getCore t c).issue.beat = (getCore s c).issue.beat ∧
      (getCore t c).ledge = (getCore s c).ledge
    ((getCore s c).issue.halted = true → shows .halted) ∧
    ((getCore s c).issue.halted = false → windowEntry s c = none → running s m = true → shows .fifoEmpty) ∧
    (∀ e, (getCore s c).issue.halted = false → (getCore s c).err.gate = [] → windowEntry s c = some e → (v.fifoBad || e.bad) = false →
      v.paced = false → shows .pace) ∧
    (∀ e, (getCore s c).issue.halted = false → windowEntry s c = some e → (v.fifoBad || e.bad) = true →
      (getCore s c).err.failed = false → s.err.fatal = false → (getCore s c).err.rerun = [] → ∃ t, exec (.issueBundle c v) s = .next t ∧
        (getCore t c).err.valid = true ∧ (getCore t c).err.failed = true ∧ (getCore t c).err.cause = 3 ∧
        (getCore t c).err.addr = e.addr ∧ (getCore t c).err.beat = e.beat ∧
        (getCore t c).issue.halted = true ∧ (getCore t c).issue.beat = (getCore s c).issue.beat))

/-- Ledge cycles outside the beat. An IDLE_CYCLE, of a core that has power, whose issue is held and whose ceiling is not 0 (R37, R248), with
no rerun under way and a background request pending, or a burst to decode (the model's choice, log entry 119), gives its two read slots and
its write slot to the pending requests in the order of R251, writes first (R250), and decodes one descriptor of each engine's burst (R274);
otherwise nothing changes. An INSERTED_CYCLE, once 64 beat cycles on end have offered nothing to a class with a request pending through all
of them (R252), gives them round-robin (R253), restarts both counts, is counted, and shows LEDGE, or HALTED in a halted core; before that,
and while a rerun is under way (R498), nothing changes. In both a request that is alone, with one slot to come, is served, and its slot
counted; a zero-fill of a line zeroes that line's bytes and no other. SCRUB_ADVANCE and SCRUB_READ (R259, R480, R508): while scrub is on and
not suspended, as it is from step 5 until READY but not after a fatal error that follows READY, the first advance posts the reads of the
present line; once every active core has read it and the interval has passed, scrub goes on to the next line, and after the die's last to
line 0 with one more pass counted modulo 2^32, and the reads of that line are posted, and no ledge's bytes change; otherwise nothing
changes. A core's scrub read that is alone is made in an idle cycle, and changes no byte. -/
def Obligations.LedgeCyclesAndScrub : Prop :=
  (
  ∀ (c : CoreId) (fs : List ReadFault) (s : State), awake s = true →
    let k := getCore s c
    let slot (b : BgReq) : Nat := if bgWrite b then 8 else 7
    let opens := k.err.rerun = [] ∧ k.presence ≠ .off ∧ k.issue.waitCause ≠ .none ∧ effective s c ≠ 0 ∧
      (k.ledge.bg ≠ [] ∨ k.xfer.decodeA ≠ 0 ∨ k.xfer.decodeB ≠ 0)
    let due := k.err.rerun = [] ∧ (64 ≤ k.ledge.rdPending ∨ 64 ≤ k.ledge.wrPending)
    -- what an inserted cycle does before it serves requests
    let inserted : State := modLedge c (fun l => { l with
      noRead := 0, noWrite := 0, rdPending := 0, wrPending := 0, inserted := satInc 32 l.inserted }) (modCore c (fun k => { k with
      issue := { k.issue with waitCause := if k.issue.halted then .halted else .ledge, waitUnits := 0 } }) s)
    -- the one request pending is served
    let served (b : BgReq) (u : State) : State := bgServe c fs b (modLedge c (fun l => { l with bg := [] }) (countCore c (slot b) 1 (decodeCycle c u)))
    let zeroed (line : Nat) (t : State) : Prop := (∀ d, d ≠ c → getCore t d = getCore s d) ∧ (getCore t c).ledge.bg = [] ∧
      (∀ a, memGet (getCore t c).ledge.mem a = if line * 1024 ≤ a ∧ a < line * 1024 + 1024 then 0 else memGet k.ledge.mem a) ∧
      (getCore t c).xfer.decodeA = k.xfer.decodeA - 1 ∧ (getCore t c).xfer.decodeB = k.xfer.decodeB - 1 ∧
      (getCore t c).issue.beat = k.issue.beat ∧ (getCore t c).vxe = k.vxe
    (opens → exec (.idleCycle c fs) s =
      .next (bgSlots c fs false 2 (bgSlots c fs true 1 (k.ledge.bg.length, decodeCycle c s))).2) ∧
    (opens → ∀ b, k.ledge.bg = [(b, 1)] → exec (.idleCycle c fs) s = .next (served b s)) ∧
    (opens → ∀ line, k.ledge.bg = [(.zero line, 1)] → ∃ t, exec (.idleCycle c fs) s = .next t ∧ zeroed line t ∧
      (getCore t c).issue = k.issue ∧ (getCore t c).ledge.inserted = k.ledge.inserted) ∧
    (¬opens → exec (.idleCycle c fs) s = .next s) ∧
    (due → exec (.insertedCycle c fs) s =
      .next (rrSlots c fs false 2 (rrSlots c fs true 1 (k.ledge.bg.length, decodeCycle c inserted))).2) ∧
    (due → ∀ b, k.ledge.bg = [(b, 1)] → exec (.insertedCycle c fs) s = .next (served b (modLedge c (fun l =>
      if bgWrite b then { l with rrWrite := bgKind b } else { l with rrRead := bgKind b }) inserted))) ∧
    (due → ∀ line, k.ledge.bg = [(.zero line, 1)] → ∃ t, exec (.insertedCycle c fs) s = .next t ∧ zeroed line t ∧
      (getCore t c).ledge.inserted = satInc 32 k.ledge.inserted ∧ (getCore t c).ledge.rrWrite = 0xD ∧
      (getCore t c).ledge.noRead = 0 ∧ (getCore t c).ledge.noWrite = 0 ∧
      (getCore t c).issue.waitCause = (if k.issue.halted then .halted else .ledge)) ∧
    (¬due → exec (.insertedCycle c fs) s = .next s)) ∧
  (
  ∀ s : State, awake s = true →
    let open_ := s.bring.step.toNat < 5 ∨ isReady s = true ∨ (s.bring.step = 0xB ∧ s.bring.reached = true)
    let runs := s.scrub.en = true ∧ open_
    let due := scrubDue s = true
    let posts (line : Nat) (t : State) : Prop := t.scrub.offered = true ∧
      (∀ c ∈ scrubCores s, (getCore t c).ledge.bg = (getCore s c).ledge.bg ++ [(.scrub line, 1)] ∧
        (getCore t c).ledge.scrubDone = false ∧ (getCore t c).ledge.mem = (getCore s c).ledge.mem) ∧
      ∀ c, c ∉ scrubCores s → SameCore (getCore s c) (getCore t c)
    let done := ∀ c ∈ scrubCores s, (getCore s c).ledge.scrubDone = true
    let last := dieLines s ≤ s.scrub.line.toNat + 1
    let line := if last then 0 else s.scrub.line + 1
    (runs → s.scrub.offered = false → ∃ t, exec .scrubAdvance s = .next t ∧ posts s.scrub.line.toNat t ∧ t.scrub.line = s.scrub.line ∧
      t.scrub.passes = s.scrub.passes) ∧
    (runs → s.scrub.offered = true → done → due → ∃ t, exec .scrubAdvance s = .next t ∧ posts line.toNat t ∧ t.scrub.line = line ∧
      t.scrub.since = s.tb.count ∧
      t.scrub.passes = (if last then (s.scrub.passes + 1) % 2 ^ 32 else s.scrub.passes)) ∧
    (¬runs ∨ (s.scrub.offered = true ∧ (¬done ∨ ¬due)) → exec .scrubAdvance s = .next s) ∧
    (∀ (c : CoreId) (fs : List ReadFault) (line : Nat), open_ → (getCore s c).err.rerun = [] →
      (getCore s c).ledge.bg = [(.scrub line, 1)] → (getCore s c).presence ≠ .off → (getCore s c).issue.waitCause ≠ .none → effective s c ≠ 0 →
      ∃ t, exec (.scrubRead c fs) s = .next t ∧ (getCore t c).ledge.scrubDone = true ∧ (getCore t c).ledge.bg = [] ∧
        (getCore t c).ledge.mem = (getCore s c).ledge.mem ∧ ∀ d, d ≠ c → getCore t d = getCore s d))

/-- PASS_RERUN of a one-line read whose run now passes (R497, R498): a VLD or VLDL takes its bytes, an OCFG its set, the operation no longer
waits, and the run is counted. The premises leave nothing in the gate, no suspect span, no slot and no ledge cycle behind the operation, and
no background request that the cycles of its run could serve. -/
def Obligations.RerunsCommit : Prop :=
  ∀ (c : CoreId) (fs : List ReadFault) (r : Rerun) (rest : List Rerun) (s : State), awake s = true → effective s c ≠ 0 →
    (getCore s c).err.rerun = r :: rest → (getCore s c).err.gate = [] → (getCore s c).err.suspect = [] →
    (getCore s c).err.rest = none → (getCore s c).err.cycles = [] → (getCore s c).ledge.bg = [] → r.off = false →
    let k := getCore s c
    let done (t : State) : Prop := OnlyCore c { s with pm := t.pm } t ∧ (getCore t c).err.rerun = rest ∧
      (getCore t c).err.reruns = satInc 32 k.err.reruns ∧ (getCore t c).ledge.mem = k.ledge.mem ∧
      (getCore t c).issue.ofs = k.issue.ofs ∧ (getCore t c).issue.beat = k.issue.beat
    (∀ (v : BitVec 4) (n base : Nat), r.op = .vload v n base → ReadsClean (coreEnv s c [] fs) 2 base n k.ledge →
      ∃ t, exec (.passRerun c fs) s = .next t ∧ done t ∧
        ∀ i, i < n → memGet (getCore t c).vxe.vregs (256 * v.toNat + i) = ledgeByte (dieLines s) k.ledge base i) ∧
    (∀ (set : BitVec 2) (base : Nat), r.op = .ocfg set base → ReadsClean (coreEnv s c [] fs) 3 base 1024 k.ledge →
      ∃ t, exec (.passRerun c fs) s = .next t ∧ done t ∧
        ∀ i, i < 1024 → memGet (getCore t c).ost.cfg (1024 * set.toNat + i) = ledgeByte (dieLines s) k.ledge base i)

/-- LANDING, of the packet that its cluster's port grants (R371), with no other of its arrival number and no message for a col in transit
(R326, R327, R372): a landing for a core of a massif that accepts its sender leaves the ridge and enters the landing buffer, when that has
room; one that finds it full, at the head of its FIFO, waits there, and its first wait is counted (R255, R373); one that the core does not
accept leaves the ridge, and is recorded as dropped with its sender's die when it is the first; one for a core that is not present is taken
off the ridge. No ledge's bytes change. REMOTE_READ (R246, R380): a read for a core that is present and gives it to its sender waits for the
ledge slots of its shape; the bytes of every ledge stand. A packet that is alone in transit goes through every router of its path in one
command (the model's choice, log entry 122). A landing that the ledge serves writes exactly the bytes that it names and that lie in the
ledge range (R240, R257); its signal then adds one to its cairn when that is open, and is counted as late when it is closed (R326, R330). -/
def Obligations.LandingsAndReadsArrive : Prop :=
  (
  ∀ (n r : Nat) (p : Packet) (w : LandWrite) (s : State), awake s = true → s.net[n]? = some p → p.what = .land w → p.path = [r] →
    fifoHead s.net p = p → (∀ q ∈ s.net, q.arrival = p.arrival → q = p) → OnlyForCores s →
    let k := getCore s w.dst
    let granted := portGrant s (netCan s) r portCluster = some p
    let takes := accepts s w.dst w.srcMassif w.job w.host
    let arrives (t : State) : Prop := exec (.landing n) s = .next t
    let gone (t : State) : Prop := arrives t ∧ t.net = s.net.erase p
    (granted → present s w.dst = true → takes = true → landCount k.ledge < 8 → ∃ t, gone t ∧
      (getCore t w.dst).ledge.bg = k.ledge.bg ++ [(.land w, 1)] ∧ (getCore t w.dst).ledge.mem = k.ledge.mem ∧
      (∀ d, d ≠ w.dst → getCore t d = getCore s d)) ∧
    (present s w.dst = true → takes = true → 8 ≤ landCount k.ledge → ∃ t, arrives t ∧ t.cores = s.cores ∧
      (w.waited = true → t = s) ∧
      (w.waited = false → t.net = s.net.map (fun q => if q.arrival = p.arrival then { q with what := .land { w with waited := true } } else q) ∧
        (getClus t w.dst.clus).dataHolds = satInc 32 (getClus s w.dst.clus).dataHolds)) ∧
    (granted → present s w.dst = true → takes = false → w.ack = .none → ∃ t, gone t ∧
      (getCore t w.dst).ledge = k.ledge ∧ (getCore t w.dst).cairn.dropCount = satInc 32 k.cairn.dropCount ∧
      (getCore t w.dst).cairn.dropDie = (if k.cairn.dropValid then k.cairn.dropDie else w.srcDie) ∧
      (getCore t w.dst).cairn.counts = k.cairn.counts ∧ (∀ d, d ≠ w.dst → getCore t d = getCore s d)) ∧
    (granted → present s w.dst = false → w.ack = .none → ∃ t, gone t ∧ t.cores = s.cores)) ∧
  (
  ∀ (n a : Nat) (p : Packet) (r : ReadReq) (s : State), awake s = true → s.net[n]? = some p → p.what = .read r → p.path = [a] →
    fifoHead s.net p = p → (∀ q ∈ s.net, q.arrival = p.arrival → q = p) → OnlyForCores s →
    portGrant s (netCan s) a portCluster = some p → present s r.dst = true →
    readAllowed s r = true → shapeBad r.shape r.stride false = false →
    ∃ t, exec (.remoteRead n) s = .next t ∧ t.net = s.net.erase p ∧
      (getCore t r.dst).ledge.bg = (getCore s r.dst).ledge.bg ++ [(.rread r, shapeSlots r.shape r.stride r.off)] ∧
      (getCore t r.dst).ledge.mem = (getCore s r.dst).ledge.mem ∧ (∀ d, d ≠ r.dst → getCore t d = getCore s d)) ∧
  (
  ∀ (p : Packet) (s : State), awake s = true → s.net = [p] → p.path ≠ [] → (∀ r ∈ p.path, r < 42) → 0 < p.flits →
    (∀ w : LandWrite, p.what = .land w → present s w.dst = true → accepts s w.dst w.srcMassif w.job w.host = true →
      landCount (getCore s w.dst).ledge < 8 → ∃ t, exec (.landing 0) s = .next t ∧ t.net = [] ∧
        (getCore t w.dst).ledge.bg = (getCore s w.dst).ledge.bg ++ [(.land w, 1)] ∧ (∀ d, d ≠ w.dst → getCore t d = getCore s d)) ∧
    (∀ r : ReadReq, p.what = .read r → present s r.dst = true → readAllowed s r = true → shapeBad r.shape r.stride false = false →
      ∃ t, exec (.remoteRead 0) s = .next t ∧ t.net = [] ∧
        (getCore t r.dst).ledge.bg = (getCore s r.dst).ledge.bg ++ [(.rread r, shapeSlots r.shape r.stride r.off)] ∧
        (∀ d, d ≠ r.dst → getCore t d = getCore s d))) ∧
  (
  ∀ (c : CoreId) (fs : List ReadFault) (w : LandWrite) (s : State), w.ack = .none →
    let k := getCore s c
    let k' := getCore (bgServe c fs (.land w) s) c
    (∀ d, d ≠ c → getCore (bgServe c fs (.land w) s) d = getCore s d) ∧
    (∀ a, memGet k'.ledge.mem a = if a ∈ w.mask ∧ ledgeClass (dieLines s) k.ledge a = 0 then memGet w.bytes a else memGet k.ledge.mem a) ∧
    (w.sig = none → k'.cairn = k.cairn) ∧
    (∀ i : BitVec 6, w.sig = some i → cairnOpen k.cairn i.toNat = true →
      smGet 0 k'.cairn.counts i.toNat = min (smGet 0 k.cairn.counts i.toNat + 1) (2 ^ 32 - 1) ∧
      ∀ j, j ≠ i.toNat → smGet 0 k'.cairn.counts j = smGet 0 k.cairn.counts j) ∧
    (∀ i : BitVec 6, w.sig = some i → cairnOpen k.cairn i.toNat = false →
      k'.cairn.counts = k.cairn.counts ∧ smGet 0 k'.cairn.late i.toNat = satInc 16 (smGet 0 k.cairn.late i.toNat)))

/-- ARRIVAL_DEPART (R334, R335): an arrival that nothing it covers holds back leaves its core, and its die's summit unit receives it at the
instance of its context; it stays unreleased, and no other core changes. SUMMIT_RELEASE (R335..R337, R341), of a summit at which every
participant has arrived, none flagged and none failed: the next generation begins; a CLUSTER summit is released at its cores at once; a
MASSIF summit, and a TREE summit at the root once every child has arrived, starts down the staircase, each cluster at its own delay; an
arrival withheld behind the one released is made then (log entry 18); every ledge's bytes stand, and only the massif's cores change. A
summit that is disabled, of a massif that is gone, flagged, or that a participant has not reached is not released. STAIRCASE_RELEASE
(R341..R343): at its time, and not before, a release reaches a cluster: the arrivals of its cores end, their ledge caches are invalidated,
and their ramps begin; a core that still waits keeps that wait's scree load. Where the way to or from the die-level port is not clear, the
arrival or the release is lost (log entry 121). SCREE_STEP_DOWN (R342): a wait at a summit of 2^(HOLD+6) ticks takes one step of the
context's load off (also where RAMP is 0: log entry 137); RAMP_QUARTER (R343) goes to the ramp's next quarter: SCREE times 3, 2 and 1, and
the fourth ends it; the load of a core that waits at a summit stands. Nothing else changes. -/
def Obligations.SummitsAreReleased : Prop :=
  (
  ∀ (c : CoreId) (ctx : BitVec 4) (s : State) (m : Massif) (a : Arrival), awake s = true → massifOf s c = some m →
    smGet none (getCore s c).cairn.arrivals ctx.toNat = some a → arrivalReady s c a = true →
    let key := instKey (ctxScope s m ctx) ctx (getClus s c.clus).repair.lclus.toNat
    ∃ t, exec (.arrivalDepart c ctx) s = .next t ∧
      (crossesFailed s c.clus.val diePort = false → c ∈ (getInst t m key).arrived ∧ (getInst t m key).last = s.tb.count) ∧
      (crossesFailed s c.clus.val diePort = true → getInst t m key = getInst s m key) ∧
      (getInst t m key).gen = (getInst s m key).gen ∧
      smGet none (getCore t c).cairn.arrivals ctx.toNat = some { a with left := true } ∧
      (getCore t c).cairn.counts = (getCore s c).cairn.counts ∧ (getCore t c).issue = (getCore s c).issue ∧
      (getCore t c).ledge = (getCore s c).ledge ∧ ∀ d, d ≠ c → SameCore (getCore s d) (getCore t d)) ∧
  (
  ∀ (m : Massif) (ctx : BitVec 4) (lclus : BitVec 6) (s : State), awake s = true →
    let scope := ctxScope s m ctx
    let i := getInst s m (instKey scope ctx lclus.toNat)
    let parts := summitParts s m scope lclus.toNat
    massifHolds (getMassif s m) = true → i.trap = false → allArrived s m scope lclus.toNat i = true → parts ≠ [] →
    (∀ c ∈ parts, (getCore s c).err.failed = false) →
    let next (t : State) : Prop := exec (.summitRelease m ctx lclus) s = .next t ∧
      (getInst t m (instKey scope ctx lclus.toNat)).gen = i.gen + 1 ∧ (getInst t m (instKey scope ctx lclus.toNat)).arrived = []
    (scope = 1 → (∃ p : PClus, physClus s lclus.toNat = some p ∧ crossesFailed s diePort p.val = false) → ∃ t, next t ∧ (s.net = [] → t.net = []) ∧
      (∀ c ∈ parts,
        (smGet [] (getCore s c).cairn.withheld ctx.toNat = [] → smGet none (getCore t c).cairn.arrivals ctx.toNat = none) ∧
        (∀ b n w l, smGet none (getCore s c).cairn.arrivals ctx.toNat ≠ none → smGet [] (getCore s c).cairn.withheld ctx.toNat = (b, n, w) :: l →
          smGet [] (getCore t c).cairn.withheld ctx.toNat = l ∧ ∃ a, smGet none (getCore t c).cairn.arrivals ctx.toNat = some a ∧
            a.left = false ∧ a.before = n ∧ a.waiting = w) ∧
        (getCore t c).ledge.mem = (getCore s c).ledge.mem ∧
        (getCore t c).cairn.counts = (getCore s c).cairn.counts ∧ (getCore t c).issue = (getCore s c).issue ∧
        ∀ x : BitVec 4, x ≠ ctx → smGet none (getCore t c).cairn.arrivals x.toNat = smGet none (getCore s c).cairn.arrivals x.toNat) ∧
      (∀ c, c ∉ parts → SameCore (getCore s c) (getCore t c)) ∧ (getMassif t m).summit.stair = (getMassif s m).summit.stair) ∧
    (scope = 2 ∨ (scope = 3 ∧ (let k := (getMassif s m).summit; treeBad s k = false ∧ k.broken.getLsbD ctx.toNat = false ∧
        k.held.getLsbD ctx.toNat = false ∧ treeParent k = none ∧ k.children &&& ~~~i.childArr = 0)) → ∃ t, next t ∧ (∀ c, SameCore (getCore s c) (getCore t c)) ∧
      (getMassif t m).summit.stair = (getMassif s m).summit.stair ++ (massifClus s m).map (fun p =>
        ⟨ctx, (getClus s p).repair.lclus, now s + stairDelay s m ctx p, (activeCores (getClus s p)).map (fun q => ⟨p, q⟩)⟩))) ∧
  (
  ∀ (m : Massif) (ctx : BitVec 4) (lclus : BitVec 6) (s : State),
    let scope := ctxScope s m ctx
    let i := getInst s m (instKey scope ctx lclus.toNat)
    scope = 0 ∨ massifHolds (getMassif s m) = false ∨ i.trap = true ∨ allArrived s m scope lclus.toNat i = false →
      exec (.summitRelease m ctx lclus) s = .next s) ∧
  (
  ∀ (m : Massif) (ctx : BitVec 4) (lclus : BitVec 6) (s : State) (i : StairItem), awake s = true →
    (getMassif s m).summit.stair.find? (fun i => i.ctx == ctx && i.lclus == lclus) = some i →
    (∀ c ∈ i.cores, (getCore s c).err.failed = false) → i.cores.Nodup →
    let clear := ∃ p : PClus, physClus s lclus.toNat = some p ∧ crossesFailed s diePort p.val = false
    (i.due ≤ now s → clear → ∃ t, exec (.staircaseRelease m ctx lclus) s = .next t ∧
      (getMassif t m).summit.stair = (getMassif s m).summit.stair.erase i ∧
      (∀ c ∈ i.cores, (smGet [] (getCore s c).cairn.withheld ctx.toNat = [] → smGet none (getCore t c).cairn.arrivals ctx.toNat = none) ∧
        (∀ a, smGet none (getCore s c).cairn.arrivals ctx.toNat = some a →
          let waitEnds := a.waiting = true ∨ smGet [] (getCore s c).cairn.withheld ctx.toNat = []
          (getCore t c).cairn.ramp = ctxRamp s m ctx ∧ (getCore t c).ledge.tags = [] ∧
          (getCore t c).cairn.rampQuarter = (if ctxRamp s m ctx = 0 then 4 else 0) ∧
          (getCore t c).cairn.scree = (if (getCore s c).cairn.waitKind = 2 ∧ ((getCore s c).cairn.waitIdx.toNat ≠ ctx.toNat ∨ ¬waitEnds) then (getCore s c).cairn.scree
            else if ctxRamp s m ctx = 0 then 0 else ctxScree s m ctx * 3)) ∧
        (getCore t c).ledge.mem = (getCore s c).ledge.mem ∧ (getCore t c).issue = (getCore s c).issue) ∧
      ∀ c, c ∉ i.cores → SameCore (getCore s c) (getCore t c)) ∧
    (i.due ≤ now s → ¬clear → ∃ t, exec (.staircaseRelease m ctx lclus) s = .next t ∧
      (getMassif t m).summit.stair = (getMassif s m).summit.stair.erase i ∧ t.cores = s.cores) ∧
    (now s < i.due → exec (.staircaseRelease m ctx lclus) s = .next s)) ∧
  (
  ∀ (m : Massif) (ctx : BitVec 4) (lclus : BitVec 6) (s : State),
    (getMassif s m).summit.stair.find? (fun i => i.ctx == ctx && i.lclus == lclus) = none →
    exec (.staircaseRelease m ctx lclus) s = .next s) ∧
  (
  ∀ (c : CoreId) (s : State), awake s = true →
    let k := (getCore s c).cairn
    (∀ m : Massif, massifOf s c = some m → k.waitKind = 2 → 0 < k.scree →
      2 ^ (ctxHold s m (bitsAt k.waitIdx 0 4) + 6) ≤ now s - k.screeSince.toNat →
      ∃ t, exec (.screeStepDown c) s = .next t ∧ OnlyCore c s t ∧
        getCore t c = { getCore s c with cairn := { k with scree := k.scree - ctxScree s m (bitsAt k.waitIdx 0 4) } }) ∧
    (k.waitKind ≠ 2 ∨ k.scree = 0 ∨ (∀ m, massifOf s c = some m → now s - k.screeSince.toNat < 2 ^ (ctxHold s m (bitsAt k.waitIdx 0 4) + 6)) →
      exec (.screeStepDown c) s = .next s) ∧
    (∃ t, exec (.rampQuarter c) s = .next t ∧ OnlyCore c s t ∧ (4 ≤ k.rampQuarter.toNat → getCore t c = getCore s c) ∧
      (k.rampQuarter.toNat < 4 → getCore t c = { getCore s c with cairn := { k with
        rampQuarter := k.rampQuarter + 1
        scree := if k.waitKind = 2 then k.scree else match k.rampQuarter.toNat with | 0 => k.scree * 2 / 3 | 1 => k.scree / 2 | _ => 0 } })))

/-- TRANSFER_REQUEST, of a request for a ledge of this die (R282, R289): a stream that runs, with nothing gated and nothing waiting for
store space, forms the next request of its chunk. A read of the own ledge waits for its slots, a read of another core's goes out on the
ridge with the chunk's due time (R308); a write whose source bytes have come is numbered, and waits for its slot with its bytes, behind the
released signals of the core for itself (R361), or, in no epoch and behind no released item, goes out on the ridge, the way being clear. No
other core changes, and no ledge's bytes. DESCRIPTOR_BURST: a burst read that passes, alone at its ledge, is made in an idle cycle (R250),
and leaves the stream its bytes while a descriptor is in execution (R277); where the ledge has no idle cycle it waits. With no read on its
way and no descriptor in execution, the next descriptor of the burst is taken up (R278): a well-formed COPY or REPACK, with its chunks
numbered on from the last; LINK posts the read of the burst that it names; END ends the list, and a stream with nothing left to do; any
other, with nothing left to do, ends the stream with BAD_DESC in its record (R301). -/
def Obligations.TransferRequestsAndBursts : Prop :=
  (
  ∀ (c : CoreId) (x : Fin 8) (write : Bool) (s : State) (k : ChunkRun) (p : ReqSpec), awake s = true →
    let f := (getCore s c).xfer
    let q := getStream s c x
    let id := f.nextWrite
    q.st = .run → q.gated = false → (∀ r ∈ q.reqs, r.stage ≠ 2) → HeldWaiter.signal c.core x ∉ (getClus s c.clus).heldWait →
    nextChunkOf q write = some k → chunkNext k write = .spec p → q.chunks.find? (fun r => r.num = k.num) = some k →
    q.reqs.find? (fun r => r.id = id) = none →
    let kept (t : State) : Prop := exec (.transferRequest c x write) s = .next t ∧ (∀ d, d ≠ c → getCore t d = getCore s d) ∧
      (getCore t c).ledge.mem = (getCore s c).ledge.mem ∧ (getCore t c).issue = (getCore s c).issue ∧
      (getStream t c x).reqs.length = q.reqs.length + 1
    let first := (p.pieces.map (·.off)).headD 0
    (write = false → unitOwn s c p.u = true → shapeBad (chunkShape k) (chunkStride k) false = false → ∃ t, kept t ∧ t.net = s.net ∧
      (getCore t c).xfer.nextWrite = id + 1 ∧
      (getCore t c).ledge.bg = (getCore s c).ledge.bg ++ [(.txrSrc x id, shapeSlots (chunkShape k) (chunkStride k) (specVa p + first))]) ∧
    (∀ die lc lk line d, write = false → unitOwn s c p.u = false → p.u = .led die lc lk line → ownDie s die = true → physCore s lc lk = some d →
      crossesFailed s c.clus.val d.clus.val = false →
      let lo := if chunkShape k != 0 then first else specLow p
      let n := if chunkShape k != 0 then 1024 else specHigh p - lo
      ∃ t, kept t ∧ (getCore t c).xfer.nextWrite = id + 1 ∧ t.net = (netPut c.clus.val d.clus.val portCluster 1 k.due
        (.read ⟨d, line * 1024 + lo, n, chunkShape k, chunkStride k, massifOf s c, .stream c x id, 0, false⟩) s).net) ∧
    (write = true → unitOwn s c p.u = true → writeReady k p = true → ∃ t, kept t ∧ t.net = s.net ∧
      (getCore t c).xfer.outWrites = f.outWrites ++ [id + 1] ∧
      let w := specOut s k p none .none none
      (ownBehind s c = false → (getCore t c).ledge.bg = (getCore s c).ledge.bg ++ [(.txw x (id + 1) w.bytes w.mask, 1)]) ∧
      (ownBehind s c = true → (getCore t c).ledge.bg = (getCore s c).ledge.bg ∧
        (getClus t c.clus).held.map (·.what) = (getClus s c.clus).held.map (·.what) ++ [.own x (id + 1) w.bytes w.mask])) ∧
    (∀ die lc lk line d, write = true → unitOwn s c p.u = false → p.u = .led die lc lk line → ownDie s die = true → writeReady k p = true →
      q.epoch = none → hasReleased s c = false →
      let w := specOut s k p none (.stream c x (id + 1)) k.due
      physCore s w.lclus.toNat w.lcore.toNat = some d → crossesFailed s c.clus.val d.clus.val = false →
      ∃ t, kept t ∧ (getCore t c).xfer.outWrites = f.outWrites ++ [id + 1] ∧ t.net = (netPut c.clus.val d.clus.val portCluster (packetFlits w.len)
        k.due (.land ⟨d, w.bytes, w.mask, dieCode s, massifOf s c, coreJob s c, false, none, w.ack, false⟩) s).net)) ∧
  (
  ∀ (c : CoreId) (x : Fin 8) (write : Bool) (s : State), (getStream s c x).st ≠ .run ∨ (getStream s c x).gated = true →
    exec (.transferRequest c x write) s = .next s) ∧
  (
  ∀ (c : CoreId) (x : Fin 8) (s : State), awake s = true →
    let q := getStream s c x
    let goes := (getCore s c).err.rerun = [] ∧ (getCore s c).presence ≠ .off ∧ (getCore s c).issue.waitCause ≠ .none ∧ effective s c ≠ 0
    (∀ off tries : Nat, (getCore s c).ledge.bg = [(.txrBurst x off tries, 1)] → q.fetching = true → q.cur.isSome = true →
      (goes → ReadsClean (coreEnv s c [] []) 0xA off (1024 - off % 1024) (getCore s c).ledge →
        ∃ t, exec (.descriptorBurst c x) s = .next t ∧ (∀ d, d ≠ c → getCore t d = getCore s d) ∧ (getCore t c).ledge.bg = [] ∧
        getStream t c x = { q with fetching := false, burstOff := off, burst :=
          (List.range (1024 - off % 1024)).map (ledgeByte (dieLines s) (getCore s c).ledge off) } ∧
        (getCore t c).ledge.mem = (getCore s c).ledge.mem ∧ (getCore t c).issue = (getCore s c).issue) ∧
      (¬goes → exec (.descriptorBurst c x) s = .next s)) ∧
    ((∀ e ∈ (getCore s c).ledge.bg, bgKind e.1 ≠ 0xA) → q.st = .run → q.gated = false → q.cur = none → q.ended = false → q.listErr = none →
      (∀ r ∈ q.chunks, r.fault = none) → 64 ≤ q.burst.length →
      let d := q.burst.take 64
      let good := (descKind d = 1 ∧ copyOk d = true) ∨ (descKind d = 2 ∧ repackOk (featMx6 s) d = true)
      let kept (t : State) : Prop := exec (.descriptorBurst c x) s = .next t ∧ (∀ d, d ≠ c → getCore t d = getCore s d) ∧
        (getCore t c).ledge.mem = (getCore s c).ledge.mem ∧ (getCore t c).issue = (getCore s c).issue
      (good → ∃ t, kept t ∧ (getStream t c x).st = .run ∧
        (getStream t c x).cur.map (fun d => (d.desc, d.off, d.first, d.count)) = some (d, q.burstOff, q.nextChunk, descChunks d)) ∧
      (descKind d = 3 → ∃ t, kept t ∧ (getStream t c x).st = .run ∧ (getStream t c x).fetching = true ∧ (getStream t c x).burst = [] ∧
        (getCore t c).ledge.bg = (getCore s c).ledge.bg ++ [(.txrBurst x (descLink d) 0, 1)]) ∧
      (q.chunks = [] → q.reqs = [] → descKind d = 0 → ∃ t, kept t ∧ (getStream t c x).st = .idle ∧ (getStream t c x).fvalid = q.fvalid) ∧
      (q.chunks = [] → q.reqs = [] → descKind d ≠ 0 → descKind d ≠ 3 → ¬good → ∃ t, kept t ∧ (getStream t c x).st = .idle ∧
        (getStream t c x).errored = true ∧ (getStream t c x).fvalid = true ∧ (getStream t c x).fcode = 8 ∧
        (getStream t c x).fdesc = BitVec.ofNat 19 q.burstOff ∧ (smGet Evt.reset t.evts (pageCoreB c)).pending = true)))

/-- STREAM_FAULT, TX_RESUME and RESUME_ALL (R297, R298): a stream whose lowest unsignalled chunk stopped at a fault, with no request left,
goes to FAULTED with the record of the fault and raises its event; one that has stopped nowhere, does not run, or has requests left stands.
A resume returns every FAULTED stream that it names to RUN, with that chunk's fault gone and that chunk and every later one begun again; of
every other stream no more than the due times of its chunks change (R307). -/
def Obligations.StreamsFaultAndResume : Prop :=
  (∀ (c : CoreId) (x : Fin 8) (s : State) (r : ChunkRun) (code : BitVec 4) (wr : Bool) (level : BitVec 2) (va : Nat), awake s = true →
    let q := getStream s c x
    stopChunk q = some r → r.fault = some (code, wr, level, va) → q.st = .run → q.reqs = [] → q.nextSignal = r.num → code.toNat < 8 →
    ∃ t, exec (.streamFault c x) s = .next t ∧ (∀ d, d ≠ c → getCore t d = getCore s d) ∧
      getStream t c x = { q with
        st := .faulted, fcode := code, fwrite := wr, flevel := level, fvalid := true, fchunk := r.num % 2 ^ 32
        fva := BitVec.ofNat 64 (va / 256 * 256), fidx := restartIndex r, fdesc := BitVec.ofNat 19 r.off } ∧
      (∀ y, y ≠ x → getStream t c y = getStream s c y) ∧ (getCore t c).ledge = (getCore s c).ledge ∧
      (getCore t c).xfer.faults = satInc 16 (getCore s c).xfer.faults ∧ (smGet Evt.reset t.evts (pageCoreB c)).pending = true) ∧
  (∀ (c : CoreId) (x : Fin 8) (s : State), stopChunk (getStream s c x) = none ∨ (getStream s c x).st ≠ .run ∨ (getStream s c x).reqs ≠ [] →
    exec (.streamFault c x) s = .next s) ∧
  (∀ (c : CoreId) (mask : BitVec 8) (s : State), awake s = true → ∃ t, exec (.txResume c mask) s = .next t ∧ OnlyCore c s t ∧
    ∀ x : Fin 8, (mask.getLsbD x.val = true ∧ (getStream s c x).st = .faulted → (getStream t c x).st = .run ∧
        (getStream t c x).chunks.map (·.num) = (getStream s c x).chunks.map (·.num) ∧
        ∀ r, stopChunk (getStream s c x) = some r → ∀ r' ∈ (getStream t c x).chunks, r.num ≤ r'.num →
          r'.fault = none ∧ r'.landed = false ∧ r'.rdNext = 0 ∧ r'.wrNext = 0 ∧ r'.rdDone = [] ∧ r'.wrDone = 0) ∧
      (¬(mask.getLsbD x.val = true ∧ (getStream s c x).st = .faulted) →
        getStream t c x = { getStream s c x with chunks := (getStream t c x).chunks, cur := (getStream t c x).cur } ∧
        (getStream t c x).cur.map (fun d => { d with dueAt := none }) = (getStream s c x).cur.map (fun d => { d with dueAt := none }) ∧
        (getStream t c x).chunks.map (fun r => { r with due := none }) = (getStream s c x).chunks.map (fun r => { r with due := none }))) ∧
  (∀ (m : Massif) (s : State), awake s = true → ∃ t, exec (.resumeAll m) s = .next t ∧ t = { s with cores := t.cores } ∧
    (∀ c ∈ massifCores s m, ∀ x : Fin 8, (getStream t c x).st = (if (getStream s c x).st = .faulted then .run else (getStream s c x).st)) ∧
    (∀ c, c ∉ massifCores s m → getCore t c = getCore s c))

/-- TRACKER_ADMIT (R312): the first stream of the queue takes a free tracker entry, and its chunks get their due times (R307); with no
stream in the queue, or no entry free, nothing changes. DUE_TIME_RECOMPUTE (R307): each chunk of a tracked stream with a deadline is due at
the tick at which the core reaches that beat, at its ceiling, or, while that reads 0, at the last that was not 0, and the chunks that the
descriptor in execution has still to begin take their due times from the same moment. AGE_PROMOTION (R310): whatever has waited DL_AGE.LIMIT
ticks at a router, a col's egress or the tag pool is promoted, and nothing else is. TAG_GRANT (R313), with a tag free and a request to
choose: the request takes a tag of its massif, and its block's read goes to the hub of its address when a col carries it; when none does it
is answered as absent, its tag is free again, and the answer is counted (R383, R393, R426; that it is answered at once, and that a col
behind a failed or disabled router is none, are the model's choices, log entries 72, 77 and 121); with no tag free, or no request, nothing
changes. The premises say that the request is the one of its number, with its chunk and address. -/
def Obligations.DeadlineService : Prop :=
  (
  ∀ s : State, awake s = true →
    (∀ (c : CoreId) (x : Fin 8) (rest : List (CoreId × Fin 8)), s.trk.queue = (c, x) :: rest → s.trk.tracked < 16384 →
      ∃ t, exec .trackerAdmit s = .next t ∧
        getStream t c x = { getStream s c x with
          tracked := true, chunks := (getStream s c x).chunks.map (fun r => { r with due := r.deadline.map (dueTime s c) })
          cur := (getStream s c x).cur.map (fun d => { d with dueAt := some (duePoint s c) }) } ∧
        (∀ y, y ≠ x → getStream t c y = getStream s c y) ∧
        t.trk = { s.trk with tracked := s.trk.tracked + 1, trackedHwm := max s.trk.trackedHwm (s.trk.tracked + 1), queue := rest } ∧
        t = { s with trk := t.trk, cores := t.cores } ∧ ∀ d, d ≠ c → getCore t d = getCore s d) ∧
    (s.trk.queue = [] ∨ 16384 ≤ s.trk.tracked → exec .trackerAdmit s = .next s) ∧
    (∀ c : CoreId, ∃ t, exec (.dueTimeRecompute c) s = .next t ∧ OnlyCore c s t ∧
      getCore t c = { getCore s c with xfer := { (getCore s c).xfer with
        dlCeil := if effective s c = 0 then (getCore s c).xfer.dlCeil else effective s c, streams := (getCore t c).xfer.streams } } ∧
      ∀ x,
        let rate := if effective s c = 0 then (getCore s c).xfer.dlCeil else effective s c
        getStream t c x = { getStream s c x with
          chunks := (getStream s c x).chunks.map (fun r => { r with due := if (getStream s c x).tracked then r.deadline.map (fun d =>
            (now s : Int) + ((d - (getCore s c).issue.beat).toInt * 1000).tdiv rate) else none })
          cur := (getStream s c x).cur.map (fun d => { d with
            dueAt := if (getStream s c x).tracked then some (now s, (getCore s c).issue.beat, rate) else none }) }) ∧
    (let old (since : BitVec 64) : Bool := decide (ageLimit s ≤ now s - since.toNat)
      ∃ t, exec .agePromotion s = .next t ∧ t = { s with net := t.net, cols := t.cols, cores := t.cores } ∧
      t.net = s.net.map (fun p => { p with promoted := p.promoted || old p.since }) ∧
      (∀ k, getCol t k = { getCol s k with egress := (getCol s k).egress.map (fun e => { e with promoted := e.promoted || old e.since }) }) ∧
      (∀ c, getCore t c = { getCore s c with xfer := { (getCore s c).xfer with streams := (getCore t c).xfer.streams } }) ∧
      ∀ c x, getStream t c x = { getStream s c x with
        reqs := (getStream s c x).reqs.map (fun r => { r with promoted := r.promoted || (r.stage = 1 && old r.since) }) })) ∧
  (
  ∀ (s : State) (w : TagWait) (r : TxReq) (k : ChunkRun) (mpa : BitVec 40), awake s = true → tagsInUse s < 8192 → tagChoice s = some w →
    findReq (getStream s w.core w.x) w.id = some r → r.mpa = some mpa → reqChunk (getStream s w.core w.x) r = some k →
    let m := tagMassif s w.core
    let ways := (egressCol s (mpaHub mpa.toNat) 2 w.core.clus.val (mpa.toNat / 256 % 16)).filter
      (fun c => !crossesFailed s w.core.clus.val (colRouter c))
    (ways.isSome = true → ∃ t, exec .tagGrant s = .next t ∧ t.trk.tags.get m = s.trk.tags.get m + 1 ∧
      (∃ r', findReq (getStream t w.core w.x) w.id = some r' ∧ r'.stage = 3 ∧ r'.tag = true ∧ r'.chunk = r.chunk ∧ r'.idx = r.idx) ∧
      (getCore t w.core).ledge = (getCore s w.core).ledge ∧ (getCore t w.core).issue = (getCore s w.core).issue ∧
      ∀ d, d ≠ w.core → SameCore (getCore s d) (getCore t d)) ∧
    (ways = none → ∃ t, exec .tagGrant s = .next t ∧ t.trk.tags.get m = s.trk.tags.get m ∧
      findReq (getStream t w.core w.x) w.id = none ∧
      (getClus t w.core.clus).absentCount = satInc 32 (getClus s w.core.clus).absentCount)) ∧
  (
  ∀ s : State, 8192 ≤ tagsInUse s ∨ tagChoice s = none → exec .tagGrant s = .next s)

/-- STORE_SPACE_GRANT (R356): the request at the head of a cluster's queue is placed in the store when the store has room for it, and leaves
the queue; one that is no longer there leaves the queue; the signal of a chunk at the head, the only one of its stream, is placed for each
of its targets; a TXPUT at the head is left to its core's issue, and with an empty queue nothing changes. RELEASE_ITEM_LEAVES (R360): the
first released item of a core leaves the store, the way to its target being clear: a write for the core of this die that it names, a signal
once every earlier write of the core that has left is acknowledged (what the signal waits for is the model's reading, log entry 56); a write
that is found bad is a hard error of cause 4, and is not sent (R495). With no released item nothing changes. -/
def Obligations.HeldWritesMove : Prop :=
  (∀ (p : PClus) (q : PCore) (x : Fin 8) (id e slots : Nat) (rest : List HeldWaiter) (s : State) (r : TxReq) (k : ChunkRun) (sp : ReqSpec),
    awake s = true → (getClus s p).heldWait = .req q x id :: rest →
    let c : CoreId := ⟨p, q⟩
    let z := getStream s c x
    findReq z id = some r → reqChunk z r = some k → reqSpec z r = some sp → unitOwn s c sp.u = false → z.epoch = some e →
    smGet .opened (getCore s c).epoch.fate e = .opened → stopChunk z = none → slots = maskWords (specMask sp) →
    storeFits (getClus s p) 1 slots = true →
    ∃ t, exec (.storeSpaceGrant p) s = .next t ∧ HeldWaiter.req q x id ∉ (getClus t p).heldWait ∧
      (∃ h ∈ (getClus t p).held, h.core = q ∧ h.epoch = e ∧ h.stream = some (x, r.chunk) ∧ h.slots = slots ∧ h.released = false) ∧
      (getCore t c).ledge.mem = (getCore s c).ledge.mem ∧ (getCore t c).issue = (getCore s c).issue) ∧
  (∀ (p : PClus) (q : PCore) (x : Fin 8) (e : Nat) (rest : List HeldWaiter) (s : State) (k : ChunkRun),
    awake s = true → (getClus s p).heldWait = .signal q x :: rest →
    let c : CoreId := ⟨p, q⟩
    let z := getStream s c x
    z.st = .run → z.chunks = [k] → k.num = z.nextSignal → k.landed = true → k.fault = none → chunkHeld s c z k = true → z.epoch = some e →
    smGet .opened (getCore s c).epoch.fate e = .opened → chunkTargets s c k.desc ≠ [] →
    storeFits (getClus s p) (chunkTargets s c k.desc).length 0 = true →
    ∃ t, exec (.storeSpaceGrant p) s = .next t ∧ HeldWaiter.signal q x ∉ (getClus t p).heldWait ∧ (getStream t c x).chunks = [] ∧
      (∀ a ∈ chunkTargets s c k.desc, ∃ h ∈ (getClus t p).held, h.core = q ∧ h.epoch = e ∧ h.slots = 0 ∧ h.released = false ∧
        h.what = .signal a.1 a.2.1 a.2.2 (descCairn k.desc)) ∧
      (getCore t c).ledge.mem = (getCore s c).ledge.mem ∧ (getCore t c).issue = (getCore s c).issue) ∧
  (∀ (p : PClus) (s : State), awake s = true →
    (∀ (q : PCore) (x : Fin 8) (id : Nat) (rest : List HeldWaiter), (getClus s p).heldWait = .req q x id :: rest →
      findReq (getStream s ⟨p, q⟩ x) id = none → ∃ t, exec (.storeSpaceGrant p) s = .next t ∧ t = { s with clusters := t.clusters } ∧
        getClus t p = { getClus s p with heldWait := rest.filter (· != .req q x id) } ∧ ∀ k, k ≠ p → getClus t k = getClus s k) ∧
    ((getClus s p).heldWait = [] ∨ (∃ q rest, (getClus s p).heldWait = .put q :: rest) → exec (.storeSpaceGrant p) s = .next s)) ∧
  (∀ (c d : CoreId) (bad : Bool) (s : State) (h : HeldItem) (w : OutWrite), awake s = true → releasedHead s c = some h →
    h.what = .write w → (bad && decide (0 < h.slots)) = false → w.die.toNat < 8 ∨ 12 ≤ w.die.toNat → ownDie s w.die.toNat = true →
    physCore s w.lclus.toNat w.lcore.toNat = some d → crossesFailed s c.clus.val d.clus.val = false →
    ∃ t, exec (.releaseItemLeaves c bad) s = .next t ∧ (h.va = none → t.cores = s.cores) ∧
      t.net = (netPut c.clus.val d.clus.val portCluster (packetFlits w.len) w.due
        (.land ⟨d, w.bytes, w.mask, dieCode s, massifOf s c, coreJob s c, false, w.sig, w.ack, false⟩) s).net ∧
      (getClus t c.clus).held.length + 1 = (getClus s c.clus).held.length) ∧
  (∀ (c d : CoreId) (bad : Bool) (s : State) (h : HeldItem) (die : BitVec 4) (lclus : BitVec 6) (lcore : BitVec 7) (k : BitVec 6),
    awake s = true → releasedHead s c = some h → h.what = .signal die lclus lcore k → h.slots = 0 →
    (earlierOut s c h.num = true → exec (.releaseItemLeaves c bad) s = .next s) ∧
    (earlierOut s c h.num = false → ownDie s die.toNat = true → physCore s lclus.toNat lcore.toNat = some d →
      crossesFailed s c.clus.val d.clus.val = false →
      present s d = true → massifOf s d = massifOf s c → (∀ m, massifOf s c = some m → (getSeq s m).startPend = false) →
      cairnOpen (getCore s d).cairn k.toNat = true →
      ∃ t, exec (.releaseItemLeaves c bad) s = .next t ∧ (getClus t c.clus).held.length + 1 = (getClus s c.clus).held.length ∧
        smGet 0 (getCore t d).cairn.counts k.toNat = min (smGet 0 (getCore s d).cairn.counts k.toNat + 1) (2 ^ 32 - 1) ∧
        h.num ∉ (getCore t c).xfer.outWrites ∧ (s.net = [] → t.net = []))) ∧
  (∀ (c : CoreId) (s : State) (h : HeldItem), awake s = true → releasedHead s c = some h → 0 < h.slots →
    (∀ m, massifOf s c = some m → (getSeq s m).startPend = false) → (getCore s c).err.rest = none →
    (getCore s c).err.failed = false → s.err.fatal = false → ∃ t, exec (.releaseItemLeaves c true) s = .next t ∧
      (s.net = [] → ∀ p ∈ t.net, ∃ d e, p.what = .out d e) ∧ (getClus t c.clus).held.length < (getClus s c.clus).held.length ∧
      (getCore t c).err.failed = true ∧ (getCore t c).err.cause = 4 ∧ (getCore t c).issue.halted = true) ∧
  (∀ (c : CoreId) (bad : Bool) (s : State), releasedHead s c = none → exec (.releaseItemLeaves c bad) s = .next s)

/-- CREATE (R269, R270, R483, R484): a massif of active clusters that no other massif holds, on a READY die, is being created: its members
are its mask, its cores are in reset, and every ledge byte outside the blocks that survive for its key is zero, no other byte having
changed. The cores outside it stand. CREATE, TEARDOWN and MASSIF_RESET that are not accepted only leave their result (R483, R487, R490): a
command of the massif in progress gives BUSY before any other test; for CREATE, NOT_READY, BAD_STATE, EMPTY, RANGE and OVERLAP are tested in
this order; a reserved code gives BAD_CMD. A massif reset is ignored, and noted, during bring-up (R480), and NOT_READY after a fatal error
(R508). A creation that ends is OK, in ACTIVE. The model's choices: that the bytes are zero at once on CREATE (log entry 68), and that a
reserved code is BAD_CMD in every state (log entry 26). -/
def Obligations.MassifsAreCreated : Prop :=
  (
  ∀ (m : Massif) (s : State), awake s = true → isReady s = true →
    let k := getMassif s m
    k.state = .none → k.mask ≠ 0 → k.mask >>> s.bring.active.toNat = 0 →
    (∀ n, n ≠ m → massifHolds (getMassif s n) = true → (getMassif s n).members &&& k.mask = 0) →
    ∃ t, exec (.create m) s = .next t ∧ (getMassif t m).state = .creating ∧ (getMassif t m).members = k.mask ∧
      (getMassif t m).latchedKey = k.tenantKey ∧ (getSeq t m).state = .idle ∧ (getSeq t m).checked = false ∧
      (∀ n, n ≠ m → getMassif t n = getMassif s n ∧ getSeq t n = getSeq s n) ∧
      (∀ c ∈ massifCores t m, (getCore t c).presence = .reset ∧ (getCore t c).issue.ofs = Vector.replicate 32 0 ∧
        (getCore t c).mxe.cfg = [] ∧ ∀ a, memGet (getCore t c).ledge.mem a ∈ [0, memGet (getCore s c).ledge.mem a] ∧
          ((survivors (dieLines s) k.tenantKey k.resident (getCore s c).ledge).getLsbD (a / 4096) = false →
            memGet (getCore t c).ledge.mem a = 0)) ∧
      ∀ c, c ∉ massifCores t m → getCore t c = getCore s c) ∧
  (
  ∀ (m : Massif) (s : State), awake s = true →
    let k := getMassif s m
    let gives (c : Instr) (r : MassifResult) : Prop := exec c s = .next (modMassif m (fun k => { k with result := r }) s)
    (k.state = .creating ∨ k.state = .resetting ∨ k.state = .tearingDown → gives (.create m) .busy ∧ (bringingUp s = false → gives (.massifReset m) .busy)) ∧
    (bringingUp s = true → exec (.massifReset m) s = .next { s with bring := { s.bring with ignoredReset := true } }) ∧
    (bringingUp s = false → k.state = .none ∨ k.state = .active → s.err.fatal = true → gives (.massifReset m) .notReady) ∧
    (k.state = .creating ∨ k.state = .tearingDown → gives (.teardown m) .busy) ∧
    (k.state = .none ∨ k.state = .active → isReady s = false → gives (.create m) .notReady) ∧
    (k.state = .active → isReady s = true → gives (.create m) .badState) ∧
    (k.state = .none → isReady s = true → k.mask = 0 → gives (.create m) .empty) ∧
    (k.state = .none → isReady s = true → k.mask ≠ 0 → k.mask >>> s.bring.active.toNat ≠ 0 → gives (.create m) .range) ∧
    (k.state = .none → isReady s = true → k.mask ≠ 0 → k.mask >>> s.bring.active.toNat = 0 →
      (∃ n, n ≠ m ∧ massifHolds (getMassif s n) = true ∧ (getMassif s n).members &&& k.mask ≠ 0) → gives (.create m) .overlap) ∧
    (k.state = .none → gives (.teardown m) .badState ∧ (bringingUp s = false → s.err.fatal = false → gives (.massifReset m) .badState)) ∧
    gives (.massifBadCmd m) .badCmd ∧
    (k.state = .creating → ∃ t, exec (.createDone m) s = .next t ∧ (getMassif t m).state = .active ∧ (getMassif t m).result = .ok))

/-- CREATE_DONE, MASSIF_RESET_DONE and TEARDOWN_FILL_DONE (R484, R487, R490): a massif created or reset is ACTIVE, its cores out of reset
while the die has no fatal error, and one created has its energy counters at 0; one reset with a teardown waiting goes on to that; one torn
down is gone, its members with it, and the teardown is counted. A command whose work is not done, or not in progress, changes nothing. -/
def Obligations.MassifCommandsComplete : Prop :=
  ∀ (m : Massif) (s : State), awake s = true →
    let k := getMassif s m
    (k.state = .creating → ∃ t, exec (.createDone m) s = .next t ∧ (getMassif t m).state = .active ∧ (getMassif t m).result = .ok ∧
      (getMassif t m).members = k.members ∧ (getMassif t m).energy = Vector.replicate 6 0 ∧
      (∀ c, getCore t c = (if s.err.fatal = false ∧ c ∈ massifCores s m then { getCore s c with presence := .on } else getCore s c))) ∧
    (k.state = .resetting → massifDrained s m = true → k.tearAfter = false → ∃ t, exec (.massifResetDone m) s = .next t ∧
      (getMassif t m).state = .active ∧ (getMassif t m).members = k.members ∧ (getSeq t m).state = .idle ∧
      (getSeq t m).checked = (getSeq s m).checked ∧ (getSeq t m).base = (getSeq s m).base ∧
      (∀ c ∈ massifCores s m, (s.err.fatal = false → (getCore t c).presence = .on) ∧ (getCore t c).mxe.cfg = [] ∧
        (getCore t c).vxe.vregs = [] ∧ (getCore t c).cairn.counts = [] ∧ (getCore t c).ledge.mem = (getCore s c).ledge.mem) ∧
      ∀ c, c ∉ massifCores s m → getCore t c = getCore s c) ∧
    (k.state = .resetting → massifDrained s m = true → k.tearAfter = true → ∃ t, exec (.massifResetDone m) s = .next t ∧
      (getMassif t m).state = .tearingDown ∧ (getMassif t m).members = k.members ∧ ∀ c ∈ massifCores s m, (getCore t c).presence = .reset) ∧
    (k.state ≠ .creating → exec (.createDone m) s = .next s) ∧
    (k.state ≠ .resetting ∨ massifDrained s m = false → exec (.massifResetDone m) s = .next s) ∧
    (k.state ≠ .tearingDown ∨ (k.filling = false ∧ massifDrained s m = false) → exec (.teardownFillDone m) s = .next s) ∧
    (k.state = .tearingDown → k.filling = true → ∃ t, exec (.teardownFillDone m) s = .next t ∧ (getMassif t m).state = .none ∧
      (getMassif t m).members = 0 ∧ t.bring.teardowns = satInc 16 s.bring.teardowns ∧
      (∀ c ∈ massifCores s m, (getCore t c).ledge.scrubbed = BitVec.allOnes 96 ∧ (getCore t c).presence = (getCore s c).presence) ∧
      ∀ c, c ∉ massifCores s m → getCore t c = getCore s c)

/-- MASSIF_RESET, TEARDOWN of an ACTIVE massif, and GO, a compute reset of a READY die (R487, R488, R490): the massif's sequencer is IDLE,
its FIFOs are empty and its cores in reset at once, and the massif waits for its drain; a compute reset does so to every ACTIVE massif, is
counted, and with no massif at all ends at once with the die-level fields cleared. A TEARDOWN during a massif reset waits for its end
(R494). A compute reset during bring-up is ignored and noted (R480); while one is in progress, or on a die that is not READY, it does
nothing. -/
def Obligations.ResetsStopMassifs : Prop :=
  ∀ s : State, awake s = true →
    let stopped (m : Massif) (t : State) : Prop := (getMassif t m).members = (getMassif s m).members ∧ (getSeq t m).state = .idle ∧
      (∀ p ∈ massifClus s m, (getClus t p).fifo = []) ∧ ∀ c ∈ massifCores s m, (getCore t c).presence = .reset
    (∀ m : Massif, (getMassif s m).state = .active → bringingUp s = false → s.err.fatal = false → ∃ t, exec (.massifReset m) s = .next t ∧
      (getMassif t m).state = .resetting ∧ stopped m t) ∧
    (∀ m : Massif, (getMassif s m).state = .active → ∃ t, exec (.teardown m) s = .next t ∧
      (getMassif t m).state = .tearingDown ∧ stopped m t) ∧
    (∀ m : Massif, (getMassif s m).state = .resetting → ∃ t, exec (.teardown m) s = .next t ∧
      getMassif t m = { getMassif s m with tearAfter := true } ∧ t.cores = s.cores ∧ ∀ n, n ≠ m → getMassif t n = getMassif s n) ∧
    (bringingUp s = false → isReady s = true → s.bring.compBusy = false → ∃ t, exec .go s = .next t ∧
      t.bring.compCount = satInc 16 s.bring.compCount ∧
      (∀ m, (getMassif s m).state = .active → (getMassif t m).state = .resetting ∧ (getMassif t m).inCompReset = true) ∧
      ((∀ m, (getMassif s m).state = .none) → t.bring.compBusy = false ∧ t.store.blocked = 0 ∧ t.err.trapValid = false ∧
        t.tc.entries = [] ∧ t.cores = s.cores)) ∧
    (bringingUp s = true → ∃ t, exec .go s = .next t ∧ t = { s with bring := { s.bring with ignoredReset := true } }) ∧
    (bringingUp s = false → isReady s = false ∨ s.bring.compBusy = true → exec .go s = .next s)

/-- The pins of power (R534, R535, R537): PORST_N asserted for 1 µs, a brown-out and the loss of VDD_AON reset every register and stop the
die; PORST_N released, and the recovery from a brown-out, start bring-up from the same state, with CROWN_N as it was sampled. Fuses stand
throughout; the TAP and the brown-out fields of ELEC_STAT stand but at the loss of VDD_AON; a pulse that is too short is ignored. A col that
the variant fuses off is OFF from the reset on (R9), one whose lanes the TAP has stays DOWN (R435), and every other is as after reset. A
release, or a recovery, of what is not asserted does nothing. A die that is held so has PWRGD_OUT and the AVSBus low, its lanes idle and
FAULT_N asserted, unless the TAP has the lanes; FAULT_N is released with PORST_N or at the recovery, the lanes idle still (R535, R544,
R545). The model's choices: that PORST_N keeps the brown-out fields, and that its release ends a state without VDD_AON (log entry 86). -/
def Obligations.PowerPins : Prop :=
  ∀ s : State,
    let isReset (t : State) : Prop := t = { State.reset with
      pending := s.pending, fuse := s.fuse, jtag := s.jtag, pins := t.pins, disc := t.disc, cols := t.cols
      pm := { State.reset.pm with boRail := t.pm.boRail, boValid := t.pm.boValid, boCount := t.pm.boCount } } ∧
      ∀ c : Col, getCol t c = (if (colMask s).getLsbD c.val = false then { ColSt.reset with state := .off, downCause := 1 }
        else if takesLanes s.jtag.ir then { ColSt.reset with downCause := 3 } else ColSt.reset)
    let keepsBo (t : State) : Prop := t.pm.boRail = s.pm.boRail ∧ t.pm.boValid = s.pm.boValid ∧ t.pm.boCount = s.pm.boCount
    let shows (t : State) (held : Bool) : Prop := pwrgdOut t = false ∧ avsRuns t = !held ∧
      (takesLanes t.jtag.ir = false → faultAsserted t = held ∧ ∀ c, laneDrive t c = .idle)
    (exec (.porstNAssert false) s = .next s) ∧
    (∃ t, exec (.porstNAssert true) s = .next t ∧ isReset t ∧ keepsBo t ∧ awake t = false ∧ shows t true ∧ t.disc = DiscSt.reset s.disc.crown) ∧
    (∀ n : Bool, s.pins.porst = true ∨ s.pins.aon = false → ∃ t, exec (.porstNRelease n) s = .next t ∧ isReset t ∧ keepsBo t ∧
      t.pins.porst = false ∧ t.pins.aon = true ∧ t.pins.crownN = n ∧ t.disc = DiscSt.reset (!n) ∧ t.bring.step = 1 ∧
      (s.pins.brownOut = false → shows t false)) ∧
    (∀ n : Bool, s.pins.porst = false → s.pins.aon = true → exec (.porstNRelease n) s = .next s) ∧
    (∀ n : Bool, s.pins.aon = false ∨ s.pins.brownOut = false → exec (.brownOutRecovery n) s = .next s) ∧
    (∀ rail : Fin 7, awake s = true → s.pins.pwrgd = true → ∃ t, exec (.brownOut rail) s = .next t ∧ isReset t ∧ awake t = false ∧
      shows t true ∧ t.pm.boRail = BitVec.ofNat 4 rail.val ∧ t.pm.boValid = true ∧ t.pm.boCount = satInc 16 s.pm.boCount) ∧
    (∀ rail : Fin 7, s.pins.pwrgd = false → exec (.brownOut rail) s = .next s) ∧
    (∀ n : Bool, s.pins.aon = true → s.pins.brownOut = true → ∃ t, exec (.brownOutRecovery n) s = .next t ∧ isReset t ∧ keepsBo t ∧
      t.pins.brownOut = false ∧ t.pins.crownN = n ∧ t.disc = DiscSt.reset (!n) ∧ t.bring.step = 1 ∧ (s.pins.porst = false → shows t false)) ∧
    (∃ t, exec .vddAonLoss s = .next t ∧ awake t = false ∧ shows t true ∧
      t = { State.reset with pending := s.pending, fuse := s.fuse, pins := t.pins } ∧ t.pins.aon = false)

/-- BRINGUP_STEP, of a step that no trip has paused (R463, R465, R466): RAILS needs every rail good and readback within 700 to 800 mV, FUSE
turns off the cols that the variant fuses off, SPINE those at disabled routers (R376), DISCOVERY needs discovery complete, WAVES needs every
candidate powered; each then goes on to the next, and stands until it can; a RAILS, FUSE or SPINE step that finds a failure stops bring-up
in FAILED with its code. LBIST, SRAM and CHAR work at one target after the other, each once every affected readback lies within 5 mV of it
(R467), and collect what they find; after the last target the step ends: a core under test that LBIST or the memory test finds bad has the
state of its failure (R468, R469), a failure of the die-level arrays under FULL ends bring-up in code 5, and CHAR writes the points of every
core under test and its derate 0 (R40, R471, R472), and fails those below the fused least rate (R473). A paused step stands (R480).
BRINGUP_STEP of REPAIR (R474..R476, R479): the die is READY, with its event; the active clusters are logical clusters 0 upward in ascending
order, each with the first 64 of its good cores, which are in reset with every ledge zero; every other core has no power; a powered core
that is not fused bad has in MXE_LANE_MAP the one failing latch that LBIST found of it, or none (R164). -/
def Obligations.Bringup : Prop :=
  (
  ∀ (f : StepFindings) (s : State), awake s = true → bringPaused s = false →
    let goes (n : BitVec 4) (t : State) : Prop := exec (.bringupStep f) s = .next t ∧ t.bring.step = n ∧ t.cores = s.cores
    let fails (n : BitVec 4) : Prop := ∃ t, exec (.bringupStep f) s = .next t ∧ t.bring.step = 0xB ∧ t.bring.fail = n ∧
      t.err.fatal = true ∧ t.err.cause = 1
    let due := (retarget s).pm.writes
    (s.bring.step = 1 → f.railBad = false → readbackUnknown s = false → due = [] → railsGood s = true → ∃ t, goes 2 t ∧ t.pins.pwrgd = true) ∧
    (s.bring.step = 1 → f.railBad = false → readbackUnknown s = false → due ≠ [] → ∃ t, goes 1 t ∧ t.pm.writes = due) ∧
    (s.bring.step = 2 → f.fuseBad = false → ∃ t, goes 3 t ∧
      ∀ c : Col, (getCol t c).state = (if (colMask s).getLsbD c.val then (getCol s c).state else .off)) ∧
    (s.bring.step = 3 → f.spineBad = false → routable (routersEnabled s f.routersBad) = true → ∃ t, goes 4 t ∧
      t.ridge.en = routersEnabled s f.routersBad ∧ t.ridge.routed = true ∧
      ∀ c : Col, t.ridge.en.getLsbD (colRouter c) = false → (getCol t c).state = .off) ∧
    (s.bring.step = 4 → s.disc.done = true → discFailed s = false → ∃ t, goes 5 t) ∧
    (s.bring.step = 5 → (candidates s).length ≤ 4 * s.bring.waves → ∃ t, goes 6 t) ∧
    ((s.bring.step = 4 → s.disc.done = false ∨ discFailed s = true) → (s.bring.step = 5 → 4 * s.bring.waves < (candidates s).length) →
      s.bring.step = 4 ∨ s.bring.step = 5 → exec (.bringupStep f) s = .next s) ∧
    (s.err.fatal = false →
      (s.bring.step = 1 → f.railBad = true ∨ readbackUnknown s = true ∨ (due = [] ∧ railsGood s = false) → fails 1) ∧
      (s.bring.step = 2 → f.fuseBad = true → fails 2) ∧
      (s.bring.step = 3 → f.spineBad = true ∨ routable (routersEnabled s f.routersBad) = false → fails 3))) ∧
  (
  ∀ (f : StepFindings) (s : State), awake s = true → bringPaused s = false →
    let b := s.bring
    let later := (stepTargets b.level b.step.toNat)[b.place + 1]?
    let store := b.storeBad ++ f.store
    let moves (t : State) : Prop := exec (.bringupStep f) s = .next t ∧ t.bring.step = b.step ∧ t.bring.place = b.place + 1 ∧ t.cores = s.cores ∧
      ∃ v, later = some v ∧ t.bring.sub = v.2
    let ends (t : State) : Prop := exec (.bringupStep f) s = .next t ∧ t.bring.step = b.step + 1 ∧ t.bring.place = 0
    -- the state that a core under test is left with
    let finds (found : CoreId → Option CoreState) (t : State) : Prop := ∀ c, coreFound t c =
      if underTest s c then (found c).getD (coreFound s c) else coreFound s c
    ((b.step = 6 ∨ b.step = 7 ∨ b.step = 8 ∨ b.step = 9) ∧ atTarget s = false ∨ (b.step = 8 ∧ charsDone s = false) →
      exec (.bringupStep f) s = .next s) ∧
    (atTarget s = true → b.step = 6 →
      (later.isSome = true → ∃ t, moves t ∧ t.bring.lbist = b.lbist ++ f.lbist ∧ t.bring.storeBad = store) ∧
      (later = none → ∃ t, ends t ∧ t.bring.lbist = b.lbist ++ f.lbist ∧ finds (fun c => (lbistState (b.lbist ++ f.lbist) c).1) t ∧
        ∀ p ∈ store, (getClus s p).repair.powered = true → (getClus t p).repair.clusDis = true)) ∧
    (atTarget s = true → b.step = 7 → (f.spineSram = false ∨ b.level ≠ 0) →
      (later.isSome = true → ∃ t, moves t ∧ t.bring.sramBad = b.sramBad ++ f.sram ∧ t.bring.storeBad = store) ∧
      (later = none → ∃ t, ends t ∧ finds (fun c => if c ∈ b.sramBad ++ f.sram then some .failedSram else none) t ∧
        ∀ p ∈ store, (getClus s p).repair.powered = true → (getClus t p).repair.clusDis = true)) ∧
    (atTarget s = true → b.step = 7 → f.spineSram = true → b.level = 0 → s.err.fatal = false → ∃ t, exec (.bringupStep f) s = .next t ∧
      t.bring.step = 0xB ∧ t.bring.fail = 5 ∧ ∀ p, (getClus t p).repair.powered = false) ∧
    (atTarget s = true → b.step = 8 → charsDone s = true →
      (later.isSome = true → ∃ t, moves t ∧ t.bring.points = b.points) ∧
      (later = none → ∃ t, ends t ∧
        finds (fun c => if ((charCeils s c).get 2).toNat < s.fuse.charMin.toNat then some .failedSpeed else none) t ∧
        ∀ c, getCore t c = (if underTest s c then { getCore s c with issue := { (getCore s c).issue with
          charCeil := charCeils s c, ageDerate := 0 } } else getCore s c)))) ∧
  (
  ∀ (f : StepFindings) (s : State), bringPaused s = true → exec (.bringupStep f) s = .next s) ∧
  (
  ∀ (f : StepFindings) (s : State), awake s = true → s.bring.step = 9 → bringPaused s = false → atTarget s = true →
    ∃ t, exec (.bringupStep f) s = .next t ∧ isReady t = true ∧ t.bring.readyEvent = true ∧
      (smGet Evt.reset t.evts 0xF).pending = true ∧
      (∀ (l : Fin 40) (p : PClus), (activeClusters s)[l.val]? = some p → t.bring.lmap.get l = BitVec.ofNat 6 p.val) ∧
      (∀ l : Fin 40, (activeClusters s).length ≤ l.val → t.bring.lmap.get l = 63) ∧
      (∀ p : PClus, (getClus t p).repair.state = clusFinal s p ∧
        (getClus t p).repair.powered = (activeClusters s).contains p ∧
        ∀ q : PCore, (getCore t ⟨p, q⟩).presence = (if (activeFinal s p).contains q then .reset else .off) ∧
          (getCore t ⟨p, q⟩).ledge.mem = [] ∧ (getCore t ⟨p, q⟩).issue.charCeil = (getCore s ⟨p, q⟩).issue.charCeil ∧
          ((getClus s p).repair.powered = true → fusedBad s ⟨p, q⟩ = false →
            let l := (lbistState s.bring.lbist ⟨p, q⟩).2
            (getCore t ⟨p, q⟩).mxe.laneValid = l.isSome ∧ ∀ k, l = some k →
              (getCore t ⟨p, q⟩).mxe.laneColumn = k.1 ∧ (getCore t ⟨p, q⟩).mxe.laneBit = k.2)))

/-- WAVE and CHARACTERISATION_RUN (R466, R471): a wave closes the power switches of the next four candidates, whose cores that are not fused
bad are held in reset, the first at once and each later one once the readbacks have settled. A run, at the step's present voltage once that
has been reached (R467), counts when it is at the rate under search, halfway between the best of 250 to 2,600 that has passed and the lowest
that has failed, for at most 12 steps; three correct runs in a row pass a rate, a wrong one or eight in a row that a droop discards fail it;
a point's temperature is that of its first run. How the bisection rounds and when it ends are the model's choices (log entry 35), and so is
how many clusters one WAVE takes (log entry 102). REBRING (R464) starts a warm bring-up of a READY die with no massif at step WAVES, with
every core without power; it is refused otherwise, and changes nothing else. -/
def Obligations.WavesRunsAndRebring : Prop :=
  ∀ s : State, awake s = true →
    (let next := ((candidates s).drop (4 * s.bring.waves)).take 4;
      (s.bring.step = 5 → bringPaused s = false → s.bring.waves = 0 ∨ readbacksNear s = true → next ≠ [] →
        ∃ t, exec .wave s = .next t ∧ t.bring.waves = s.bring.waves + 1 ∧ t.bring.sub = BitVec.ofNat 4 s.bring.waves ∧
        ∀ p : PClus, (p ∈ next → (getClus t p).repair.powered = true ∧
            ∀ q : PCore, fusedBad s ⟨p, q⟩ = false → (getCore t ⟨p, q⟩).presence = .reset) ∧
          (p ∉ next → getClus t p = getClus s p ∧ ∀ q : PCore, getCore t ⟨p, q⟩ = getCore s ⟨p, q⟩)) ∧
      (s.bring.step ≠ 5 ∨ bringPaused s = true ∨ next = [] ∨ (s.bring.waves ≠ 0 ∧ readbacksNear s = false) → exec .wave s = .next s)) ∧
    (∀ (c : CoreId) (v : Fin 4) (rate : BitVec 12) (o : CharOutcome),
      let key := pointKey c v.val
      let k := smGet CharPoint.reset s.bring.points key
      let k0 := if s.bring.points.any (fun e => e.1 == key) then k else { k with temp := quadTemp s (quadOf c.clus.val) }
      let here := s.bring.step = 8 ∧ bringPaused s = false ∧ underTest s c = true ∧ v.val = s.bring.place ∧ atTarget s = true
      let mid := (max k.best 249 + k.worst) / 2
      let inSearch := k.steps < 12 ∧ max k.best 249 + 1 < k.worst ∧ rate.toNat = mid
      let gives (k' : CharPoint) : Prop := ∃ t, exec (.characterisationRun c v rate o) s = .next t ∧
        t = { s with bring := { s.bring with points := t.bring.points }, pm := { s.pm with stamps := t.pm.stamps } } ∧
        smGet CharPoint.reset t.bring.points key = k' ∧
        ∀ n, n ≠ key → smGet CharPoint.reset t.bring.points n = smGet CharPoint.reset s.bring.points n
      let failed : CharPoint := { k0 with worst := mid, passes := 0, discards := 0, steps := k.steps + 1 }
      (here → inSearch →
        (o = .correct → k.passes < 2 → gives { k0 with passes := k.passes + 1, discards := 0 }) ∧
        (o = .correct → 2 ≤ k.passes → gives { k0 with best := mid, passes := 0, discards := 0, steps := k.steps + 1 }) ∧
        (o = .wrong → gives failed) ∧
        (o = .droop → k.discards < 7 → gives { k0 with discards := k.discards + 1 }) ∧
        (o = .droop → 7 ≤ k.discards → gives failed)) ∧
      (¬here ∨ ¬inSearch → exec (.characterisationRun c v rate o) s = .next s)) ∧
    (isReady s = true → (∀ m, (getMassif s m).state = .none) → ∃ t, exec .rebring s = .next t ∧ t.bring.step = 5 ∧ t.bring.warm = true ∧
      t.bring.waves = 0 ∧ t.bring.level = (if s.bring.ctlLevel = 1 then 1 else 0) ∧ (∀ p, (getClus t p).repair.powered = false) ∧
      ∀ c, (getCore t c).presence = .off) ∧
    (isReady s = false ∨ (∃ m, (getMassif s m).state ≠ .none) →
      exec .rebring s = .next { s with bring := { s.bring with refused := true } })

/-- PACE_RECALIBRATE takes the timebase at which a core's delay line was measured (R38); AGE_DERATE_STEP adds one step to the core's derate,
up to 255 (R40). A WINDOW_MARK at a point that has not seen the present window closes the counts of the one before, which the point sends to
the power manager (R440); at the die-level port it takes the window's number too, and the quadrants' flags turn over (R439; that both go
with this mark is the model's choice, log entries 80 and 82); one at a point that has seen it changes nothing. RAIL_SAMPLE takes every
quadrant's latest readback (R438). -/
def Obligations.PacingWindowsAndRails : Prop :=
  ∀ s : State, awake s = true →
    (∀ c : CoreId, ∃ t, exec (.paceRecalibrate c) s = .next t ∧ OnlyCore c s t ∧
      getCore t c = { getCore s c with issue := { (getCore s c).issue with paceCal := s.tb.count } }) ∧
    (∀ c : CoreId, ∃ t, exec (.ageDerateStep c) s = .next t ∧ OnlyCore c s t ∧
      (getCore t c).issue.ageDerate.toNat = min ((getCore s c).issue.ageDerate.toNat + 1) 255 ∧
      getCore t c = { getCore s c with issue := { (getCore s c).issue with ageDerate := (getCore t c).issue.ageDerate } }) ∧
    (∀ pt : StampPoint,
      let stamp (u : State) (n : Nat) : StampSt := smGet StampSt.reset u.pm.stamps n
      ((stamp s pt.val).window = windowNow s → exec (.windowMark pt) s = .next s) ∧
      ((stamp s pt.val).window ≠ windowNow s → ∃ t, exec (.windowMark pt) s = .next t ∧
        Carried { s with pm := t.pm } t ∧
        (stamp t pt.val).window = windowNow s ∧ (stamp t pt.val).last = (stamp s pt.val).cur ∧
        (∀ n, n ≠ pt.val → (stamp t n).window = (stamp s n).window ∧ (stamp t n).last = (stamp s n).last) ∧
        (pt.val = 100 → (stamp t pt.val).cur = [] ∧ t = { s with pm := t.pm } ∧ t.pm.label = s.tb.count.toNat / 4096 ∧
          t.pm.labelLast = s.pm.label ∧ ∀ q, t.pm.quads.get q = { s.pm.quads.get q with
            changedLast := (s.pm.quads.get q).changed, changed := false, crossedLast := (s.pm.quads.get q).crossed, crossed := false }) ∧
        (pt.val ≠ 100 → t.pm = { s.pm with stamps := t.pm.stamps }))) ∧
    (∃ t, exec .railSample s = .next t ∧ t = { s with pm := { s.pm with quads := t.pm.quads } } ∧
      ∀ q, t.pm.quads.get q = { s.pm.quads.get q with readback := (s.pm.quads.get q).latest })

/-- PUBLISH_WINDOW, once every stamping point has reported (R441): the window's estimate and its number are published (R439, R443), every
energy counter advances by the window's share (R459). After bring-up, while no target changed in it, a window above an enabled cap sets
OVER_CAP (R446), and a quadrant takes one thermal notch more at or above THROT, voltage before pace, one less below THROT - HYST, pace
before voltage, and none between (R456); in bring-up it takes none (R480). Before every point has reported the command does nothing. -/
def Obligations.WindowsArePublished : Prop :=
  ∀ s : State, awake s = true →
    (canPublish s = false → exec .publishWindow s = .next s) ∧
    (canPublish s = true → ∃ t, exec .publishWindow s = .next t ∧
      t.pm.published = windowNow s ∧ t.pm.windowValid = true ∧ t.pm.window = BitVec.ofNat 48 s.pm.labelLast ∧
      t.pm.power = powerWord (estimate s) ∧ (∀ c, SameCore (getCore s c) (getCore t c)) ∧
      (∀ (m : Massif) (n : Fin 6), (getMassif t m).energyInc.get n = massifShare s m n ∧
        (getMassif t m).energy.get n = energyWrap ((getMassif s m).energy.get n + massifShare s m n)) ∧
      (bringingUp s = false → s.pm.capEn = true → (∀ q, (s.pm.quads.get q).changedLast = false) →
        capWatts s * wattUnits < (estimate s).total → t.pm.overCap = true) ∧
      ∀ q : Fin 4, let a := s.pm.quads.get q; let b := t.pm.quads.get q
        (bringingUp s = true → b.thermV = a.thermV ∧ b.thermPace = a.thermPace) ∧
        (bringingUp s = false → tempCode (throtAct s) ≤ quadTemp s q →
          (550 < quadDemand s q - 5 * (a.thermV : Int) → b.thermV = a.thermV + 1 ∧ b.thermPace = a.thermPace) ∧
          (quadDemand s q - 5 * (a.thermV : Int) ≤ 550 → b.thermV = a.thermV ∧ b.thermPace = max 1 (a.thermPace - 1))) ∧
        (bringingUp s = false → quadTemp s q < tempCode (throtAct s - hystAct s) →
          (a.thermPace < 32 → b.thermV = a.thermV ∧ b.thermPace = a.thermPace + 1) ∧
          (32 ≤ a.thermPace → b.thermV = a.thermV - 1 ∧ b.thermPace = a.thermPace)) ∧
        (quadTemp s q < tempCode (throtAct s) → tempCode (throtAct s - hystAct s) ≤ quadTemp s q →
          b.thermV = a.thermV ∧ b.thermPace = a.thermPace))

/-- SENSOR_SAMPLE: the readings are taken, a reading out of range excludes its sensor for good (R455), and a sensor at or above TRIP in two
samples in a row trips the die: every target falls to 550 mV and every core's effective ceiling to 0 (R457), the last ceiling above 0
standing for it in due times (R307); a trip in a step that powers or tests clusters starts that step again (R480). TRIP_CLEAR ends a trip
once no quadrant is at or above WARN, and has no effect before (R458). -/
def Obligations.TripsAct : Prop :=
  ∀ s : State, awake s = true →
    (∀ v : Vector (BitVec 10) 64,
      let trips := s.therm.tripped = false ∧ ∃ i : Fin 64, s.therm.atTrip.getLsbD i = true ∧ s.therm.failed.getLsbD i = false ∧
        (v.get i).toNat ≤ 856 ∧ 96 ≤ (v.get i).toNat ∧ tempCode (tripAct s) ≤ (v.get i).toNat
      ∃ t, exec (.sensorSample v) s = .next t ∧ t.therm.temps = v ∧ t.bring.step = s.bring.step ∧
      (∀ i : Fin 64, t.therm.failed.getLsbD i = (s.therm.failed.getLsbD i || decide ((v.get i).toNat < 96) || decide (856 < (v.get i).toNat)) ∧
        t.therm.atTrip.getLsbD i = (!t.therm.failed.getLsbD i && decide (tempCode (tripAct s) ≤ (v.get i).toNat))) ∧
      (trips → t.therm.tripped = true ∧ t.therm.tripSeen = true ∧ t.therm.tripCount = satInc 8 s.therm.tripCount ∧
        (smGet Evt.reset t.evts 0xE).pending = true ∧ (∀ q, (t.pm.quads.get q).target = 550) ∧ (∀ c, effective t c = 0) ∧
        (tripStops s = false → t.bring = s.bring ∧ ∀ m, ∀ c ∈ massifCores s m, effective s c ≠ 0 → (getCore t c).xfer.dlCeil = effective s c) ∧
        (tripStops s = true → t.bring.place = 0 ∧ t.bring.points = [] ∧ t.bring.sub = 0 ∧
          (s.bring.step = 5 → t.bring.waves = 0 ∧ ∀ p, (getClus t p).repair.powered = false))) ∧
      (¬trips → t = { s with therm := t.therm, evts := t.evts } ∧ t.therm.tripped = s.therm.tripped)) ∧
    (s.therm.tripped = true → warnNow s = false → ∃ t, exec .tripClear s = .next t ∧ t.therm = { s.therm with tripped := false } ∧
      t = { s with therm := t.therm, pm := t.pm } ∧ ∀ q, (t.pm.quads.get q).target = BitVec.ofNat 10 (quadTarget t q)) ∧
    (s.therm.tripped = false ∨ warnNow s = true → exec .tripClear s = .next s)

/-- HINT_RECOMPUTE (R449): every hint's times follow its beats, and every target its rule (R450). AVS_FRAME (R539, R540): one frame and one
slot more, and a read slot, good or failed, gives the next one to the next quadrant; a good frame ends its quadrant's run of failures, a
Voltage read gives the latest readback, and a target change that was sent is waiting no longer; a third failure in a row fails the rail,
with its event. That targets are brought up to date before the slot is taken is the model's choice (log entry 85), and so is that a crossing
while the clamp is active keeps the base (log entry 84). DROOP_CROSSING in a powered cluster (R452): the clamp is active at its first step,
the crossing is counted, and each core keeps half of the effective ceiling that it had; CLAMP_STEP goes to the next step, and ends the clamp
after the fourth (R453). -/
def Obligations.HintsAvsFramesAndDroop : Prop :=
  (
  ∀ s : State, awake s = true →
    (∃ t, exec .hintRecompute s = .next t ∧ t.cores = s.cores ∧ t.net = s.net ∧
      (∀ m : Massif, getMassif t m = getMassif s m ∧
        getSeq t m = { getSeq s m with hints := (getSeq t m).hints } ∧
        (getSeq t m).hints.map (fun h => (h.cls, h.b0, h.b1)) = (getSeq s m).hints.map (fun h => (h.cls, h.b0, h.b1)) ∧
        ∀ h ∈ (getSeq t m).hints, h.ts = hintTime s m h.b0 ∧ h.te = hintTime s m h.b1) ∧
      ∀ q, (t.pm.quads.get q).target = BitVec.ofNat 10 (quadTarget t q)) ∧
    (∀ r : AvsReply, ∃ t, exec (.avsFrame r) s = .next t ∧ t.pm.frames = s.pm.frames + 1 ∧ t.pm.slot = s.pm.slot + 1 ∧ t.cores = s.cores ∧
      let q := avsQuad (avsNow (retarget s))
      (∀ mv, r = .good mv → (t.pm.quads.get q).failed = 0 ∧ (t.pm.quads.get q).railFail = false) ∧
      (s.pm.slot.toNat % 2 = 0 → q = s.pm.readQ ∧ t.pm.readQ = q + 1) ∧
      (∀ mv, r = .good mv → s.pm.slot.toNat % 2 = 0 → (t.pm.quads.get q).latest = mv ∧ t.pm.writes = (retarget s).pm.writes) ∧
      (∀ mv w l, r = .good mv → s.pm.slot.toNat % 2 ≠ 0 → (retarget s).pm.writes = w :: l → t.pm.writes = l) ∧
      (r = .failed → (t.pm.quads.get q).failed = (s.pm.quads.get q).failed + 1 ∧ t.pm.writes = (retarget s).pm.writes ∧
        t.pm.failedFrames = satInc 16 s.pm.failedFrames ∧
        ((s.pm.quads.get q).failed = 2 → (t.pm.quads.get q).railFail = true ∧ (smGet Evt.reset t.evts 0xD).pending = true)))) ∧
  (
  ∀ (p : PClus) (s : State), awake s = true →
    ((getClus s p).repair.powered = true → ∃ t, exec (.droopCrossing p) s = .next t ∧ t.cores = s.cores ∧
      (∀ r, r ≠ p → getClus t r = getClus s r) ∧
      (getClus t p).droopActive = true ∧ (getClus t p).droopStep = 0 ∧ (getClus t p).droopCount = satInc 32 (getClus s p).droopCount ∧
      (getClus t p).droopSince = s.tb.count ∧ (getClus t p).fifo = (getClus s p).fifo ∧ (getClus t p).held = (getClus s p).held ∧
      (∀ q : PCore, (getClus s p).droopActive = false → smGet 0 (getClus t p).droopBase q.val = effective s ⟨p, q⟩) ∧
      ((getClus s p).droopActive = true → (getClus t p).droopBase = (getClus s p).droopBase)) ∧
    ((getClus s p).repair.powered = false → exec (.droopCrossing p) s = .next s) ∧
    (∃ t, exec (.clampStep p) s = .next t ∧ t = { s with clusters := t.clusters } ∧ (∀ r, r ≠ p → getClus t r = getClus s r) ∧
      ((getClus s p).droopActive = true → (getClus s p).droopStep.toNat < 3 →
        getClus t p = { getClus s p with droopStep := (getClus s p).droopStep + 1 }) ∧
      ((getClus s p).droopActive = true → 3 ≤ (getClus s p).droopStep.toNat →
        getClus t p = { getClus s p with droopActive := false, droopStep := 0, droopBase := [] }) ∧
      ((getClus s p).droopActive = false → getClus t p = getClus s p)))

/-- SPINE_PARITY (R495, R508): in a translation entry it drops the entries that cover the address, and is counted; in any other unit of the
spine it is a fatal error of cause 3 that names the unit, every core is out of service, and the die has FAILED; after a fatal error another
changes nothing (the model's choice, log entry 71). ERR_NOTIFY (R509) records the first partner's error and raises its event.
EVENT_NOTIFICATION (R526) follows the summaries; when they rise with EN = 1 it sends one register write, if it has a way, and nothing
otherwise (that only one that is sent counts is the model's choice, log entry 95). TRAP_FORWARD (R238): a core's trap record reaches the
summaries of its cluster and of the die once: the first fills each and raises its event, every later one sets MULTIPLE; the record itself
stands. Where the way to the die-level port is lost, the die's summary stands (R376, R508; log entry 121). With no record, or one that has
been forwarded, nothing changes. -/
def Obligations.ErrorsAreReported : Prop :=
  (
  ∀ s : State, awake s = true →
    (∀ (m : Massif) (va : BitVec 48),
      (s.tc.entries.any (fun e => tcCovers e m va.toNat) = true →
        ∃ t, exec (.spineParity (.translation m va)) s = .next t ∧ t = { s with tc := t.tc, err := { s.err with tcParity := satInc 16 s.err.tcParity } } ∧
          t.tc = { s.tc with entries := s.tc.entries.filter (fun e => !tcCovers e m va.toNat) }) ∧
      (s.tc.entries.any (fun e => tcCovers e m va.toNat) = false → exec (.spineParity (.translation m va)) s = .next s)) ∧
    (s.err.fatal = false → ∀ (u : SpineUnit) (n : BitVec 4), (∃ r, u = .routeTable r ∧ n = 2) ∨
      (u, n) ∈ [(SpineUnit.registerResponder, 3), (.summitUnit, 4), (.trackerEntries, 5), (.readTagPool, 6), (.powerManager, 7)] →
      ∃ t, exec (.spineParity u) s = .next t ∧ t.err.fatal = true ∧ t.err.cause = 3 ∧ t.err.unit = n ∧ t.err.pclus = 63 ∧
        t.err.time = s.tb.count ∧ t.bring.step = 0xB ∧ ∀ m, ∀ c ∈ massifCores s m, (getCore t c).presence ≠ .on) ∧
    (s.err.fatal = false → ∀ p : PClus, ∃ t, exec (.spineParity (.router p)) s = .next t ∧ t.err.fatal = true ∧ t.err.cause = 3 ∧
      t.err.unit = 1 ∧ t.err.pclus = BitVec.ofNat 6 p.val ∧ t.bring.step = 0xB) ∧
    (s.err.fatal = true → ∀ u : SpineUnit, (∀ m va, u ≠ .translation m va) → exec (.spineParity u) s = .next s) ∧
    (∀ (serial : BitVec 56) (cause : BitVec 4), ∃ t, exec (.errNotify serial cause) s = .next t ∧
      (smGet Evt.reset t.evts 2).pending = true ∧ t = { s with evts := t.evts, err := t.err } ∧
      (s.err.partnerValid = false → t.err = { s.err with partnerSerial := serial, partnerCause := cause, partnerValid := true }) ∧
      (s.err.partnerValid = true → t.err = s.err)) ∧
    (let way := (egressCol s s.ident.notifyDst 4 diePort 0).filter (fun c => !crossesFailed s diePort (colRouter c));
      ∃ t, exec .eventNotification s = .next t ∧ t.ident.any = evtAny s ∧ (∀ c, SameCore (getCore s c) (getCore t c)) ∧ t.evts = s.evts ∧
      (evtAny s = false ∨ s.ident.any = true ∨ s.ident.notifyEn = false ∨ 12 ≤ s.ident.notifyDst.toNat →
        t = { s with ident := { s.ident with any := evtAny s } }) ∧
      (evtAny s = true → s.ident.any = false → s.ident.notifyEn = true → s.ident.notifyDst.toNat < 12 →
        (way.isSome = true → t.ident.sent = satInc 16 s.ident.sent) ∧ (way = none → t.ident.sent = s.ident.sent)))) ∧
  (
  (∀ (c : CoreId) (s : State), awake s = true → (getCore s c).trap.valid = true → (getCore s c).trap.toForward = true →
    let k := getClus s c.clus
    ∃ t, exec (.trapForward c) s = .next t ∧
      SameCore { getCore s c with trap := { (getCore s c).trap with toForward := false } } (getCore t c) ∧
      (∀ d, d ≠ c → SameCore (getCore s d) (getCore t d)) ∧ (crossesFailed s c.clus.val diePort = true → t.err = s.err) ∧
      (k.trapValid = false → (getClus t c.clus).trapValid = true ∧ (getClus t c.clus).trapCause = (getCore s c).trap.cause ∧
        (getClus t c.clus).trapEngine = (getCore s c).trap.engine ∧ (getClus t c.clus).trapCore = BitVec.ofNat 7 c.core.val ∧
        (getClus t c.clus).trapStamp = s.tb.count ∧ (smGet Evt.reset t.evts (pageClus c.clus)).pending = true) ∧
      (k.trapValid = true → (getClus t c.clus).trapMultiple = true ∧ (getClus t c.clus).trapCause = k.trapCause) ∧
      (crossesFailed s c.clus.val diePort = false → s.err.trapValid = false → t.err.trapValid = true ∧ t.err.trapCause = (getCore s c).trap.cause ∧
        t.err.trapEngine = (getCore s c).trap.engine ∧ t.err.trapCore = BitVec.ofNat 7 c.core.val ∧ t.err.trapClus = BitVec.ofNat 6 c.clus.val ∧ t.err.trapStamp = s.tb.count ∧ (smGet Evt.reset t.evts 2).pending = true) ∧
      (crossesFailed s c.clus.val diePort = false → s.err.trapValid = true → t.err.trapMultiple = true ∧ t.err.trapCause = s.err.trapCause)) ∧
  ∀ (c : CoreId) (s : State), (getCore s c).trap.valid = false ∨ (getCore s c).trap.toForward = false → exec (.trapForward c) s = .next s)

/-- The clock tree's commands. An offer send puts this die's hop count and crown serial on every col that is on (R413); an offer of this
vendor is held, and opens the window of the choice; one of hop count 15 on the clock col, or a failed clock, ends what that col gave: a
locked die enters holdover (R414, R415, R417), one not yet locked to it chooses again (the model's choice, log entry 78); at the window's
end the best offer's col becomes the clock col, is asked for its clock, and the one before is released; a request is held and answered by
RCK unless it is the own clock col, and a release ends it; one of another vendor, or with fields that are not 0, is ignored (R415); in
holdover a new choice may follow (R417); a die that locks to REFCLK is aligned with hop count 0, and one that locks with discovery done
aligns (R424; before its first alignment too, log entries 53 and 78). -/
def Obligations.ClockTreeCommands : Prop :=
  ∀ s : State, awake s = true →
    let gone (c : Col) (i : Instr) : Prop := ∃ t, exec i s = .next t ∧ t = { s with cols := t.cols, tb := t.tb, disc := t.disc } ∧
      getCol t c = { getCol s c with offer := none } ∧ (∀ d, d ≠ c → getCol t d = getCol s d) ∧
      (parentCol s = some c → s.tb.locked = true → t.tb = { s.tb with locked := false, aligned := false, lockLost := true } ∧
        t.disc = { s.disc with holdover := true, hop := 15, t1 := none, exchanges := 0, best := none }) ∧
      (parentCol s = some c → s.tb.locked = false → s.disc.hop ≠ 15 → t.tb = s.tb ∧ t.disc = (if s.disc.holdover then { s.disc with hop := 15 }
        else { s.disc with hop := 15, oldCol := some c, window := (bestOffer t).isSome })) ∧
      (parentCol s ≠ some c ∨ (s.tb.locked = false ∧ s.disc.hop = 15) → t.tb = s.tb ∧ t.disc = s.disc)
    (∃ t, exec .clockOfferSend s = .next t ∧ t = { s with cols := t.cols } ∧
      ∀ c, getCol t c = if colOn s c then { getCol s c with side := (getCol s c).side ++ [.offer (offeredHop s) s.disc.crownSerial] } else getCol s c) ∧
    (∀ (c : Col) (v : BitVec 16) (h : BitVec 4) (sn : BitVec 56), v ≠ 0x1D7A ∨ colOn s c = false → exec (.clockOffer c v h sn) s = .next s) ∧
    (∀ (c : Col) (h : BitVec 4) (sn : BitVec 56), colOn s c = true → h ≠ 15 → twoCrowns s sn = false →
      ∃ t, exec (.clockOffer c 0x1D7A h sn) s = .next t ∧ getCol t c = { getCol s c with offer := some (h, sn) } ∧
        (∀ d, d ≠ c → getCol t d = getCol s d) ∧
        t = { s with cols := t.cols, disc := { s.disc with window := s.disc.window || awaitsOffer s } }) ∧
    (∀ (c : Col) (sn : BitVec 56), colOn s c = true → gone c (.clockOffer c 0x1D7A 15 sn)) ∧
    (∀ (c : Col) (h : BitVec 4) (sn : BitVec 56), s.disc.window = true → bestOffer s = some (c, h, sn) →
      ∃ t, exec .clockColChoice s = .next t ∧ t = { s with cols := t.cols, disc := { s.disc with
          window := false, clockCol := some c, hop := h, crownSerial := sn, depth := BitVec.ofNat 3 (h.toNat + 1), oldCol := none } } ∧
        getCol t c = { getCol s c with side := (getCol s c).side ++ [.req] } ∧
        ∀ d, d ≠ c → getCol t d = if s.disc.oldCol = some d then { getCol s d with side := (getCol s d).side ++ [.release] } else getCol s d) ∧
    (s.disc.window = true → bestOffer s = none → exec .clockColChoice s = .next { s with disc := { s.disc with window := false } }) ∧
    (s.disc.window = false → exec .clockColChoice s = .next s) ∧
    (∀ c : Col, colOn s c = true → ∃ t, exec (.clockReq c 0x1D7A true) s = .next t ∧ t = { s with cols := t.cols } ∧
      (∀ d, d ≠ c → getCol t d = getCol s d) ∧
      getCol t c = { getCol s c with reqHeld := true, drivesRck := decide (s.disc.clockCol ≠ some c) }) ∧
    (∀ (c : Col) (v : BitVec 16) (z : Bool), v ≠ 0x1D7A ∨ z = false ∨ colOn s c = false → exec (.clockReq c v z) s = .next s) ∧
    (∀ c : Col, ∃ t, exec (.clockRelease c 0x1D7A true) s = .next t ∧ t = { s with cols := t.cols } ∧
      (∀ d, d ≠ c → getCol t d = getCol s d) ∧ getCol t c = { getCol s c with reqHeld := false, drivesRck := false }) ∧
    (∀ (c : Col) (v : BitVec 16) (z : Bool), v ≠ 0x1D7A ∨ z = false → exec (.clockRelease c v z) s = .next s) ∧
    (∀ c : Col, parentCol s = some c → gone c .clockFail) ∧
    (parentCol s = none → exec .clockFail s = .next s) ∧
    (s.disc.holdover = true → s.disc.oldCol = none → s.tb.locked = false → s.disc.hop = 15 → ∃ t, exec .holdoverRechoose s = .next t ∧
      t = { s with disc := { s.disc with oldCol := s.disc.clockCol, window := s.disc.window || (bestOffer s).isSome } }) ∧
    (s.disc.holdover = false ∨ s.disc.oldCol ≠ none ∨ s.tb.locked = true ∨ s.disc.hop ≠ 15 → exec .holdoverRechoose s = .next s) ∧
    (s.tb.locked = false → s.disc.oldCol = none → s.disc.window = false → s.disc.crown = true → ∃ t, exec .referenceLock s = .next t ∧
      t = { s with tb := { s.tb with locked := true, aligned := true }, disc := { s.disc with hop := 0, crownSerial := s.fuse.serial, holdover := false } }) ∧
    (s.tb.locked = false → s.disc.oldCol = none → s.disc.window = false → s.disc.crown = false → s.disc.hop ≠ 15 →
      ∀ p, s.disc.clockCol = some p →
      (s.disc.done = false →
        exec .referenceLock s = .next { s with tb := { s.tb with locked := true }, disc := { s.disc with holdover := false } }) ∧
      (s.disc.done = true → ∃ t, exec .referenceLock s = .next t ∧ Linked { s with
          tb := { s.tb with locked := true }, disc := { s.disc with holdover := false, exchanges := 0, best := none } } t ∧
        Sent s t p (.disc (.alignReq s.tb.count)) 0 0 ∧
        (colLive (getCol s p) = true → (getCol s p).egress = [] → 2 ≤ (getCol s p).credits.get 4 → t.disc.t1 = some s.tb.count))) ∧
    (s.tb.locked = true ∨ s.disc.oldCol ≠ none ∨ s.disc.window = true ∨ (s.disc.crown = false ∧ (s.disc.clockCol = none ∨ s.disc.hop = 15)) →
      exec .referenceLock s = .next s)

/-- Failures of discovery (R416, R417, R423): no offer in time is result 3, or 7 in holdover; a second crown is 4; discovery that is not
complete in time is 8; a FAIL received is the code it carries, and one with another code is ignored. Each is recorded once, and ends
bring-up in FAILED, or is a fatal error of cause 2 after it. -/
def Obligations.DiscoveryFailures : Prop :=
  ∀ s : State, awake s = true →
    (discFailed s = false → s.err.fatal = false →
    let fails (i : Instr) (n : BitVec 4) : Prop := ∃ t, exec i s = .next t ∧ t.disc.result = n ∧ t.err.fatal = true ∧ t.bring.step = 0xB ∧
      t.err.cause = (if bringingUp s then 1 else 2) ∧ (bringingUp s = true → t.bring.fail = 4 ∧ ∀ p, (getClus t p).repair.powered = false)
    (s.disc.crown = false → s.tb.locked = false → s.disc.window = false → bestOffer s = none →
      (s.disc.holdover = true → fails .clockTimeout 7) ∧ (s.disc.holdover = false → s.disc.clockCol = none → fails .clockTimeout 3)) ∧
    (∀ (c : Col) (h : BitVec 4) (sn : BitVec 56), colOn s c = true → h ≠ 15 → twoCrowns s sn = true → fails (.clockOffer c 0x1D7A h sn) 4) ∧
    (s.disc.done = false → fails .discoveryTimeout 8) ∧
    (∀ (c : Col) (h : MsgHdr) (code : BitVec 4), Arrives s c h (.disc (.fail code)) → 3 ≤ code.toNat → code.toNat ≤ 8 →
      fails (.fail c h code) code)) ∧
    (s.disc.crown = true ∨ s.tb.locked = true ∨ s.disc.window = true ∨ (bestOffer s).isSome = true ∨ discFailed s = true →
      exec .clockTimeout s = .next s) ∧
    (∀ (c : Col) (h : MsgHdr) (code : BitVec 4), Arrives s c h (.disc (.fail code)) → code.toNat < 3 ∨ 8 < code.toNat ∨ discFailed s = true →
      ∃ t, exec (.fail c h code) s = .next t ∧ Carried s t) ∧
    (s.disc.done = true ∨ discFailed s = true → exec .discoveryTimeout s = .next s)

/-- Discovery's messages (R418..R425). DISCOVERY_START begins it once the die is locked and no col trains (that it waits for lock is log
entry 78); a POSITION and an END are taken at their col; a REPORT is kept, and relayed to the parent; ASSIGN and ROUTES are applied by the
die they name and relayed to the children by any other; ALIGN_REQ is answered with its stamps; the eighth ALIGN_RSP sets the timebase by the
exchange of the least round trip; DONE completes discovery and begins alignment. The model's choices: which INCOMPAT bits an ASSIGN and a
ROUTES tell (log entry 52), that DONE begins alignment (log entry 53), eight exchanges where R424 says up to eight (log entry 53), and the
rounding of half a tick (log entry 49). -/
def Obligations.DiscoveryMessages : Prop :=
  ∀ s : State, awake s = true →
    (s.disc.started = false → s.tb.locked = true → (∀ c, (getCol s c).state ≠ .training) → ∃ t, exec .discoveryStart s = .next t ∧
      t.disc.started = true ∧ ((∀ c, colLive (getCol s c) = true → (getCol s c).position ≠ none) → discFailed s = false → t.disc.sentReport = true)) ∧
    (s.disc.started = true ∨ s.tb.locked = false ∨ (∃ c, (getCol s c).state = .training) → exec .discoveryStart s = .next s) ∧
    (∀ (c : Col) (h : MsgHdr) (a : PositionArgs), Arrives s c h (.disc (.position a)) → ∃ t, exec (.position c h a) s = .next t ∧
      (getCol t c).position = some a) ∧
    (∀ (c : Col) (h : MsgHdr) (n : BitVec 8), Arrives s c h (.disc (.end_ n)) → ∃ t, exec (.endMsg c h n) s = .next t ∧
      (getCol t c).childEnd = some n) ∧
    (∀ (c : Col) (h : MsgHdr) (a : ReportArgs), Arrives s c h (.disc (.report a)) → ∃ t, exec (.report c h a) s = .next t ∧
      Linked { s with disc := { s.disc with reports := s.disc.reports ++ [a] } } t ∧
      ∀ p, parentCol s = some p → Sent s t p (.disc (.report a)) 0 0) ∧
    (∀ (c : Col) (h : MsgHdr) (a : AssignArgs), Arrives s c h (.disc (.assign a)) → ∃ t, exec (.assign c h a) s = .next t ∧
      (a.serial = s.fuse.serial → Linked { s with disc := t.disc } t ∧ t.disc.id = a.id ∧ t.disc.idValid = true ∧ t.disc.dies = a.dies ∧
        t.disc.hubs = a.hubs ∧ t.disc.moduleMajor = a.major ∧ t.disc.negotiated = a.mask ∧ t.disc.assigned = true ∧
        t.disc.routes = s.disc.routes ∧ (a.id.toNat < 8 → t.disc.incompat.getLsbD a.id.toNat = decide (a.major ≠ 1)) ∧
        ∀ i, i < 8 → i ≠ a.id.toNat → i = 0 ∨ a.dies.toNat ≤ i → t.disc.incompat.getLsbD i = false) ∧
      (a.serial ≠ s.fuse.serial →
        Linked { s with disc := { s.disc with incompat := t.disc.incompat, incompatKnown := t.disc.incompatKnown } } t ∧
        (∀ v, knownMajor s a.serial = some v → a.id.toNat < 8 → t.disc.incompat.getLsbD a.id.toNat = decide (v ≠ a.major)) ∧
        ∀ d ∈ childCols s, Sent s t d (.disc (.assign a)) 0 0)) ∧
    (∀ (c : Col) (h : MsgHdr) (id : BitVec 4) (e : Vector RouteEntry 12), Arrives s c h (.disc (.routes id e)) →
      ∃ t, exec (.routes c h id e) s = .next t ∧
      (s.disc.assigned = true → id = s.disc.id → Linked { s with disc := { s.disc with
          routes := e, incompat := t.disc.incompat, incompatKnown := t.disc.incompatKnown } } t ∧
        ∀ i : Fin 12, i.val < 8 → (e.get i).count ≠ 0 → t.disc.incompat.getLsbD i.val = decide (s.disc.moduleMajor ≠ 1)) ∧
      (s.disc.assigned = false ∨ id ≠ s.disc.id → Linked s t ∧ ∀ d ∈ childCols s, Sent s t d (.disc (.routes id e)) 0 0)) ∧
    (∀ (c : Col) (h : MsgHdr) (t1 : BitVec 64), Arrives s c h (.disc (.alignReq t1)) → ∃ t, exec (.alignReq c h t1) s = .next t ∧
      Linked s t ∧ Sent s t c (.disc (.alignRsp s.tb.count s.tb.count)) 0 0) ∧
    (∀ (c : Col) (h : MsgHdr) (t1 t2 t3 : BitVec 64), Arrives s c h (.disc (.alignRsp t2 t3)) → s.disc.t1 = some t1 → parentCol s = some c → s.tb.locked = true →
      let atOnce := (getCol s c).egress = [] ∧ 2 ≤ (getCol s c).credits.get 4
      let rtt := (s.tb.count - t1).toInt - (t3 - t2).toInt
      let off := (t2 - t1).toInt + (t3 - s.tb.count).toInt
      let best := match s.disc.best with | some (r, o) => if rtt < r then (rtt, off) else (r, o) | none => (rtt, off)
      ∃ t, exec (.alignRsp c h t2 t3) s = .next t ∧ t.disc.exchanges = s.disc.exchanges + 1 ∧ t.disc.best = some best ∧
        (s.disc.exchanges + 1 < 8 → t.tb = s.tb ∧ (atOnce → t.disc.t1 = some s.tb.count) ∧ Sent s t c (.disc (.alignReq s.tb.count)) 0 0) ∧
        (8 ≤ s.disc.exchanges + 1 → t.tb = { s.tb with count := s.tb.count + BitVec.ofInt 64 (halfNearest best.2), aligned := true } ∧
          t.disc.rtt = BitVec.ofInt 32 best.1)) ∧
    (∀ (c : Col) (h : MsgHdr), Arrives s c h (.disc .done) → s.disc.assigned = true → s.disc.done = false → parentCol s = some c →
      ∃ t, exec (.done c h) s = .next t ∧ t.disc.done = true ∧ t.tb = s.tb ∧
        (s.tb.locked = true → t.disc.exchanges = 0 ∧ Sent s t c (.disc (.alignReq s.tb.count)) 0 0 ∧
          ((getCol s c).egress = [] → 2 ≤ (getCol s c).credits.get 4 → t.disc.t1 = some s.tb.count)) ∧
        (s.tb.locked = false → t.disc.t1 = s.disc.t1 ∧ t.disc.exchanges = s.disc.exchanges) ∧
        (discFailed s = false → t.disc.result = if s.disc.moduleMajor = 1 then 1 else 2))

/-- Training (R390, R391, R396, R397). An attempt whose partner is absent, shares no protocol and flit format, locks at no rate, or has no
usable half ends in DOWN with its cause, and COL_LANE_FAIL shows its lanes; a partner that is absent holds no clock request (R415);
otherwise the attempt's width and rate stand, within the settings with which it began (R410). That an attempt limited to a half ends when
that half is unusable is the model's choice (log entry 73). A physical link that is up says HELLO; a HELLO that agrees in width brings the
port up, MGMT_ONLY for another major version, and advertises the die's credits; one that disagrees is counted, and begins an attempt on a
half that both can use, or the third within 100 ms ends in DOWN; no HELLO in time ends in DOWN. -/
def Obligations.PortsTrain : Prop :=
  ∀ (c : Col) (s : State), awake s = true → (getCol s c).state = .training →
    let k := getCol s c
    let down (i : Instr) (cause : BitVec 4) (gone : Bool) : Prop := ∃ t, exec i s = .next t ∧ (getCol t c).state = .down ∧
      (getCol t c).downCause = cause ∧ (getCol t c).linkUp = false ∧ (getCol t c).downEvents = satInc 8 k.downEvents ∧
      (smGet Evt.reset t.evts (pageCol c)).pending = true ∧ (∀ d, d ≠ c → getCol t d = getCol s d) ∧
      t = { s with cols := t.cols, evts := t.evts } ∧ (∀ a, i = .trainingAttempt c a → (getCol t c).laneFail = a.lanes) ∧
      (gone = true → (getCol t c).reqHeld = false ∧ (getCol t c).drivesRck = false ∧ (getCol t c).offer = none)
    let only (t : State) : Prop := t = { s with cols := t.cols } ∧ ∀ d, d ≠ c → getCol t d = getCol s d
    (k.linkUp = false →
      down (.partnerDetectTimeout c) 5 true ∧
      (∀ a : TrainArgs, a.present = false → down (.trainingAttempt c a) 5 true) ∧
      (∀ a : TrainArgs, a.present = true → a.shared = false → down (.trainingAttempt c a) 0xB false) ∧
      (∀ a : TrainArgs, a.present = true → a.shared = true → a.rate = none → down (.trainingAttempt c a) 6 false) ∧
      (∀ a : TrainArgs, a.present = true → a.shared = true → a.rate ≠ none →
        (halfUsable a.lanes false = false ∧ halfUsable a.lanes true = false) ∨
          (k.widthLimit = true ∧ halfUsable a.lanes k.limitUpper = false) → down (.trainingAttempt c a) 7 false) ∧
      (∀ (a : TrainArgs) (r : BitVec 2), a.present = true → a.shared = true → a.rate = some r →
        halfUsable a.lanes false = true ∨ halfUsable a.lanes true = true → (k.widthLimit = true → halfUsable a.lanes k.limitUpper = true) →
        ∃ t, exec (.trainingAttempt c a) s = .next t ∧ only t ∧
        (getCol t c).state = .training ∧ (getCol t c).laneFail = a.lanes ∧
        (getCol t c).usable.getLsbD 0 = halfUsable a.lanes false ∧ (getCol t c).usable.getLsbD 1 = halfUsable a.lanes true ∧
        (getCol t c).x32 = (k.tryWidth || k.widthLimit || !(halfUsable a.lanes false && halfUsable a.lanes true)) ∧
        (getCol t c).upper = ((getCol t c).x32 && if k.widthLimit then k.limitUpper else !halfUsable a.lanes false) ∧
        (getCol t c).rate = BitVec.ofNat 2 (min 2 (max r.toNat k.tryRate.toNat)))) ∧
    (k.linkUp = false → k.usable ≠ 0 → ∃ t, exec (.physicalLinkUp c) s = .next t ∧ Linked s t ∧ (∀ d, d ≠ c → getCol t d = getCol s d) ∧
      getCol t c = { k with
        linkUp := true, wire := k.wire ++ [⟨⟨0, 0, false, 0, 0, 0, 0, 0, false, 0, false, false⟩, .hello (ownHello c k)⟩], fill := 1, txFlits := k.txFlits + 1 }) ∧
    (k.linkUp = true ∨ k.usable = 0 → exec (.physicalLinkUp c) s = .next s) ∧
    (k.linkUp = false → ∀ (a : HelloArgs) (h : LinkHdr), exec (.hello c a h) s = .next s) ∧
    (k.linkUp = true → ∀ (a : HelloArgs) (j : Bool), ∃ t, exec (.hello c a ⟨true, j⟩) s = .next t ∧ Linked s t ∧
      (getCol t c).state = .training ∧ (getCol t c).malformed = satInc 8 k.malformed) ∧
    (k.linkUp = true →
      down (.helloTimeout c) 0xB false ∧
      (∀ (a : HelloArgs) (j : Bool), k.x32 = a.x32 → (k.x32 = true → k.upper = a.upper) → ∃ t, exec (.hello c a ⟨false, j⟩) s = .next t ∧ Linked s t ∧
        (getCol t c).state = (if a.major = 1 then .up else .mgmtOnly) ∧ (getCol t c).partnerMajor = a.major ∧
        (getCol t c).partnerPort = a.port ∧ (getCol t c).partnerKind = a.kind ∧ (getCol t c).positionSent = true ∧
        (getCol t c).advertised = false ∧ Sent s t c (.credit ownCredits) 0 0 ∧ Sent s t c (.disc (.position (ownPosition s c))) 0 0) ∧
      (∀ (a : HelloArgs) (j : Bool), k.x32 ≠ a.x32 ∨ (k.x32 = true ∧ k.upper ≠ a.upper) →
        let common := k.usable &&& a.usable
        let recent := (k.mismatches.filter (fun m => s.tb.ranNs < m + 100000000)).length
        ∃ t, exec (.hello c a ⟨false, j⟩) s = .next t ∧ (∀ d, d ≠ c → getCol t d = getCol s d) ∧
        (getCol t c).widthLimit = true ∧ (getCol t c).limitUpper = (!common.getLsbD 0 && common.getLsbD 1) ∧ (getCol t c).linkUp = false ∧
        (recent < 2 → common ≠ 0 → (getCol t c).state = .training ∧ (getCol t c).retrains = satInc 8 k.retrains) ∧
        (recent < 2 → common = 0 → (getCol t c).state = .down ∧ (getCol t c).downCause = 7) ∧
        (2 ≤ recent → (getCol t c).state = .down ∧ (getCol t c).downCause = 8)))

/-- Credits and idle flits (R386, R397, R398, R405). The first CREDIT of a port that is up gives the totals, one below the least it may be
ends in DOWN, and a later one adds; a message at the egress goes when its credits have come (in the same command: the model's choice, log
entry 75); a CREDIT's cell counts a flit unless it joins one that has begun (log entry 123). An IDLE ends the run of failed replays; an idle
flit is sent by a port that carries messages. The ways out of a port's state (R388, R392, R394): LINK_DOWN, the eighth failed replay, the
loss of the partner, which ends its clock request when the sideband shows it absent (R415), RETRAIN, PORT_RESET and DISABLE, each with its
cause; and the ways from DOWN into an attempt, which DISABLE, a test that holds the lanes, a fused-off col, DOWN_CAUSE 8 or a bring-up
before DISCOVERY (R544) prevents. What a port that went down or can send again sets off is PortsSettle's. -/
def Obligations.PortsGoDownAndRetrain : Prop :=
  (
  ∀ (c : Col) (s : State), awake s = true → (getCol s c).state = .up ∨ (getCol s c).state = .mgmtOnly →
    let k := getCol s c
    let others (u : State) : Prop := Linked s u ∧ ∀ d, d ≠ c → getCol u d = getCol s d
    let fill (j : Bool) : Nat := if j then k.rxFill else 0
    let total (a : CreditArgs) (v : Fin 6) : Nat := (if k.advertised then k.credits.get v else 0) + (a.get v).toNat
    (∀ (a : CreditArgs) (j : Bool), k.advertised = true ∨ (∀ v : Fin 6, minCredits.get v ≤ (a.get v).toNat) →
      (k.egress = [] → ∃ u, exec (.credit c a ⟨false, j⟩) s = .next (portSettle u) ∧ others u ∧
        getCol u c = { k with
          failedReplays := 0, rxFlits := k.rxFlits + BitVec.ofNat 32 (flitsBegun (fill j) 1), rxFill := (fill j + 1) % 15, fill := 0
          advertised := true, credits := (getCol u c).credits } ∧
        ∀ v : Fin 6, (getCol u c).credits.get v = total a v) ∧
      (∀ (e : EgressItem) (v : Fin 6), k.egress = [e] → k.state = .up → e.wait = none → e.msg.hdr.vc.toNat = v.val →
        (msgCells e.msg ≤ total a v → ∃ u m, exec (.credit c a ⟨false, j⟩) s = .next (portSettle u) ∧ others u ∧ (getCol u c).egress = [] ∧
          (getCol u c).wire = k.wire ++ [m] ∧ m.body = stampSent s.tb.count e.msg.body ∧ m.hdr.tag = e.msg.hdr.tag ∧
          (getCol u c).credits.get v = total a v - msgCells e.msg) ∧
        (total a v < msgCells e.msg → ∃ u, exec (.credit c a ⟨false, j⟩) s = .next (portSettle u) ∧ others u ∧ (getCol u c).egress = [e] ∧
          (getCol u c).wire = k.wire))) ∧
    (∀ (a : CreditArgs) (j : Bool) (v : Fin 6), k.advertised = false → (a.get v).toNat < minCredits.get v →
      ∃ u, exec (.credit c a ⟨false, j⟩) s = .next (portSettle u) ∧ (getCol u c).state = .down ∧ (getCol u c).downCause = 0xB) ∧
    (∀ (a : CreditArgs) (j : Bool), ∃ u, exec (.credit c a ⟨true, j⟩) s = .next (portSettle u) ∧ others u ∧
      (getCol u c).malformed = satInc 8 k.malformed ∧ (getCol u c).credits = k.credits) ∧
    (∃ t, exec (.idleFlitSend c) s = .next t ∧ others t ∧
      getCol t c = { k with wire := k.wire ++ [⟨⟨0, 0, false, 0, 0, 0, 0, 0, false, 0, false, false⟩, .idle⟩] })) ∧
  (
  ∀ (c : Col) (s : State), awake s = true →
    let k := getCol s c
    let live := k.state = .up ∨ k.state = .mgmtOnly
    let held := portHeld s c = true ∨ (colMask s).getLsbD c.val = false ∨ colsIdle s = true
    let ends (i : Instr) (st : ColState) (cause : BitVec 4) : Prop := ∃ u, exec i s = .next (portSettle u) ∧ (getCol u c).state = st ∧
      (getCol u c).downCause = cause
    let only (i : Instr) (k' : ColSt) : Prop := ∃ u, exec i s = .next (portSettle u) ∧ u = { s with cols := u.cols } ∧
      (∀ d, d ≠ c → getCol u d = getCol s d) ∧ getCol u c = k'
    (colHears k = true → ∀ rsvd : Bool, ∃ t, exec (.idle c rsvd) s = .next t ∧ Linked s t ∧ (∀ d, d ≠ c → getCol t d = getCol s d) ∧
      getCol t c = { k with failedReplays := 0, malformed := if rsvd then satInc 8 k.malformed else k.malformed }) ∧
    (colHears k = false → ∀ rsvd : Bool, exec (.idle c rsvd) s = .next s) ∧
    (∀ (code : BitVec 4) (j : Bool), live → ends (.linkDown c code ⟨false, j⟩) .down 0xA) ∧
    (∀ (code : BitVec 4) (j : Bool), k.state = .training → k.linkUp = true → ends (.linkDown c code ⟨false, j⟩) .down 0xB) ∧
    (∀ (code : BitVec 4) (h : LinkHdr), ¬live → k.state ≠ .training ∨ k.linkUp = false → exec (.linkDown c code h) s = .next (portSettle s)) ∧
    (live ∨ k.linkUp = true → k.failedReplays < 8 → only (.flitCrcFail c) { k with
        crcErrors := satInc 16 k.crcErrors, replays := satInc 16 k.replays, failedReplays := k.failedReplays + 1 }) ∧
    (live ∨ k.linkUp = true → 8 ≤ k.failedReplays → ∃ u, exec (.flitCrcFail c) s = .next (portSettle u) ∧ (getCol u c).state = .training ∧
      (getCol u c).downCause = 0xD ∧ (getCol u c).crcErrors = satInc 16 k.crcErrors ∧ (getCol u c).replays = k.replays) ∧
    (¬live → k.linkUp = false → exec (.flitCrcFail c) s = .next (portSettle s)) ∧
    (∀ absent : Bool, live → ∃ u, exec (.partnerLoss c absent) s = .next (portSettle u) ∧ (getCol u c).state = .down ∧
      (getCol u c).downCause = 9 ∧ (getCol u c).reqHeld = (k.reqHeld && !absent)) ∧
    (k.state = .training → ends (.partnerLoss c true) .down 5) ∧
    (k.state = .down ∨ k.state = .off → only (.partnerLoss c true) { k with reqHeld := false, drivesRck := false, offer := none }) ∧
    (¬live → exec (.partnerLoss c false) s = .next (portSettle s)) ∧
    (live → ends (.retrain c) .training 0xC) ∧
    (k.state = .down → ¬held → ends (.retrain c) .training k.downCause) ∧
    (k.state = .training ∨ k.state = .off ∨ (k.state = .down ∧ held) → exec (.retrain c) s = .next (portSettle s)) ∧
    (∀ i ∈ [Instr.partnerTraining c, .autoRetrain c],
      (k.state = .down → k.autoRetrain = true → ¬held → k.downCause ≠ 8 → ∃ t, exec i s = .next t ∧
        t = { s with cols := t.cols } ∧ (∀ d, d ≠ c → getCol t d = getCol s d) ∧
        getCol t c = { k with
          state := .training, retrains := satInc 8 k.retrains, usable := 0, linkUp := false, failedReplays := 0, laneFail := 0
          tryRate := k.maxRate, tryWidth := k.maxWidth }) ∧
      (k.state ≠ .down ∨ k.autoRetrain = false ∨ held ∨ k.downCause = 8 → exec i s = .next s)) ∧
    (k.state ≠ .off → (colMask s).getLsbD c.val = true → ∃ u, exec (.portReset c) s = .next (portSettle u) ∧
      (getCol u c).state = (if mayTrain s c then .training else .down) ∧ (getCol u c).downCause = 4 ∧ (getCol u c).widthLimit = false ∧
      (getCol u c).mismatches = []) ∧
    (k.state = .off ∨ (colMask s).getLsbD c.val = false → exec (.portReset c) s = .next (portSettle s)) ∧
    (k.state ≠ .off → ∃ u, exec (.colDisable c) s = .next (portSettle u) ∧ (getCol u c).state = .down ∧ (getCol u c).downCause = 3 ∧
      (getCol u c).disable = true) ∧
    (k.state = .off → exec (.colDisable c) s = .next (portSettle s)))

/-- What follows a command that lets a port send, or takes it out of MGMT_ONLY or UP. Held register requests are performed, in arrival
order, once their port owes fewer than 16 responses, or has gone down (R393, R408), and not before. The die's REPORT goes to its parent once
every port that is up has its POSITION, and its END once every child's has come (R420, R421). Where nothing waits nothing follows, and no
port changes its state by it. That all this follows within the command that let a response go, or took the port down, is the model's choice
(log entry 125). -/
def Obligations.PortsSettle : Prop :=
  ∀ u : State,
    let still := ∀ c, regReady u c = false
    let reports := u.disc.started = true ∧ u.disc.sentReport = false ∧ discFailed u = false ∧
      ∀ c, colLive (getCol u c) = true → (getCol u c).position.isSome = true
    let ends := u.disc.sentReport = true ∧ u.disc.sentEnd = false ∧ discFailed u = false ∧ ∀ c ∈ childCols u, (getCol u c).childEnd.isSome = true
    (still → portSettle u = discPump u ∧ (∀ c, (getCol (portSettle u) c).state = (getCol u c).state ∧
      (getCol (portSettle u) c).downCause = (getCol u c).downCause ∧ (getCol (portSettle u) c).regHeld = (getCol u c).regHeld)) ∧
    (still → ¬reports → ¬ends → portSettle u = u) ∧
    (still → reports → (portSettle u).disc.sentReport = true ∧
      ∀ p, parentCol u = some p → Sent u (portSettle u) p (.disc (.report (ownReport u))) 0 0) ∧
    (still → ends → (portSettle u).disc.sentEnd = true ∧ ∀ p, parentCol u = some p → Sent u (portSettle u) p
      (.disc (.end_ (BitVec.ofNat 8 ((childCols u).foldl (fun a c => a + ((getCol u c).childEnd.getD 0).toNat) 1)))) 0 0) ∧
    (∀ (c : Col) (m : Msg) (bad : Bool) (r : ItestResult), (getCol u c).regHeld = [(m, bad, r)] →
      (∀ d, d ≠ c → (getCol u d).regHeld = []) → colLive (getCol u c) = false ∨ regOwed u c < 16 →
      ∃ v, v = { u with cols := v.cols } ∧ getCol v c = { getCol u c with regHeld := [] } ∧ (∀ d, d ≠ c → getCol v d = getCol u d) ∧
        portSettle u = discPump (regAct ⟨c, m.hdr, m.body, bad, r⟩ (if colLive (getCol u c) then returnCredit c m v else v)))

/-- Messages for a core of this die (R326, R330, R380, R403), with their port up, well formed and for this die. A CSIG adds one to an open
cairn of a core that accepts its job, is late at a closed one, and is counted as refused by a core that does not accept it; an LREAD and an
LWRITE enter the ridge toward their core; one whose core does not exist is answered ABSENT, a CSIG is dropped; a TELEM is malformed; beyond
this, carrying changes only cols, activity counts and flit counts. -/
def Obligations.CoreMessagesArrive : Prop :=
  ∀ (c : Col) (h : MsgHdr) (s : State), awake s = true → forMe s h = true →
    (∀ (a : CsigMsgArgs) (d : CoreId), Arrives s c h (.csig a) → physCore s a.lclus.toNat a.lcore.toNat = some d →
      crossesFailed s (colRouter c) d.clus.val = false →
      let k := (getCore s d).cairn
      let only (t : State) : Prop := exec (.csigMsg c h a) s = .next t ∧ (∀ e, e ≠ d → SameCore (getCore s e) (getCore t e))
      (present s d = true → accepts s d none h.job false = true → cairnOpen k a.k.toNat = true → ∃ t, only t ∧
        Carried { s with cores := t.cores } t ∧ SameCore { getCore s d with cairn := cairnAdd a.k.toNat 1 k } (getCore t d)) ∧
      (present s d = true → accepts s d none h.job false = true → cairnOpen k a.k.toNat = false → ∃ t, only t ∧
        Carried { s with cores := t.cores, evts := t.evts } t ∧ (getCore t d).cairn.counts = k.counts ∧
        smGet 0 (getCore t d).cairn.late a.k.toNat = satInc 16 (smGet 0 k.late a.k.toNat) ∧
        (k.lateAny = false → (smGet Evt.reset t.evts (pageCoreB d)).pending = true)) ∧
      (present s d = true → accepts s d none h.job false = false → ∃ t, only t ∧ Carried { s with cores := t.cores } t ∧
        (getCore t d).cairn.dropCount = satInc 32 k.dropCount ∧ (getCore t d).cairn.counts = k.counts ∧
        (k.dropValid = false → (getCore t d).cairn.dropDie = h.src)) ∧
      (present s d = false → ∃ t, only t ∧ Carried s t)) ∧
    (∀ a : CsigMsgArgs, Arrives s c h (.csig a) →
      (physCore s a.lclus.toNat a.lcore.toNat).filter (fun d => !crossesFailed s (colRouter c) d.clus.val) = none →
      ∃ t, exec (.csigMsg c h a) s = .next t ∧ Carried s t) ∧
    (∀ (a : LreadArgs) (d : CoreId), Arrives s c h (.lread a) → physCore s a.lclus.toNat a.lcore.toNat = some d →
      crossesFailed s (colRouter c) d.clus.val = false →
      ∃ t, exec (.lread c h a) s = .next t ∧ Linked (netPut (colRouter c) d.clus.val portCol 1 (dueOf s h)
        (.read ⟨d, a.off.toNat, a.cnt1.toNat + 1, a.shape, a.stride, none, .col h.src h.tag (dueOf s h), h.job, h.host⟩) s) t) ∧
    (∀ (a : LreadArgs) (e : Col), Arrives s c h (.lread a) →
      (physCore s a.lclus.toNat a.lcore.toNat).filter (fun d => !crossesFailed s (colRouter c) d.clus.val) = none →
      egressCol s h.src 1 (colRouter c) 0 = some e → crossesFailed s (colRouter c) (colRouter e) = false →
      ∃ t, exec (.lread c h a) s = .next t ∧ Carried s t ∧
        Sent s t e (.rdata (List.replicate (if a.shape ≠ 0 then 1024 else a.cnt1.toNat + 1) 0)) h.tag 1) ∧
    (∀ (a : LwriteArgs) (d : CoreId), Arrives s c h (.lwrite a) → physCore s a.lclus.toNat a.lcore.toNat = some d →
      crossesFailed s (colRouter c) d.clus.val = false →
      ∃ t w, exec (.lwrite c h a) s = .next t ∧
        Linked (netPut (colRouter c) d.clus.val portCol (packetFlits (a.cnt1.toNat + 1)) (dueOf s h) (.land w) s) t ∧ w.dst = d ∧ w.srcDie = h.src ∧
        w.host = h.host ∧ w.job = h.job ∧ w.srcMassif = none ∧ w.sig = (if a.sig && !h.host then some a.k else none) ∧
        ∀ i, i < a.cnt1.toNat + 1 → ((a.off.toNat + i ∈ w.mask) ↔ (∀ k, a.mask = some k → k.getD i false = true)) ∧
          (a.off.toNat + i ∈ w.mask → memGet w.bytes (a.off.toNat + i) = a.data.getD i 0)) ∧
    (∀ (a : LwriteArgs) (e : Col), Arrives s c h (.lwrite a) →
      (physCore s a.lclus.toNat a.lcore.toNat).filter (fun d => !crossesFailed s (colRouter c) d.clus.val) = none →
      egressCol s h.src 1 (colRouter c) 0 = some e → crossesFailed s (colRouter c) (colRouter e) = false →
      ∃ t, exec (.lwrite c h a) s = .next t ∧ Carried s t ∧ Sent s t e .wack h.tag 1) ∧
    (∀ a : TelemArgs, Arrives s c h (.telem a) → ∃ t, exec (.telemMessage c h a) s = .next t ∧ Linked s t ∧
      (getCol t c).malformed = satInc 8 (getCol s c).malformed)

/-- Messages that name nothing this die holds (R380, R401, R427). An MREAD, MWRITE or WALK_RD for this die is answered ABSENT to its sender
(log entry 48). A message for another endpoint is forwarded on the col that the routes give, with its TAG and STATUS; without a col, or with
none that can be reached (log entries 72 and 121), a request is counted as absent at its ingress; one of a reserved TYPE or OP is malformed
(R405). SUMMIT on a tree's col (R338): one that no massif's tree expects there is counted at its col, and is a generation error of each
massif whose tree names the col or whose JOB_TAG it bears; so is one of another generation, or from a side that the tree does not give it,
each with its event; an arrival from a child is recorded, and the last one due sends this die's arrival to its parent; a release from the
parent advances the generation, and goes to the children and down the staircase; a hold from it marks the context (R337, R339). The cores
stand. -/
def Obligations.OtherMessagesArrive : Prop :=
  (
  ∀ (c : Col) (h : MsgHdr) (s : State), awake s = true →
    (∀ (b : BitVec 32) (e : Col), forMe s h = true → Arrives s c h (.mread b) → egressCol s h.src 1 (colRouter c) 0 = some e →
      crossesFailed s (colRouter c) (colRouter e) = false →
      ∃ t, exec (.mread c h b) s = .next t ∧ Carried s t ∧ Sent s t e (.rdata (List.replicate 256 0)) h.tag 1) ∧
    (∀ (a : MwriteArgs) (e : Col), forMe s h = true → Arrives s c h (.mwrite a) → egressCol s h.src 1 (colRouter c) 0 = some e →
      crossesFailed s (colRouter c) (colRouter e) = false →
      ∃ t, exec (.mwrite c h a) s = .next t ∧ Carried s t ∧ Sent s t e .wack h.tag 1) ∧
    (∀ (n : BitVec 37) (e : Col), forMe s h = true → Arrives s c h (.walkRd n) → egressCol s h.src 4 (colRouter c) 0 = some e →
      crossesFailed s (colRouter c) (colRouter e) = false →
      ∃ t, exec (.walkRd c h n) s = .next t ∧ Carried s t ∧ Sent s t e (.walkRsp 0) h.tag 1) ∧
    (∀ b : MsgBody, forMe s h = false → Arrives s c h b → (bodyVc b).isSome = true → (∀ op, b ≠ .disc op) → (∀ a, b ≠ .summit a) →
      ∃ t, exec (.forwardMessage c ⟨h, b⟩) s = .next t ∧ Carried s t ∧
        (∀ e, egressCol s h.dst ((bodyVc b).getD 0) (colRouter c) (bodyMix b) = some e → crossesFailed s (colRouter c) (colRouter e) = false →
          Sent s t e b h.tag h.status) ∧
        ((egressCol s h.dst ((bodyVc b).getD 0) (colRouter c) (bodyMix b)).filter (fun e => !crossesFailed s (colRouter c) (colRouter e)) = none →
          isRequest b = true →
          (getCol t c).absents = satInc 16 (getCol s c).absents)) ∧
    (∀ b : MsgBody, (∃ n, b = .other n) ∨ (∃ op, b = .disc (.reserved op)) → (getCol s c).state = .up ∨ (getCol s c).state = .mgmtOnly →
      ∃ t, exec (.forwardMessage c ⟨h, b⟩) s = .next t ∧ Carried s t ∧ (getCol t c).malformed = satInc 8 (getCol s c).malformed)) ∧
  (
  ∀ (c : Col) (h : MsgHdr) (a : SummitArgs) (s : State), awake s = true → Arrives s c h (.summit a) →
    (failedUnit s 4 = true ∨ crossesFailed s (colRouter c) diePort = true → ∃ t, exec (.summit c h a) s = .next t ∧ Linked s t) ∧
    (failedUnit s 4 = false → crossesFailed s (colRouter c) diePort = false →
    (summitMassif s c h.job = none → ∃ t, exec (.summit c h a) s = .next t ∧ t.cores = s.cores ∧
      (getCol t c).summitUnmatched = satInc 16 (getCol s c).summitUnmatched ∧
      ∀ m : Massif, let k := getMassif s m
        (massifHolds k && k.state != .tearingDown && (k.jobTag == h.job) != treeNames k.summit c) = true →
          getMassif t m = { k with summit := { k.summit with genErr := true } } ∧ (smGet Evt.reset t.evts (pageSeq m)).pending = true) ∧
    (∀ m : Massif, summitMassif s c h.job = some m →
      let k := (getMassif s m).summit
      let key := instKey 3 a.ctx 0
      let inst := getInst s m key
      let ok := ctxScope s m a.ctx = 3 ∧ a.gen = inst.gen
      let same (t : State) : Prop := ∀ e, SameCore (getCore s e) (getCore t e)
      let does (t : State) : Prop := exec (.summit c h a) s = .next t ∧ same t ∧ (getMassif t m).summit.genErr = k.genErr
      (¬ok ∨ (a.release = true ∧ treeParent k ≠ some c) ∨ (a.release = false ∧ k.children.getLsbD c.val = false) →
        ∃ t, exec (.summit c h a) s = .next t ∧ (getMassif t m).summit.genErr = true ∧ (smGet Evt.reset t.evts (pageSeq m)).pending = true ∧
          same t ∧ getInst t m key = inst) ∧
      (ok → a.release = false → k.children.getLsbD c.val = true → inst.trap = false → a.trap = false → allArrived s m 3 0 inst = false →
        ∃ t, does t ∧ (getInst t m key).childArr = inst.childArr ||| (1#16 <<< c.val) ∧ (getInst t m key).gen = inst.gen ∧
          (getInst t m key).lastNode = a.lastNode ∧ (getInst t m key).arrived = inst.arrived ∧ (getInst t m key).sent = inst.sent) ∧
      (ok → a.release = false → k.children.getLsbD c.val = true → massifCores s m ≠ [] → allArrived s m 3 0 inst = true → inst.sent = false →
        k.children &&& ~~~(inst.childArr ||| (1#16 <<< c.val)) = 0 → k.broken.getLsbD a.ctx.toNat = false → treeBad s k = false →
        ∀ p, treeParent k = some p → crossesFailed s diePort (colRouter p) = false → ∃ t x, does t ∧ (getInst t m key).sent = true ∧ Sent s t p (.summit x) 0 0 ∧ x.ctx = a.ctx ∧
          x.release = false ∧ x.gen = inst.gen ∧ x.trap = (inst.trap || a.trap) ∧ x.lastNode = a.lastNode) ∧
      (ok → a.release = true → treeParent k = some c → a.held = false → treeBad s k = false → k.broken.getLsbD a.ctx.toNat = false →
        ∃ t, does t ∧ (getInst t m key).gen = inst.gen + 1 ∧ (getInst t m key).arrived = [] ∧
          (∀ d ∈ treeChildren k, crossesFailed s diePort (colRouter d) = false → Sent s t d (.summit a) 0 0) ∧
          (getMassif t m).summit.stair = k.stair ++ (massifClus s m).map (fun p =>
            ⟨a.ctx, (getClus s p).repair.lclus, now s + stairDelay s m a.ctx p, (activeCores (getClus s p)).map (fun q => ⟨p, q⟩)⟩)) ∧
      (ok → a.release = true → treeParent k = some c → a.held = true →
        ∃ t, does t ∧ (getInst t m key).held = true ∧ (getInst t m key).gen = inst.gen ∧
          (inst.held = false → (getMassif t m).summit.held.getLsbD a.ctx.toNat = true ∧ (smGet Evt.reset t.evts (pageSeq m)).pending = true) ∧
          (treeBad s k = false → ∀ d ∈ treeChildren k, crossesFailed s diePort (colRouter d) = false → Sent s t d (.summit a) 0 0)))))

/-- RDATA, WACK, WALK_RSP and REG_RSP for this die (R381, R402, R406): one whose TAG nothing waits for is counted and otherwise ignored; any
other ends the wait, and its status and data reach whoever waited, unless no router leads there (R508, log entry 121): a load stores the
words it brings, or fails; a TXPUT's write counts as outstanding no longer; a walk goes on or ends; status 5 to 7 counts as malformed, and
acts as ABSENT. -/
def Obligations.ResponsesArrive : Prop :=
  ∀ (c : Col) (h : MsgHdr) (s : State) (i : Instr) (b : MsgBody) (bytes : List Byte) (entry : BitVec 64), awake s = true → forMe s h = true →
    Arrives s c h b →
    (∃ bs, i = .rdata c h bs ∧ b = .rdata bs ∧ bytes = bs ∧ entry = 0) ∨ (i = .wack c h ∧ b = .wack ∧ bytes = [] ∧ entry = 0) ∨
      (∃ e, i = .walkRsp c h e ∧ b = .walkRsp e ∧ bytes = [] ∧ entry = e) ∨ (∃ v, i = .regRsp c h v ∧ b = .regRsp v ∧ bytes = [] ∧ entry = 0) →
    (owing s c h.tag.toNat b = none → ∃ t, exec i s = .next t ∧ Carried s t ∧ (getCol t c).unknownTag = satInc 16 (getCol s c).unknownTag) ∧
    (∀ d w, owing s c h.tag.toNat b = some (d, w) → crossesFailed s (colRouter c) (waitRouter w) = true → ∃ t, exec i s = .next t ∧ Carried s t) ∧
    (∀ d w, owing s c h.tag.toNat b = some (d, w) → crossesFailed s (colRouter c) (waitRouter w) = false →
      (h.status.toNat < 5 → ∃ u t, exec i s = .next t ∧ Carried s u ∧ Carried (answer w h.status bytes entry u) t) ∧
      (5 ≤ h.status.toNat → ∃ u t, exec i s = .next t ∧ Carried s u ∧ Carried (answer w 1 [] 0 u) t ∧
        (getCol u c).malformed = satInc 8 (getCol s c).malformed) ∧
      (∀ (m : Massif) (block gen : Nat), w = .load m block gen → (getSeq s m).loadGen = gen → (getSeq s m).state = .loading → (getSeq s m).loadBusy = true →
        (getSeq s m).loadBlock = block →
        (h.status ≠ 0 → ∃ t, exec i s = .next t ∧ (getSeq t m).loadFault = true ∧ t.store = s.store) ∧
        (h.status = 0 → (getSeq s m).loadCount.toNat ≤ (getSeq s m).loaded + (256 - loadAddr (getSeq s m) % 256) / 32 →
          (getSeq s m).loaded ≤ (getSeq s m).loadCount.toNat → ∃ t, exec i s = .next t ∧ (getSeq t m).loaded = (getSeq s m).loadCount.toNat ∧
          ∀ j, j < 4 * ((getSeq s m).loadCount.toNat - (getSeq s m).loaded) →
            smGet 0 t.store.words (((getSeq s m).base.toNat * 128 + (getSeq s m).loadDest.toNat + (getSeq s m).loaded) * 4 + j) =
              BitVec.ofNat 64 (leNat ((bytes.drop (loadAddr (getSeq s m) % 256 + 8 * j)).take 8)))) ∧
      (∀ (e : CoreId) (eng : Bool) (id : Nat) (die : BitVec 4) (lc : BitVec 6) (lk : BitVec 7), w = .write (.put e eng id) die lc lk →
        h.status = 0 → ∃ t, exec i s = .next t ∧ id ∉ (getCore t e).xfer.outWrites ∧
          (getCore t e).ledge.mem = (getCore s e).ledge.mem))

/-- REG_RD and REG_WR for this die (R407, R408, R516). A read is answered with the register's value; a write without HOST to any register
but ERR_NOTIFY is refused, counted and answered, and changes no register else; any other write is performed. Before discovery completes only
the link partner's are answered (R423). Beyond 16 requests whose responses are still owed, one is held at its port, and a responder that has
failed or cannot be reached answers ABSENT (R376, R508; that it does so, and which router counts as one that cannot be reached, are the
model's choices, log entries 72 and 121). -/
def Obligations.RegisterRequestsArrive : Prop :=
  ∀ (c : Col) (h : MsgHdr) (addr : BitVec 23) (s : State), awake s = true → forMe s h = true →
    let partner := h.src = 0xF ∧ h.dst = 0xF
    let a := 8 * addr.toNat
    -- the answer leaves on the link it came from, or on the col that the routes give
    let answered (v : BitVec 64) (t : State) : Prop := (partner → crossesFailed s diePort (colRouter c) = false → Sent s t c (.regRsp v) h.tag 0) ∧
      (¬partner → ∀ e, egressCol s h.src 4 diePort 0 = some e → crossesFailed s diePort (colRouter e) = false → Sent s t e (.regRsp v) h.tag 0)
    let goes := answersReg s h = true ∧ regOwed s c < 16 ∧ (getCol s c).regHeld = [] ∧ regLost s c = false
    ∀ (i : Instr) (b : MsgBody) (bad : Bool) (r : ItestResult), Arrives s c h b →
    (i = .regRd c h addr bad r ∧ b = .regRd addr) ∨ (∃ v, i = .regWr c h addr v r ∧ b = .regWr addr v ∧ bad = false) →
    (goes → ∀ _ : b = .regRd addr, ∃ u t, exec i s = .next (portSettle t) ∧ Carried s u ∧ Carried (regLoad a bad r u).1 t ∧
      answered (regLoad a bad r u).2 t) ∧
    (goes → ∀ v, b = .regWr addr v → h.host = false → a ≠ 0x2190 → ∃ t, exec i s = .next (portSettle t) ∧
      Carried { s with ident := t.ident } t ∧ t.ident.refusedWr = satInc 16 s.ident.refusedWr ∧ answered 0 t ∧
      (s.ident.firstValid = false → t.ident.firstAddr = BitVec.ofNat 26 a ∧ t.ident.firstWrite = true ∧ t.ident.firstValid = true)) ∧
    (goes → ∀ v, b = .regWr addr v → h.host = true ∨ a = 0x2190 →
      ∃ u t, exec i s = .next (portSettle t) ∧ Carried s u ∧ Carried (regStore a v r u) t) ∧
    (answersReg s h = false → ∃ t, exec i s = .next (portSettle t) ∧ Carried s t ∧ (getCol t c).regHeld = (getCol s c).regHeld) ∧
    (answersReg s h = true → 16 ≤ regOwed s c ∨ (getCol s c).regHeld ≠ [] → ∃ t, exec i s = .next (portSettle t) ∧ Carried s t ∧
      (getCol t c).regHeld = (getCol s c).regHeld ++ [(⟨h, b⟩, bad, r)]) ∧
    (answersReg s h = true → regOwed s c < 16 → (getCol s c).regHeld = [] → regLost s c = true → ∃ t, exec i s = .next (portSettle t) ∧ Carried s t ∧
      (partner → crossesFailed s (colRouter c) (colRouter c) = false → Sent s t c (.regRsp 0) h.tag 1) ∧
      (¬partner → ∀ e, egressCol s h.src 4 (colRouter c) 0 = some e → crossesFailed s (colRouter c) (colRouter e) = false →
        Sent s t e (.regRsp 0) h.tag 1))

/-- The program store's window (R53, R54, R55) and the interconnect test (R433). A PS_DATA read advances the address, and a bad word is
noted; a write stores its word unless a region in use holds it, when it is dropped and counted, and advances the address too; ITEST START
begins on a col that is DOWN and disabled, and is refused otherwise; STOP ends the test. That it takes in what the checker has counted since
the last look, and that START clears SYNC, are the model's choices (log entry 93). -/
def Obligations.StoreWindowAndInterconnectTest : Prop :=
  ∀ s : State, awake s = true →
    (∀ bad : Bool, ∃ t, exec (.psDataRead bad) s = .next t ∧
      t = { s with store := { s.store with addr := s.store.addr + 1, readParity := s.store.readParity || bad } }) ∧
    (∀ v : BitVec 64, psBlocked s = false → ∃ t, exec (.psDataWrite v) s = .next t ∧ t.store.addr = s.store.addr + 1 ∧
      (∀ w, smGet 0 t.store.words w = if w = s.store.addr.toNat then v else smGet 0 s.store.words w) ∧
      t.store.blocked = s.store.blocked ∧ t = { s with store := t.store, seqs := t.seqs } ∧
      ∀ m, getMassif t m = getMassif s m ∧ getSeq t m = { getSeq s m with checked := (getSeq t m).checked } ∧
        ((getSeq t m).checked = true → (getSeq s m).checked = true)) ∧
    (∀ v : BitVec 64, psBlocked s = true → ∃ t, exec (.psDataWrite v) s = .next t ∧
      t = { s with store := { s.store with addr := s.store.addr + 1, blocked := satInc 16 s.store.blocked } }) ∧
    ((getCol s s.itest.col.toFin).state = .down → (getCol s s.itest.col.toFin).disable = true → s.itest.pattern.toNat ≤ 3 →
      ∃ t, exec .itestStart s = .next t ∧ t = { s with itest := { s.itest with state := 1, errors := 0, lanes := 0, sync := false, sent := 0 } }) ∧
    ((getCol s s.itest.col.toFin).state ≠ .down ∨ (getCol s s.itest.col.toFin).disable = false ∨ 3 < s.itest.pattern.toNat →
      ∃ t, exec .itestStart s = .next t ∧ t = { s with itest := { s.itest with refused := true } }) ∧
    (∀ r : ItestResult, s.itest.state = 1 → ∃ t, exec (.itestStop r) s = .next t ∧ t = { s with itest := t.itest } ∧ t.itest.state = 2 ∧
      (s.itest.rx = true → t.itest.sync = r.sync ∧ t.itest.errors = max s.itest.errors r.errors.toNat ∧
        t.itest.lanes = s.itest.lanes ||| r.lanes ∧ t.itest.aux = s.itest.aux ||| r.aux) ∧
      (s.itest.rx = false → t.itest = { s.itest with state := 2 })) ∧
    (∀ r : ItestResult, s.itest.state ≠ 1 → exec (.itestStop r) s = .next s)

/-- The TAP (R432, R434, R435, R542), on a die with VDD_AON and VDD_IO: each instruction becomes current and captures 1 in the instruction
register; SAMPLE_PRELOAD and EXTEST load the boundary and capture what it sees, IDCODE reads the identity, WRAPPER scans the IEEE 1500
registers, every code that is not listed is BYPASS, and EXTEST, CLAMP and HIGHZ take the lanes, so that every port of an awake die that is
not off is DOWN with cause 3; TRST_N selects IDCODE again. Without either rail nothing happens. IJTAG and REGISTER_BRIDGE_ACCESS (R433,
R434, R435, R480, R493): a BIST instrument reads busy in steps 5 to 9, and shows its result in any other; the debug lock refuses, and
counts, an SRAM instrument's data, a bridge read of a ledge and of a massif's data in registers, which give 0; without the lock a bridge
read of a ledge gives its eight bytes, or 0 for a core that is absent; a register is read and written through the bridge as by a request
that may write. The model's choices: that a bridge access selects IJTAG itself and needs an awake spine (log entry 94), and that a bridge
read of a ledge is served at once and is of eight bytes (log entry 132). -/
def Obligations.TapAndDebugAccess : Prop :=
  (
  ∀ s : State,
    let cur (ir : BitVec 8) : JtagSt := { s.jtag with ir := ir, irCapture := 1, bypassBit := false }
    let sees (b : BoundaryScan) : BoundaryView := ⟨b.seen, !s.pins.porst, s.pins.crownN, b.refclk⟩
    let sel (i : Instr) (j : JtagSt) : Prop := exec i s = .next { s with jtag := j }
    let takes (i : Instr) (j : JtagSt) : Prop := ∃ t, exec i s = .next t ∧ t.jtag = j ∧
      (takesLanes s.jtag.ir = true ∨ awake s = false → t = { s with jtag := j }) ∧
      (takesLanes s.jtag.ir = false → awake s = true → (∀ c, (getCol s c).regHeld = []) →
        ∀ c, (getCol s c).state ≠ .off → (getCol t c).state = .down ∧ (getCol t c).downCause = 3)
    (tapOn s = true →
      sel .trstN JtagSt.reset ∧
      (∀ b, sel (.samplePreload b) { cur 1 with drives := b.load, captured := sees b }) ∧
      sel .idcode { cur 2 with bridge := idcodeWord s } ∧
      sel (.wrapper .select) (cur 0x10) ∧ (∀ bits, sel (.wrapper (.instruction bits)) { cur 0x10 with wrapInstr := bits }) ∧
      (∀ load seen, sel (.wrapper (.data load seen)) { cur 0x10 with wrapData := load, wrapSeen := seen }) ∧
      (∀ code, sel (.bypass code) (cur (if tapListed code then 0xFF else code))) ∧
      (∀ b, takes (.extest b) { cur 0 with drives := b.load, captured := sees b }) ∧
      takes .clamp (cur 3) ∧ takes .highz (cur 4)) ∧
    (tapOn s = false → ∀ (code : BitVec 8) (x : BoundaryScan) (a : IjtagAccess) (b : BridgeAccess) (w : WrapperScan),
      ∀ i ∈ [Instr.trstN, .idcode, .clamp, .highz, .wrapper w, .bypass code, .extest x, .samplePreload x, .ijtag a, .registerBridgeAccess b],
      exec i s = .next s)) ∧
  (
  ∀ s : State, tapOn s = true →
    let j : JtagSt := { s.jtag with ir := 0x11, irCapture := 1, bypassBit := false }
    let u : State := { s with jtag := j }
    let refused : BringSt := { s.bring with debugRefused := satInc 24 s.bring.debugRefused }
    let busy := 5 ≤ s.bring.step.toNat ∧ s.bring.step.toNat ≤ 9
    (∀ word : BitVec 64, exec (.ijtag (.fuse word)) s = .next { s with jtag := { j with bridge := word } }) ∧
    (∀ pass : Bool, exec (.ijtag (.logicBist pass)) s = .next { s with jtag := { j with
      busy := decide busy, passed := if busy then j.passed else pass } }) ∧
    (∀ (pass : Bool) (data : BitVec 64),
      (busy → exec (.ijtag (.sramBist pass data)) s = .next { s with jtag := { j with busy := true } }) ∧
      (¬busy → s.fuse.debugLock = false →
        exec (.ijtag (.sramBist pass data)) s = .next { s with jtag := { j with busy := false, passed := pass, bridge := data } }) ∧
      (¬busy → s.fuse.debugLock = true →
        exec (.ijtag (.sramBist pass data)) s = .next { s with jtag := { j with busy := false, passed := pass, bridge := 0 }, bring := refused })) ∧
    (∀ (ctl : BitVec 64) (r : ItestResult), exec (.ijtag (.itest ctl r)) s = .next (if awake s then itestWrite 0x100 ctl r u else u)) ∧
    (∀ (lc : BitVec 6) (lk : BitVec 7) (off : BitVec 19) (fs : List ReadFault), awake s = true →
      ∃ t, exec (.registerBridgeAccess (.ledge lc lk off fs)) s = .next (portSettle t) ∧
      (s.fuse.debugLock = true → t = { s with jtag := { j with bridge := 0 }, bring := refused }) ∧
      (s.fuse.debugLock = false →
        (∀ c, physCore s lc.toNat lk.toNat = some c → (getCore s c).presence = .on →
          let q := ledgeReadShape (coreEnv u c [] fs) 9 0 0 off.toNat 8 (getCore s c).ledge
          OnlyCore c { s with jtag := t.jtag } t ∧ getCore t c = { getCore s c with ledge := q.1 } ∧
          t.jtag = { j with bridge := BitVec.ofNat 64 (leNat q.2.1) }) ∧
        (∀ c, physCore s lc.toNat lk.toNat = some c → (getCore s c).presence ≠ .on → t = { s with jtag := { j with bridge := 0 } }) ∧
        (physCore s lc.toNat lk.toNat = none → t = { s with jtag := { j with bridge := 0 } }))) ∧
    (∀ (addr : BitVec 23) (bad : Bool) (r : ItestResult), awake s = true →
      let massifData := 8 * addr.toNat = 0x3108 ∨ isVregData (8 * addr.toNat) = true
      ∃ t, exec (.registerBridgeAccess (.read addr bad r)) s = .next (portSettle t) ∧
      (s.fuse.debugLock = false ∨ ¬massifData → t.jtag.bridge = (regLoad (8 * addr.toNat) bad r u).2 ∧
        t = { (regLoad (8 * addr.toNat) bad r u).1 with jtag := t.jtag }) ∧
      (s.fuse.debugLock = true → massifData → t.jtag = { j with bridge := 0 } ∧ t = { s with
        jtag := t.jtag, bring := refused
        store := { s.store with addr := if 8 * addr.toNat = 0x3108 then s.store.addr + 1 else s.store.addr } })) ∧
    (∀ (addr : BitVec 23) (v : BitVec 64) (r : ItestResult), awake s = true →
      exec (.registerBridgeAccess (.write addr v r)) s = .next (portSettle (regStore (8 * addr.toNat) v r u))) ∧
    (∀ a : BridgeAccess, awake s = false → exec (.registerBridgeAccess a) s = .next u))

/-- TC_FLUSH, TC_INVAL, TC_INVAL_DONE and INVALIDATE (R265, R296). An invalidation drops every cached translation that it names, lets no
walk under way be cached for it, and is busy until nothing begun under the old mapping is under way, of the massif's streams and its loader,
held and released writes among them (the model's choice, log entry 61); INVALIDATE empties the ledge caches of the massif's cores and leaves
their bytes. -/
def Obligations.CachesAreInvalidated : Prop :=
  ∀ (m : Massif) (s : State), awake s = true →
    let rest (t : State) : Prop := t = { s with cores := t.cores, clusters := t.clusters, seqs := t.seqs, tc := t.tc } ∧
      (∀ p, getClus t p = { getClus s p with held := (getClus t p).held }) ∧
      (∀ n, getSeq t n = { getSeq s n with loadOld := (getSeq t n).loadOld }) ∧
      (∀ c, (getCore t c).ledge = (getCore s c).ledge ∧ (getCore t c).issue = (getCore s c).issue) ∧ (∀ n, getMassif t n = getMassif s n)
    (∀ i, (i = .tcFlush m ∨ ∃ page, i = .tcInval m true page) → ∃ t, exec i s = .next t ∧ rest t ∧
      t.tc.entries = s.tc.entries.filter (fun e => e.massif != m) ∧ t.tc.inval = s.tc.inval ++ [(m, none)] ∧
      (∀ k ∈ t.tc.walks, k.massif = m → k.stale = true) ∧
      ((getSeq s m).loadBusy = true → (getSeq t m).loadOld = true) ∧
      ∀ p ∈ massifClus s m, ∀ h ∈ (getClus t p).held, h.va.isSome = true → h.stale = true) ∧
    (∀ page : BitVec 44, ∃ t, exec (.tcInval m false page) s = .next t ∧ rest t ∧
      t.tc.entries = s.tc.entries.filter (fun e => !tcCovers e m (page.toNat * 65536)) ∧
      t.tc.inval = s.tc.inval ++ [(m, some (page.toNat * 65536))] ∧ ∀ k ∈ t.tc.walks, k.massif = m → page.toNat * 65536 ∈ k.notPages) ∧
    (∃ t, exec .tcInvalDone s = .next t ∧
      ((∀ i ∈ s.tc.inval, tcQuiet s i.1 = true) → t = { s with tc := { s.tc with inval := [] } }) ∧
      ((∃ i ∈ s.tc.inval, tcQuiet s i.1 = false) → t = s)) ∧
    (∃ t, exec (.invalidate m) s = .next t ∧ t = { s with cores := t.cores } ∧
      (∀ c ∈ massifCores s m, (getCore t c).ledge.tags = [] ∧ (getCore t c).ledge.mem = (getCore s c).ledge.mem ∧
        getCore t c = { getCore s c with ledge := (getCore t c).ledge }) ∧
      ∀ c, c ∉ massifCores s m → getCore t c = getCore s c)

/-- The clears (R41, R53, R238, R252, R258, R312, R356, R383, R405, R478, R509, R521, R537): each zeroes what its row names, or takes it
back to what stands now, and changes nothing else. -/
def Obligations.ClearsClear : Prop :=
  ∀ s : State, awake s = true →
    exec .countClear s = .next { s with store := { s.store with blocked := 0 } } ∧
    exec .streamTrkStatClear s = .next { s with trk := { s.trk with trackedHwm := s.trk.tracked, tagHwm := tagsInUse s } } ∧
    exec .regStatClear s = .next { s with ident := { s.ident with refusedWr := 0, ignored := 0 } } ∧
    exec .regStatFirstClear s = .next { s with ident := { s.ident with firstAddr := 0, firstWrite := false, firstValid := false } } ∧
    exec .errPartnerClear s = .next { s with err := { s.err with partnerSerial := 0, partnerCause := 0, partnerValid := false } } ∧
    exec .bringupDisClear s = .next { s with bring := { s.bring with disClus := 0, disCore := 0, disState := 0, disValid := false } } ∧
    exec .elecStatBoClear s = .next { s with pm := { s.pm with boRail := 0, boValid := false } } ∧
    exec .dieTrapSumClear s = .next { s with err := { s.err with
      trapValid := false, trapMultiple := false, trapMassif := 0, trapCause := 0, trapEngine := 0, trapClus := 0, trapCore := 0, trapStamp := 0 } } ∧
    (∀ p : PClus,
      let only (t : State) : Prop := t = { s with clusters := t.clusters } ∧ ∀ r, r ≠ p → getClus t r = getClus s r
      (∃ t, exec (.hwmClear p) s = .next t ∧ only t ∧
        getClus t p = { getClus s p with highWater := (getClus s p).fifo.length, fullCount := 0 }) ∧
      (∃ t, exec (.hwStoreStatClear p) s = .next t ∧ only t ∧
        getClus t p = { getClus s p with slotsHwm := storeSlots (getClus s p), heldFull := 0 }) ∧
      (∃ t, exec (.clusAbsentClear p) s = .next t ∧ only t ∧
        getClus t p = { getClus s p with absentDie := 0, absentLclus := 0, absentLcore := 0, absentWrite := false, absentValid := false }) ∧
      (∃ t, exec (.clusTrapSumClear p) s = .next t ∧ only t ∧
        getClus t p = { getClus s p with trapValid := false, trapMultiple := false, trapCause := 0, trapEngine := 0, trapCore := 0, trapStamp := 0 })) ∧
    (∀ c : CoreId,
      (∃ t, exec (.ledgeBgStatClear c) s = .next t ∧ OnlyCore c s t ∧
        getCore t c = { getCore s c with ledge := { (getCore s c).ledge with inserted := 0, landHwm := landCount (getCore s c).ledge } }) ∧
      (∃ t, exec (.ledgePerrLogClear c) s = .next t ∧ OnlyCore c s t ∧
        getCore t c = { getCore s c with ledge := { (getCore s c).ledge with perr := none, perrMultiple := false, perrCount := 0, parity := false } })) ∧
    (∀ c : Col, ∃ t, exec (.colErrClear c) s = .next t ∧ t = { s with cols := t.cols } ∧ (∀ d, d ≠ c → getCol t d = getCol s d) ∧
      getCol t c = { getCol s c with
        crcErrors := 0, replays := 0, retrains := 0, downEvents := 0, malformed := 0
        summitUnmatched := 0, signalsDropped := 0, absents := 0, unknownTag := 0 })
end

