-- ==== Sys2Proof/Laws/Decode.lean ====
section
/-! SUPPORT. Fields of a word put together by ++ (Word: bitsAt): what a decoder reads back from an encoder's word. -/
namespace Sys2Proof

/-- A field that lies in the lower part. -/
theorem bitsAt_append_lo {v w : Nat} (a : BitVec v) (b : BitVec w) (lo n : Nat) (h : lo + n ≤ w) : bitsAt (a ++ b) lo n = bitsAt b lo n := by
  simp only [bitsAt]
  ext i hi
  simp only [BitVec.getElem_extractLsb', BitVec.getLsbD_append]
  simp [show lo + i < w by omega]
/-- A field that lies in the upper part. -/
theorem bitsAt_append_hi {v w : Nat} (a : BitVec v) (b : BitVec w) (lo n : Nat) (h : w ≤ lo) : bitsAt (a ++ b) lo n = bitsAt a (lo - w) n := by
  simp only [bitsAt]
  ext i hi
  simp only [BitVec.getElem_extractLsb', BitVec.getLsbD_append]
  simp [show ¬ lo + i < w by omega]
  congr 1; omega
/-- A field of a word set to 32 bits. -/
theorem bitsAt_widen {v : Nat} (a : BitVec v) (lo n : Nat) (h : lo + n ≤ 32) : bitsAt (a.setWidth 32) lo n = bitsAt a lo n := by
  simp only [bitsAt]
  ext i hi
  simp only [BitVec.getElem_extractLsb', BitVec.getLsbD_setWidth]
  simp [show lo + i < 32 by omega]
/-- The field that is the whole word. -/
@[simp] theorem bitsAt_all {n : Nat} (a : BitVec n) : bitsAt a 0 n = a := by
  simp only [bitsAt]
  ext i hi
  simp
/-- A bit of the lower part. -/
theorem bit_append_lo {v w : Nat} (a : BitVec v) (b : BitVec w) (i : Nat) (h : i < w) : (a ++ b).getLsbD i = b.getLsbD i := by
  simp [BitVec.getLsbD_append, h]
/-- A bit of the upper part. -/
theorem bit_append_hi {v w : Nat} (a : BitVec v) (b : BitVec w) (i : Nat) (h : w ≤ i) : (a ++ b).getLsbD i = a.getLsbD (i - w) := by
  simp [BitVec.getLsbD_append, show ¬ i < w by omega]
/-- A bit of a word set to 32 bits. -/
theorem bit_widen {v : Nat} (a : BitVec v) (i : Nat) (h : i < 32) : (a.setWidth 32).getLsbD i = a.getLsbD i := by
  simp [h]
/-- The bit of a flag. -/
@[simp] theorem bit_ofBool (b : Bool) : (BitVec.ofBool b).getLsbD 0 = b := by cases b <;> rfl

end Sys2Proof
end

