-- ==== Sys2Proof/Laws/Maps.lean ====
section
/-! SUPPORT. Laws of the sparse tables and byte memories: a read after a write, a write beside a read, and that every operation
keeps the canonical form. -/
namespace Sys2Proof.Machine

section
variable {α : Type} (d : α)

/-- Every key of a table is larger than k, and its keys rise. -/
def keysAbove (k : Nat) : SMap α → Prop
  | [] => True
  | e :: m => k < e.1 ∧ keysAbove e.1 m

theorem keysAbove_mono {j k : Nat} (h : j ≤ k) : ∀ {m : SMap α}, keysAbove k m → keysAbove j m
  | [], _ => trivial
  | _ :: _, hm => ⟨Nat.lt_of_le_of_lt h hm.1, hm.2⟩

/-- A key not above every key of a rising tail reads as unlisted. -/
theorem smGet_above {k j : Nat} (hj : j ≤ k) : ∀ {m : SMap α}, keysAbove k m → smGet d m j = d
  | [], _ => rfl
  | (k', v) :: m, h => by
    have h1 : k' ≠ j := by have := h.1; simp at this; omega
    simp only [smGet, h1, if_false]
    exact smGet_above (by have := h.1; simp at this; omega) h.2

/-- A read beside the key removed, and at it. -/
theorem smGet_filter (k j : Nat) (m : SMap α) :
    smGet d (m.filter (fun e => e.1 != k)) j = if j = k then d else smGet d m j := by
  induction m with
  | nil => simp [smGet]
  | cons e m ih =>
    obtain ⟨k', v⟩ := e
    by_cases h : k' = k
    · subst h
      simp only [List.filter_cons, bne_self_eq_false, Bool.false_eq_true, if_false, ih, smGet]
      split
      · rfl
      · next hj => rw [if_neg (fun h => hj h.symm)]
    · have hb : (k' != k) = true := by simpa using h
      simp only [List.filter_cons, hb, if_true, smGet, ih]
      by_cases hk : k' = j
      · subst hk; simp [h]
      · simp [hk]

/-- A read after an insertion of a key that the table does not list. -/
theorem smGet_smIns (k j : Nat) (v : α) (m : SMap α) (h : ∀ e ∈ m, e.1 ≠ k) :
    smGet d (smIns k v m) j = if j = k then v else smGet d m j := by
  induction m with
  | nil => by_cases h : k = j <;> simp [smIns, smGet, h, eq_comm]
  | cons e m ih =>
    obtain ⟨k', v'⟩ := e
    have hk : k' ≠ k := h _ (List.mem_cons_self ..)
    have ih := ih (fun e he => h e (List.mem_cons_of_mem _ he))
    simp only [smIns]
    split
    · simp only [smGet]
      by_cases hj : j = k
      · subst hj; simp
      · rw [if_neg (Ne.symm hj), if_neg hj]
    · simp only [smGet, ih]
      by_cases hj : j = k
      · subst hj; simp [hk]
      · simp [hj]

end

section
variable {α : Type} [DecidableEq α] (d : α)

/-- A read after a write: the value written at its key, the old one elsewhere. -/
theorem smGet_smSet (m : SMap α) (k j : Nat) (v : α) :
    smGet d (smSet d m k v) j = if j = k then v else smGet d m j := by
  unfold smSet
  by_cases hv : v = d
  · subst hv; simp [smGet_filter]
  · simp only [hv, if_false]
    rw [smGet_smIns d k j v _ (by intro e he; simpa using (List.mem_filter.1 he).2), smGet_filter]
    split <;> rfl

@[simp] theorem smGet_smSet_self (m : SMap α) (k : Nat) (v : α) : smGet d (smSet d m k v) k = v := by
  simp [smGet_smSet]

theorem smGet_smSet_ne (m : SMap α) {k j : Nat} (v : α) (h : j ≠ k) : smGet d (smSet d m k v) j = smGet d m j := by
  simp [smGet_smSet, h]

/-- The canonical form of a table with one entry more at its front. -/
theorem smWf_cons (k : Nat) (v : α) (m : SMap α) :
    smWf d ((k, v) :: m) = true ↔ v ≠ d ∧ keysAbove k m ∧ smWf d m = true := by
  cases m with
  | nil => simp [smWf, keysAbove]
  | cons e m =>
    obtain ⟨k', v'⟩ := e
    have hk : smWf d ((k', v') :: m) = true → keysAbove k' m := by
      cases m with
      | nil => intro _; trivial
      | cons e m =>
        intro h
        obtain ⟨k2, v2⟩ := e
        have h1 : k' < k2 ∧ smWf d ((k2, v2) :: m) = true := by
          simp only [smWf, Bool.and_eq_true, decide_eq_true_eq] at h; exact ⟨h.1.1, h.2⟩
        refine ⟨h1.1, ?_⟩
        clear h
        induction m generalizing k2 v2 k' v' with
        | nil => trivial
        | cons e m ih =>
          obtain ⟨k3, v3⟩ := e
          have h2 := h1.2
          simp only [smWf, Bool.and_eq_true, decide_eq_true_eq] at h2
          exact ⟨h2.1.1, ih k2 v2 k3 v3 ⟨h2.1.1, h2.2⟩⟩
    simp only [smWf, Bool.and_eq_true, decide_eq_true_eq, bne_iff_ne, keysAbove]
    constructor
    · rintro ⟨⟨h1, h2⟩, h3⟩; exact ⟨h2, ⟨h1, hk h3⟩, h3⟩
    · rintro ⟨h1, ⟨h2, _⟩, h3⟩; exact ⟨⟨h2, h1⟩, h3⟩

omit [DecidableEq α] in
theorem keysAbove_filter (p : Nat × α → Bool) {k : Nat} : ∀ {m : SMap α}, keysAbove k m → keysAbove k (m.filter p)
  | [], _ => trivial
  | e :: m, h => by
    simp only [List.filter_cons]
    split
    · exact ⟨h.1, keysAbove_filter p h.2⟩
    · exact keysAbove_filter p (keysAbove_mono (Nat.le_of_lt h.1) h.2)

/-- Entries left out of a canonical table leave it canonical. -/
theorem smWf_filter (p : Nat × α → Bool) : ∀ {m : SMap α}, smWf d m = true → smWf d (m.filter p) = true
  | [], _ => rfl
  | (k, v) :: m, h => by
    obtain ⟨h1, h2, h3⟩ := (smWf_cons d k v m).1 h
    simp only [List.filter_cons]
    split
    · exact (smWf_cons d k v _).2 ⟨h1, keysAbove_filter p h2, smWf_filter p h3⟩
    · exact smWf_filter p h3

omit [DecidableEq α] in
theorem keysAbove_smIns {k j : Nat} (v : α) (hj : j < k) :
    ∀ {m : SMap α}, (∀ e ∈ m, e.1 ≠ k) → keysAbove j m → keysAbove j (smIns k v m)
  | [], _, _ => ⟨hj, trivial⟩
  | (k', v') :: m, hn, h => by
    have h1 := h.1
    have hk' : k' ≠ k := hn _ (List.mem_cons_self ..)
    simp only [smIns]
    split
    · next hk => exact ⟨hj, hk, h.2⟩
    · next hk =>
      exact ⟨h1, keysAbove_smIns v (by simp only at h1 ⊢; omega) (fun e he => hn e (List.mem_cons_of_mem _ he)) h.2⟩

/-- A new key put in its place keeps the canonical form. -/
theorem smWf_smIns {k : Nat} {v : α} (hv : v ≠ d) :
    ∀ {m : SMap α}, (∀ e ∈ m, e.1 ≠ k) → smWf d m = true → smWf d (smIns k v m) = true
  | [], _, _ => by simp [smIns, smWf, hv]
  | (k', v') :: m, hn, h => by
    obtain ⟨h1, h2, h3⟩ := (smWf_cons d k' v' m).1 h
    have hk' : k' ≠ k := hn _ (List.mem_cons_self ..)
    have hn' : ∀ e ∈ m, e.1 ≠ k := fun e he => hn e (List.mem_cons_of_mem _ he)
    simp only [smIns]
    split
    · next hk => exact (smWf_cons d _ _ _).2 ⟨hv, ⟨hk, h2⟩, h⟩
    · next hk => exact (smWf_cons d _ _ _).2 ⟨h1, keysAbove_smIns v (by omega) hn' h2, smWf_smIns hv hn' h3⟩

/-- A write keeps the canonical form. -/
theorem smWf_smSet {m : SMap α} (k : Nat) (v : α) (h : smWf d m = true) : smWf d (smSet d m k v) = true := by
  unfold smSet
  have hf := smWf_filter d (fun e => e.1 != k) h
  split
  · exact hf
  · next hv => exact smWf_smIns d hv (by intro e he; simpa using (List.mem_filter.1 he).2) hf

omit [DecidableEq α] in
/-- Entries after a write: the one written, or old ones. -/
theorem mem_smIns {k : Nat} {v : α} {e : Nat × α} : ∀ {m : SMap α}, e ∈ smIns k v m → e = (k, v) ∨ e ∈ m
  | [], h => by simpa [smIns] using h
  | (k', v') :: m, h => by
    simp only [smIns] at h
    split at h
    · simpa using h
    · rcases List.mem_cons.1 h with rfl | h
      · exact .inr (List.mem_cons_self ..)
      · rcases mem_smIns h with rfl | h
        · exact .inl rfl
        · exact .inr (List.mem_cons_of_mem _ h)

theorem mem_smSet {m : SMap α} {k : Nat} {v : α} {e : Nat × α} (h : e ∈ smSet d m k v) : e = (k, v) ∨ e ∈ m := by
  unfold smSet at h
  split at h
  · exact .inr (List.mem_filter.1 h).1
  · rcases mem_smIns h with rfl | h
    · exact .inl rfl
    · exact .inr (List.mem_filter.1 h).1

omit [DecidableEq α] in
/-- What a canonical table reads as is the default or one of its entries. -/
theorem smGet_mem (m : SMap α) (k : Nat) : smGet d m k = d ∨ (k, smGet d m k) ∈ m := by
  induction m with
  | nil => exact .inl rfl
  | cons e m ih =>
    obtain ⟨k', v⟩ := e
    simp only [smGet]
    split
    · next h => subst h; exact .inr (List.mem_cons_self ..)
    · rcases ih with h | h
      · exact .inl h
      · exact .inr (List.mem_cons_of_mem _ h)

end

/-! ## Byte memories -/

/-- A byte read after a byte written. -/
theorem memGet_memSet (m : Mem) (a b : Nat) (v : Byte) : memGet (memSet m a v) b = if b = a then v else memGet m b :=
  smGet_smSet 0 m a b v

/-- A byte outside the range written reads as before. -/
theorem memGet_memWrite_out (bs : List Byte) : ∀ (m : Mem) (a : Nat) {b : Nat}, (b < a ∨ a + bs.length ≤ b) →
    memGet (memWrite m a bs) b = memGet m b := by
  induction bs with
  | nil => intros; rfl
  | cons x bs ih =>
    intro m a b h
    simp only [memWrite, List.length_cons] at h ⊢
    rw [ih _ _ (by omega), memGet_memSet, if_neg (by omega)]

/-- A byte in the range written reads as written. -/
theorem memGet_memWrite_in (bs : List Byte) : ∀ (m : Mem) (a : Nat) {i : Nat} (h : i < bs.length),
    memGet (memWrite m a bs) (a + i) = bs[i] := by
  induction bs with
  | nil => intro m a i h; simp at h
  | cons x bs ih =>
    intro m a i h
    simp only [memWrite]
    cases i with
    | zero => rw [memGet_memWrite_out _ _ _ (by omega), memGet_memSet]; simp
    | succ i =>
      have := ih (memSet m a x) (a + 1) (i := i) (by simpa using h)
      rw [show a + (i + 1) = a + 1 + i by omega, this]; rfl

/-- A byte after a range is zeroed. -/
theorem memGet_memZero (m : Mem) (a n b : Nat) :
    memGet (memZero m a n) b = if a ≤ b ∧ b < a + n then 0 else memGet m b := by
  unfold memGet memZero
  induction m with
  | nil => simp [smGet]
  | cons e m ih =>
    obtain ⟨k, v⟩ := e
    simp only [List.filter_cons]
    split
    · next h =>
      simp only [smGet, ih]
      by_cases hk : k = b
      · subst hk
        have : ¬(a ≤ k ∧ k < a + n) := by simp at h; omega
        simp [this]
      · simp [hk]
    · next h =>
      simp only [smGet, ih]
      by_cases hk : k = b
      · subst hk
        have : a ≤ k ∧ k < a + n := by simp at h; omega
        simp [this]
      · simp [hk]

/-- Every operation on a byte memory keeps its canonical form. -/
theorem memSet_wf {m : Mem} (a : Nat) (v : Byte) (h : Memory.wf m = true) : Memory.wf (memSet m a v) = true :=
  smWf_smSet 0 a v h
theorem memWrite_wf (bs : List Byte) : ∀ {m : Mem} (a : Nat), Memory.wf m = true → Memory.wf (memWrite m a bs) = true := by
  induction bs with
  | nil => intro m a h; exact h
  | cons x bs ih => intro m a h; exact ih (a + 1) (memSet_wf a x h)
theorem memZero_wf {m : Mem} (a n : Nat) (h : Memory.wf m = true) : Memory.wf (memZero m a n) = true :=
  smWf_filter 0 _ h
theorem memFilter_wf {m : Mem} (p : Host.Cell → Bool) (h : Memory.wf m = true) : Memory.wf (m.filter p) = true :=
  smWf_filter 0 p h

end Sys2Proof.Machine
end

