-- ==== Sys2Proof/Laws/State.lean ====
section
/-! SUPPORT. The accessors after the named changes: what was changed is there, and everything else stands. -/
namespace Sys2Proof.Machine

theorem coreKey_inj {c d : CoreId} : coreKey c = coreKey d ↔ c = d := by
  refine ⟨fun h => ?_, fun h => h ▸ rfl⟩
  obtain ⟨⟨a, ha⟩, ⟨b, hb⟩⟩ := c
  obtain ⟨⟨a', ha'⟩, ⟨b', hb'⟩⟩ := d
  simp only [coreKey] at h
  have h1 : a = a' := by omega
  have h2 : b = b' := by omega
  subst h1; subst h2; rfl

/-- A core after a change to one of them. -/
theorem getCore_modCore (c d : CoreId) (f : Core → Core) (s : State) :
    getCore (modCore c f s) d = if d = c then f (getCore s c) else getCore s d := by
  unfold getCore modCore setCore
  rw [smGet_smSet]
  by_cases h : d = c
  · simp [h, getCore]
  · simp [h, coreKey_inj]
@[simp] theorem getCore_modCore_self (c : CoreId) (f : Core → Core) (s : State) : getCore (modCore c f s) c = f (getCore s c) := by
  simp [getCore_modCore]
theorem getCore_modCore_ne {c d : CoreId} (f : Core → Core) (s : State) (h : d ≠ c) : getCore (modCore c f s) d = getCore s d := by
  simp [getCore_modCore, h]
/-- A cluster after a change to one of them. -/
theorem getClus_modClus (p q : PClus) (f : Cluster → Cluster) (s : State) :
    getClus (modClus p f s) q = if q = p then f (getClus s p) else getClus s q := by
  unfold getClus modClus setClus
  rw [smGet_smSet]
  by_cases h : q = p
  · simp [h, getClus]
  · simp [h, Fin.val_inj]
@[simp] theorem getClus_modClus_self (p : PClus) (f : Cluster → Cluster) (s : State) :
    getClus (modClus p f s) p = f (getClus s p) := by simp [getClus_modClus]
theorem getClus_modClus_ne {p q : PClus} (f : Cluster → Cluster) (s : State) (h : q ≠ p) :
    getClus (modClus p f s) q = getClus s q := by simp [getClus_modClus, h]

theorem vget_set {α : Type} {n : Nat} (v : Vector α n) (i j : Fin n) (a : α) : (v.set i a).get j = if j = i then a else v.get j := by
  show (v.set i a)[j.val] = if j = i then a else v[j.val]
  rw [Vector.getElem_set]
  by_cases h : j = i
  · simp [h]
  · have : i.val ≠ j.val := fun e => h (Fin.ext e.symm)
    simp [h, this]
/-- A sequencer after a change to one of them. -/
theorem getSeq_modSeq (m k : Massif) (f : SeqSt → SeqSt) (s : State) :
    getSeq (modSeq m f s) k = if k = m then f (getSeq s m) else getSeq s k := by
  simp only [getSeq, modSeq, vget_set]
  by_cases h : k = m <;> simp [h]
@[simp] theorem getSeq_modSeq_self (m : Massif) (f : SeqSt → SeqSt) (s : State) : getSeq (modSeq m f s) m = f (getSeq s m) := by
  simp [getSeq_modSeq]
@[simp] theorem getMassif_modSeq (m k : Massif) (f : SeqSt → SeqSt) (s : State) : getMassif (modSeq m f s) k = getMassif s k := by
  simp only [getMassif, modSeq, vget_set]
  by_cases h : k = m <;> simp [h]
/-- A massif after a change to one of them. -/
theorem getMassif_modMassif (m k : Massif) (f : MassifSt → MassifSt) (s : State) :
    getMassif (modMassif m f s) k = if k = m then f (getMassif s m) else getMassif s k := by
  simp only [getMassif, modMassif, vget_set]
  by_cases h : k = m <;> simp [h]
@[simp] theorem getMassif_modMassif_self (m : Massif) (f : MassifSt → MassifSt) (s : State) :
    getMassif (modMassif m f s) m = f (getMassif s m) := by simp [getMassif_modMassif]
@[simp] theorem getSeq_modMassif (m k : Massif) (f : MassifSt → MassifSt) (s : State) : getSeq (modMassif m f s) k = getSeq s k := by
  simp only [getSeq, modMassif, vget_set]
  by_cases h : k = m <;> simp [h]
/-- A col after a change to one of them. -/
theorem getCol_modCol (c d : Col) (f : ColSt → ColSt) (s : State) :
    getCol (modCol c f s) d = if d = c then f (getCol s c) else getCol s d := by
  simp only [getCol, modCol, vget_set]
@[simp] theorem getCol_modCol_self (c : Col) (f : ColSt → ColSt) (s : State) : getCol (modCol c f s) c = f (getCol s c) := by
  simp [getCol_modCol]
/-- The header of a page after an event is raised in one. -/
theorem evt_raiseEvt (p q o : Nat) (s : State) : smGet Evt.reset (raiseEvt p o s).evts q =
    if q = p then { smGet Evt.reset s.evts p with
        pending := true, count := satInc 32 (smGet Evt.reset s.evts p).count
        word := if (smGet Evt.reset s.evts p).pending then (smGet Evt.reset s.evts p).word else BitVec.ofNat 9 (o / 8) }
    else smGet Evt.reset s.evts q := by
  unfold raiseEvt
  simp only [smGet_smSet]

/-! ## What a change leaves -/

@[simp] theorem modCore_pending (c : CoreId) (f : Core → Core) (s : State) : (modCore c f s).pending = s.pending := rfl
@[simp] theorem modCore_clusters (c : CoreId) (f : Core → Core) (s : State) : (modCore c f s).clusters = s.clusters := rfl
@[simp] theorem modCore_seqs (c : CoreId) (f : Core → Core) (s : State) : (modCore c f s).seqs = s.seqs := rfl
@[simp] theorem modCore_store (c : CoreId) (f : Core → Core) (s : State) : (modCore c f s).store = s.store := rfl
@[simp] theorem modCore_tb (c : CoreId) (f : Core → Core) (s : State) : (modCore c f s).tb = s.tb := rfl
@[simp] theorem modCore_scrub (c : CoreId) (f : Core → Core) (s : State) : (modCore c f s).scrub = s.scrub := rfl
@[simp] theorem modCore_tc (c : CoreId) (f : Core → Core) (s : State) : (modCore c f s).tc = s.tc := rfl
@[simp] theorem modCore_trk (c : CoreId) (f : Core → Core) (s : State) : (modCore c f s).trk = s.trk := rfl
@[simp] theorem modCore_err (c : CoreId) (f : Core → Core) (s : State) : (modCore c f s).err = s.err := rfl
@[simp] theorem modCore_evts (c : CoreId) (f : Core → Core) (s : State) : (modCore c f s).evts = s.evts := rfl
@[simp] theorem modCore_cols (c : CoreId) (f : Core → Core) (s : State) : (modCore c f s).cols = s.cols := rfl
@[simp] theorem modCore_ridge (c : CoreId) (f : Core → Core) (s : State) : (modCore c f s).ridge = s.ridge := rfl
@[simp] theorem modCore_disc (c : CoreId) (f : Core → Core) (s : State) : (modCore c f s).disc = s.disc := rfl
@[simp] theorem modCore_itest (c : CoreId) (f : Core → Core) (s : State) : (modCore c f s).itest = s.itest := rfl
@[simp] theorem modCore_jtag (c : CoreId) (f : Core → Core) (s : State) : (modCore c f s).jtag = s.jtag := rfl
@[simp] theorem modCore_pm (c : CoreId) (f : Core → Core) (s : State) : (modCore c f s).pm = s.pm := rfl
@[simp] theorem modCore_therm (c : CoreId) (f : Core → Core) (s : State) : (modCore c f s).therm = s.therm := rfl
@[simp] theorem modCore_fuse (c : CoreId) (f : Core → Core) (s : State) : (modCore c f s).fuse = s.fuse := rfl
@[simp] theorem modCore_bring (c : CoreId) (f : Core → Core) (s : State) : (modCore c f s).bring = s.bring := rfl
@[simp] theorem modCore_ident (c : CoreId) (f : Core → Core) (s : State) : (modCore c f s).ident = s.ident := rfl
@[simp] theorem modCore_pins (c : CoreId) (f : Core → Core) (s : State) : (modCore c f s).pins = s.pins := rfl
@[simp] theorem modCore_net (c : CoreId) (f : Core → Core) (s : State) : (modCore c f s).net = s.net := rfl
@[simp] theorem modCore_netNext (c : CoreId) (f : Core → Core) (s : State) : (modCore c f s).netNext = s.netNext := rfl
@[simp] theorem modCore_netWait (c : CoreId) (f : Core → Core) (s : State) : (modCore c f s).netWait = s.netWait := rfl
@[simp] theorem getClus_modCore (c : CoreId) (f : Core → Core) (s : State) (x : PClus) : getClus (modCore c f s) x = getClus s x := rfl
@[simp] theorem getSeq_modCore (c : CoreId) (f : Core → Core) (s : State) (x : Massif) : getSeq (modCore c f s) x = getSeq s x := rfl
@[simp] theorem getMassif_modCore (c : CoreId) (f : Core → Core) (s : State) (x : Massif) : getMassif (modCore c f s) x = getMassif s x := rfl
@[simp] theorem getCol_modCore (c : CoreId) (f : Core → Core) (s : State) (x : Col) : getCol (modCore c f s) x = getCol s x := rfl
@[simp] theorem awake_modCore (c : CoreId) (f : Core → Core) (s : State) : awake (modCore c f s) = awake s := rfl

@[simp] theorem modClus_pending (p : PClus) (f : Cluster → Cluster) (s : State) : (modClus p f s).pending = s.pending := rfl
@[simp] theorem modClus_cores (p : PClus) (f : Cluster → Cluster) (s : State) : (modClus p f s).cores = s.cores := rfl
@[simp] theorem modClus_seqs (p : PClus) (f : Cluster → Cluster) (s : State) : (modClus p f s).seqs = s.seqs := rfl
@[simp] theorem modClus_store (p : PClus) (f : Cluster → Cluster) (s : State) : (modClus p f s).store = s.store := rfl
@[simp] theorem modClus_tb (p : PClus) (f : Cluster → Cluster) (s : State) : (modClus p f s).tb = s.tb := rfl
@[simp] theorem modClus_scrub (p : PClus) (f : Cluster → Cluster) (s : State) : (modClus p f s).scrub = s.scrub := rfl
@[simp] theorem modClus_tc (p : PClus) (f : Cluster → Cluster) (s : State) : (modClus p f s).tc = s.tc := rfl
@[simp] theorem modClus_trk (p : PClus) (f : Cluster → Cluster) (s : State) : (modClus p f s).trk = s.trk := rfl
@[simp] theorem modClus_err (p : PClus) (f : Cluster → Cluster) (s : State) : (modClus p f s).err = s.err := rfl
@[simp] theorem modClus_evts (p : PClus) (f : Cluster → Cluster) (s : State) : (modClus p f s).evts = s.evts := rfl
@[simp] theorem modClus_cols (p : PClus) (f : Cluster → Cluster) (s : State) : (modClus p f s).cols = s.cols := rfl
@[simp] theorem modClus_ridge (p : PClus) (f : Cluster → Cluster) (s : State) : (modClus p f s).ridge = s.ridge := rfl
@[simp] theorem modClus_disc (p : PClus) (f : Cluster → Cluster) (s : State) : (modClus p f s).disc = s.disc := rfl
@[simp] theorem modClus_itest (p : PClus) (f : Cluster → Cluster) (s : State) : (modClus p f s).itest = s.itest := rfl
@[simp] theorem modClus_jtag (p : PClus) (f : Cluster → Cluster) (s : State) : (modClus p f s).jtag = s.jtag := rfl
@[simp] theorem modClus_pm (p : PClus) (f : Cluster → Cluster) (s : State) : (modClus p f s).pm = s.pm := rfl
@[simp] theorem modClus_therm (p : PClus) (f : Cluster → Cluster) (s : State) : (modClus p f s).therm = s.therm := rfl
@[simp] theorem modClus_fuse (p : PClus) (f : Cluster → Cluster) (s : State) : (modClus p f s).fuse = s.fuse := rfl
@[simp] theorem modClus_bring (p : PClus) (f : Cluster → Cluster) (s : State) : (modClus p f s).bring = s.bring := rfl
@[simp] theorem modClus_ident (p : PClus) (f : Cluster → Cluster) (s : State) : (modClus p f s).ident = s.ident := rfl
@[simp] theorem modClus_pins (p : PClus) (f : Cluster → Cluster) (s : State) : (modClus p f s).pins = s.pins := rfl
@[simp] theorem modClus_net (p : PClus) (f : Cluster → Cluster) (s : State) : (modClus p f s).net = s.net := rfl
@[simp] theorem modClus_netNext (p : PClus) (f : Cluster → Cluster) (s : State) : (modClus p f s).netNext = s.netNext := rfl
@[simp] theorem modClus_netWait (p : PClus) (f : Cluster → Cluster) (s : State) : (modClus p f s).netWait = s.netWait := rfl
@[simp] theorem getCore_modClus (p : PClus) (f : Cluster → Cluster) (s : State) (x : CoreId) : getCore (modClus p f s) x = getCore s x := rfl
@[simp] theorem getSeq_modClus (p : PClus) (f : Cluster → Cluster) (s : State) (x : Massif) : getSeq (modClus p f s) x = getSeq s x := rfl
@[simp] theorem getMassif_modClus (p : PClus) (f : Cluster → Cluster) (s : State) (x : Massif) : getMassif (modClus p f s) x = getMassif s x := rfl
@[simp] theorem getCol_modClus (p : PClus) (f : Cluster → Cluster) (s : State) (x : Col) : getCol (modClus p f s) x = getCol s x := rfl
@[simp] theorem awake_modClus (p : PClus) (f : Cluster → Cluster) (s : State) : awake (modClus p f s) = awake s := rfl

@[simp] theorem modSeq_pending (m : Massif) (f : SeqSt → SeqSt) (s : State) : (modSeq m f s).pending = s.pending := rfl
@[simp] theorem modSeq_cores (m : Massif) (f : SeqSt → SeqSt) (s : State) : (modSeq m f s).cores = s.cores := rfl
@[simp] theorem modSeq_clusters (m : Massif) (f : SeqSt → SeqSt) (s : State) : (modSeq m f s).clusters = s.clusters := rfl
@[simp] theorem modSeq_store (m : Massif) (f : SeqSt → SeqSt) (s : State) : (modSeq m f s).store = s.store := rfl
@[simp] theorem modSeq_tb (m : Massif) (f : SeqSt → SeqSt) (s : State) : (modSeq m f s).tb = s.tb := rfl
@[simp] theorem modSeq_scrub (m : Massif) (f : SeqSt → SeqSt) (s : State) : (modSeq m f s).scrub = s.scrub := rfl
@[simp] theorem modSeq_tc (m : Massif) (f : SeqSt → SeqSt) (s : State) : (modSeq m f s).tc = s.tc := rfl
@[simp] theorem modSeq_trk (m : Massif) (f : SeqSt → SeqSt) (s : State) : (modSeq m f s).trk = s.trk := rfl
@[simp] theorem modSeq_err (m : Massif) (f : SeqSt → SeqSt) (s : State) : (modSeq m f s).err = s.err := rfl
@[simp] theorem modSeq_evts (m : Massif) (f : SeqSt → SeqSt) (s : State) : (modSeq m f s).evts = s.evts := rfl
@[simp] theorem modSeq_cols (m : Massif) (f : SeqSt → SeqSt) (s : State) : (modSeq m f s).cols = s.cols := rfl
@[simp] theorem modSeq_ridge (m : Massif) (f : SeqSt → SeqSt) (s : State) : (modSeq m f s).ridge = s.ridge := rfl
@[simp] theorem modSeq_disc (m : Massif) (f : SeqSt → SeqSt) (s : State) : (modSeq m f s).disc = s.disc := rfl
@[simp] theorem modSeq_itest (m : Massif) (f : SeqSt → SeqSt) (s : State) : (modSeq m f s).itest = s.itest := rfl
@[simp] theorem modSeq_jtag (m : Massif) (f : SeqSt → SeqSt) (s : State) : (modSeq m f s).jtag = s.jtag := rfl
@[simp] theorem modSeq_pm (m : Massif) (f : SeqSt → SeqSt) (s : State) : (modSeq m f s).pm = s.pm := rfl
@[simp] theorem modSeq_therm (m : Massif) (f : SeqSt → SeqSt) (s : State) : (modSeq m f s).therm = s.therm := rfl
@[simp] theorem modSeq_fuse (m : Massif) (f : SeqSt → SeqSt) (s : State) : (modSeq m f s).fuse = s.fuse := rfl
@[simp] theorem modSeq_bring (m : Massif) (f : SeqSt → SeqSt) (s : State) : (modSeq m f s).bring = s.bring := rfl
@[simp] theorem modSeq_ident (m : Massif) (f : SeqSt → SeqSt) (s : State) : (modSeq m f s).ident = s.ident := rfl
@[simp] theorem modSeq_pins (m : Massif) (f : SeqSt → SeqSt) (s : State) : (modSeq m f s).pins = s.pins := rfl
@[simp] theorem modSeq_net (m : Massif) (f : SeqSt → SeqSt) (s : State) : (modSeq m f s).net = s.net := rfl
@[simp] theorem modSeq_netNext (m : Massif) (f : SeqSt → SeqSt) (s : State) : (modSeq m f s).netNext = s.netNext := rfl
@[simp] theorem modSeq_netWait (m : Massif) (f : SeqSt → SeqSt) (s : State) : (modSeq m f s).netWait = s.netWait := rfl
@[simp] theorem getCore_modSeq (m : Massif) (f : SeqSt → SeqSt) (s : State) (x : CoreId) : getCore (modSeq m f s) x = getCore s x := rfl
@[simp] theorem getClus_modSeq (m : Massif) (f : SeqSt → SeqSt) (s : State) (x : PClus) : getClus (modSeq m f s) x = getClus s x := rfl
@[simp] theorem getCol_modSeq (m : Massif) (f : SeqSt → SeqSt) (s : State) (x : Col) : getCol (modSeq m f s) x = getCol s x := rfl
@[simp] theorem awake_modSeq (m : Massif) (f : SeqSt → SeqSt) (s : State) : awake (modSeq m f s) = awake s := rfl

@[simp] theorem modMassif_pending (m : Massif) (f : MassifSt → MassifSt) (s : State) : (modMassif m f s).pending = s.pending := rfl
@[simp] theorem modMassif_cores (m : Massif) (f : MassifSt → MassifSt) (s : State) : (modMassif m f s).cores = s.cores := rfl
@[simp] theorem modMassif_clusters (m : Massif) (f : MassifSt → MassifSt) (s : State) : (modMassif m f s).clusters = s.clusters := rfl
@[simp] theorem modMassif_store (m : Massif) (f : MassifSt → MassifSt) (s : State) : (modMassif m f s).store = s.store := rfl
@[simp] theorem modMassif_tb (m : Massif) (f : MassifSt → MassifSt) (s : State) : (modMassif m f s).tb = s.tb := rfl
@[simp] theorem modMassif_scrub (m : Massif) (f : MassifSt → MassifSt) (s : State) : (modMassif m f s).scrub = s.scrub := rfl
@[simp] theorem modMassif_tc (m : Massif) (f : MassifSt → MassifSt) (s : State) : (modMassif m f s).tc = s.tc := rfl
@[simp] theorem modMassif_trk (m : Massif) (f : MassifSt → MassifSt) (s : State) : (modMassif m f s).trk = s.trk := rfl
@[simp] theorem modMassif_err (m : Massif) (f : MassifSt → MassifSt) (s : State) : (modMassif m f s).err = s.err := rfl
@[simp] theorem modMassif_evts (m : Massif) (f : MassifSt → MassifSt) (s : State) : (modMassif m f s).evts = s.evts := rfl
@[simp] theorem modMassif_cols (m : Massif) (f : MassifSt → MassifSt) (s : State) : (modMassif m f s).cols = s.cols := rfl
@[simp] theorem modMassif_ridge (m : Massif) (f : MassifSt → MassifSt) (s : State) : (modMassif m f s).ridge = s.ridge := rfl
@[simp] theorem modMassif_disc (m : Massif) (f : MassifSt → MassifSt) (s : State) : (modMassif m f s).disc = s.disc := rfl
@[simp] theorem modMassif_itest (m : Massif) (f : MassifSt → MassifSt) (s : State) : (modMassif m f s).itest = s.itest := rfl
@[simp] theorem modMassif_jtag (m : Massif) (f : MassifSt → MassifSt) (s : State) : (modMassif m f s).jtag = s.jtag := rfl
@[simp] theorem modMassif_pm (m : Massif) (f : MassifSt → MassifSt) (s : State) : (modMassif m f s).pm = s.pm := rfl
@[simp] theorem modMassif_therm (m : Massif) (f : MassifSt → MassifSt) (s : State) : (modMassif m f s).therm = s.therm := rfl
@[simp] theorem modMassif_fuse (m : Massif) (f : MassifSt → MassifSt) (s : State) : (modMassif m f s).fuse = s.fuse := rfl
@[simp] theorem modMassif_bring (m : Massif) (f : MassifSt → MassifSt) (s : State) : (modMassif m f s).bring = s.bring := rfl
@[simp] theorem modMassif_ident (m : Massif) (f : MassifSt → MassifSt) (s : State) : (modMassif m f s).ident = s.ident := rfl
@[simp] theorem modMassif_pins (m : Massif) (f : MassifSt → MassifSt) (s : State) : (modMassif m f s).pins = s.pins := rfl
@[simp] theorem modMassif_net (m : Massif) (f : MassifSt → MassifSt) (s : State) : (modMassif m f s).net = s.net := rfl
@[simp] theorem modMassif_netNext (m : Massif) (f : MassifSt → MassifSt) (s : State) : (modMassif m f s).netNext = s.netNext := rfl
@[simp] theorem modMassif_netWait (m : Massif) (f : MassifSt → MassifSt) (s : State) : (modMassif m f s).netWait = s.netWait := rfl
@[simp] theorem getCore_modMassif (m : Massif) (f : MassifSt → MassifSt) (s : State) (x : CoreId) : getCore (modMassif m f s) x = getCore s x := rfl
@[simp] theorem getClus_modMassif (m : Massif) (f : MassifSt → MassifSt) (s : State) (x : PClus) : getClus (modMassif m f s) x = getClus s x := rfl
@[simp] theorem getCol_modMassif (m : Massif) (f : MassifSt → MassifSt) (s : State) (x : Col) : getCol (modMassif m f s) x = getCol s x := rfl
@[simp] theorem awake_modMassif (m : Massif) (f : MassifSt → MassifSt) (s : State) : awake (modMassif m f s) = awake s := rfl

@[simp] theorem modSummit_pending (m : Massif) (f : SummitSt → SummitSt) (s : State) : (modSummit m f s).pending = s.pending := rfl
@[simp] theorem modSummit_cores (m : Massif) (f : SummitSt → SummitSt) (s : State) : (modSummit m f s).cores = s.cores := rfl
@[simp] theorem modSummit_clusters (m : Massif) (f : SummitSt → SummitSt) (s : State) : (modSummit m f s).clusters = s.clusters := rfl
@[simp] theorem modSummit_store (m : Massif) (f : SummitSt → SummitSt) (s : State) : (modSummit m f s).store = s.store := rfl
@[simp] theorem modSummit_tb (m : Massif) (f : SummitSt → SummitSt) (s : State) : (modSummit m f s).tb = s.tb := rfl
@[simp] theorem modSummit_scrub (m : Massif) (f : SummitSt → SummitSt) (s : State) : (modSummit m f s).scrub = s.scrub := rfl
@[simp] theorem modSummit_tc (m : Massif) (f : SummitSt → SummitSt) (s : State) : (modSummit m f s).tc = s.tc := rfl
@[simp] theorem modSummit_trk (m : Massif) (f : SummitSt → SummitSt) (s : State) : (modSummit m f s).trk = s.trk := rfl
@[simp] theorem modSummit_err (m : Massif) (f : SummitSt → SummitSt) (s : State) : (modSummit m f s).err = s.err := rfl
@[simp] theorem modSummit_evts (m : Massif) (f : SummitSt → SummitSt) (s : State) : (modSummit m f s).evts = s.evts := rfl
@[simp] theorem modSummit_cols (m : Massif) (f : SummitSt → SummitSt) (s : State) : (modSummit m f s).cols = s.cols := rfl
@[simp] theorem modSummit_ridge (m : Massif) (f : SummitSt → SummitSt) (s : State) : (modSummit m f s).ridge = s.ridge := rfl
@[simp] theorem modSummit_disc (m : Massif) (f : SummitSt → SummitSt) (s : State) : (modSummit m f s).disc = s.disc := rfl
@[simp] theorem modSummit_itest (m : Massif) (f : SummitSt → SummitSt) (s : State) : (modSummit m f s).itest = s.itest := rfl
@[simp] theorem modSummit_jtag (m : Massif) (f : SummitSt → SummitSt) (s : State) : (modSummit m f s).jtag = s.jtag := rfl
@[simp] theorem modSummit_pm (m : Massif) (f : SummitSt → SummitSt) (s : State) : (modSummit m f s).pm = s.pm := rfl
@[simp] theorem modSummit_therm (m : Massif) (f : SummitSt → SummitSt) (s : State) : (modSummit m f s).therm = s.therm := rfl
@[simp] theorem modSummit_fuse (m : Massif) (f : SummitSt → SummitSt) (s : State) : (modSummit m f s).fuse = s.fuse := rfl
@[simp] theorem modSummit_bring (m : Massif) (f : SummitSt → SummitSt) (s : State) : (modSummit m f s).bring = s.bring := rfl
@[simp] theorem modSummit_ident (m : Massif) (f : SummitSt → SummitSt) (s : State) : (modSummit m f s).ident = s.ident := rfl
@[simp] theorem modSummit_pins (m : Massif) (f : SummitSt → SummitSt) (s : State) : (modSummit m f s).pins = s.pins := rfl
@[simp] theorem modSummit_net (m : Massif) (f : SummitSt → SummitSt) (s : State) : (modSummit m f s).net = s.net := rfl
@[simp] theorem modSummit_netNext (m : Massif) (f : SummitSt → SummitSt) (s : State) : (modSummit m f s).netNext = s.netNext := rfl
@[simp] theorem modSummit_netWait (m : Massif) (f : SummitSt → SummitSt) (s : State) : (modSummit m f s).netWait = s.netWait := rfl
@[simp] theorem getCore_modSummit (m : Massif) (f : SummitSt → SummitSt) (s : State) (x : CoreId) : getCore (modSummit m f s) x = getCore s x := rfl
@[simp] theorem getClus_modSummit (m : Massif) (f : SummitSt → SummitSt) (s : State) (x : PClus) : getClus (modSummit m f s) x = getClus s x := rfl
@[simp] theorem getCol_modSummit (m : Massif) (f : SummitSt → SummitSt) (s : State) (x : Col) : getCol (modSummit m f s) x = getCol s x := rfl
@[simp] theorem awake_modSummit (m : Massif) (f : SummitSt → SummitSt) (s : State) : awake (modSummit m f s) = awake s := rfl

@[simp] theorem modCol_pending (c : Col) (f : ColSt → ColSt) (s : State) : (modCol c f s).pending = s.pending := rfl
@[simp] theorem modCol_cores (c : Col) (f : ColSt → ColSt) (s : State) : (modCol c f s).cores = s.cores := rfl
@[simp] theorem modCol_clusters (c : Col) (f : ColSt → ColSt) (s : State) : (modCol c f s).clusters = s.clusters := rfl
@[simp] theorem modCol_seqs (c : Col) (f : ColSt → ColSt) (s : State) : (modCol c f s).seqs = s.seqs := rfl
@[simp] theorem modCol_store (c : Col) (f : ColSt → ColSt) (s : State) : (modCol c f s).store = s.store := rfl
@[simp] theorem modCol_tb (c : Col) (f : ColSt → ColSt) (s : State) : (modCol c f s).tb = s.tb := rfl
@[simp] theorem modCol_scrub (c : Col) (f : ColSt → ColSt) (s : State) : (modCol c f s).scrub = s.scrub := rfl
@[simp] theorem modCol_tc (c : Col) (f : ColSt → ColSt) (s : State) : (modCol c f s).tc = s.tc := rfl
@[simp] theorem modCol_trk (c : Col) (f : ColSt → ColSt) (s : State) : (modCol c f s).trk = s.trk := rfl
@[simp] theorem modCol_err (c : Col) (f : ColSt → ColSt) (s : State) : (modCol c f s).err = s.err := rfl
@[simp] theorem modCol_evts (c : Col) (f : ColSt → ColSt) (s : State) : (modCol c f s).evts = s.evts := rfl
@[simp] theorem modCol_ridge (c : Col) (f : ColSt → ColSt) (s : State) : (modCol c f s).ridge = s.ridge := rfl
@[simp] theorem modCol_disc (c : Col) (f : ColSt → ColSt) (s : State) : (modCol c f s).disc = s.disc := rfl
@[simp] theorem modCol_itest (c : Col) (f : ColSt → ColSt) (s : State) : (modCol c f s).itest = s.itest := rfl
@[simp] theorem modCol_jtag (c : Col) (f : ColSt → ColSt) (s : State) : (modCol c f s).jtag = s.jtag := rfl
@[simp] theorem modCol_pm (c : Col) (f : ColSt → ColSt) (s : State) : (modCol c f s).pm = s.pm := rfl
@[simp] theorem modCol_therm (c : Col) (f : ColSt → ColSt) (s : State) : (modCol c f s).therm = s.therm := rfl
@[simp] theorem modCol_fuse (c : Col) (f : ColSt → ColSt) (s : State) : (modCol c f s).fuse = s.fuse := rfl
@[simp] theorem modCol_bring (c : Col) (f : ColSt → ColSt) (s : State) : (modCol c f s).bring = s.bring := rfl
@[simp] theorem modCol_ident (c : Col) (f : ColSt → ColSt) (s : State) : (modCol c f s).ident = s.ident := rfl
@[simp] theorem modCol_pins (c : Col) (f : ColSt → ColSt) (s : State) : (modCol c f s).pins = s.pins := rfl
@[simp] theorem modCol_net (c : Col) (f : ColSt → ColSt) (s : State) : (modCol c f s).net = s.net := rfl
@[simp] theorem modCol_netNext (c : Col) (f : ColSt → ColSt) (s : State) : (modCol c f s).netNext = s.netNext := rfl
@[simp] theorem modCol_netWait (c : Col) (f : ColSt → ColSt) (s : State) : (modCol c f s).netWait = s.netWait := rfl
@[simp] theorem getCore_modCol (c : Col) (f : ColSt → ColSt) (s : State) (x : CoreId) : getCore (modCol c f s) x = getCore s x := rfl
@[simp] theorem getClus_modCol (c : Col) (f : ColSt → ColSt) (s : State) (x : PClus) : getClus (modCol c f s) x = getClus s x := rfl
@[simp] theorem getSeq_modCol (c : Col) (f : ColSt → ColSt) (s : State) (x : Massif) : getSeq (modCol c f s) x = getSeq s x := rfl
@[simp] theorem getMassif_modCol (c : Col) (f : ColSt → ColSt) (s : State) (x : Massif) : getMassif (modCol c f s) x = getMassif s x := rfl
@[simp] theorem awake_modCol (c : Col) (f : ColSt → ColSt) (s : State) : awake (modCol c f s) = awake s := rfl

@[simp] theorem raiseEvt_pending (p o : Nat) (s : State) : (raiseEvt p o s).pending = s.pending := rfl
@[simp] theorem raiseEvt_cores (p o : Nat) (s : State) : (raiseEvt p o s).cores = s.cores := rfl
@[simp] theorem raiseEvt_clusters (p o : Nat) (s : State) : (raiseEvt p o s).clusters = s.clusters := rfl
@[simp] theorem raiseEvt_seqs (p o : Nat) (s : State) : (raiseEvt p o s).seqs = s.seqs := rfl
@[simp] theorem raiseEvt_store (p o : Nat) (s : State) : (raiseEvt p o s).store = s.store := rfl
@[simp] theorem raiseEvt_tb (p o : Nat) (s : State) : (raiseEvt p o s).tb = s.tb := rfl
@[simp] theorem raiseEvt_scrub (p o : Nat) (s : State) : (raiseEvt p o s).scrub = s.scrub := rfl
@[simp] theorem raiseEvt_tc (p o : Nat) (s : State) : (raiseEvt p o s).tc = s.tc := rfl
@[simp] theorem raiseEvt_trk (p o : Nat) (s : State) : (raiseEvt p o s).trk = s.trk := rfl
@[simp] theorem raiseEvt_err (p o : Nat) (s : State) : (raiseEvt p o s).err = s.err := rfl
@[simp] theorem raiseEvt_cols (p o : Nat) (s : State) : (raiseEvt p o s).cols = s.cols := rfl
@[simp] theorem raiseEvt_ridge (p o : Nat) (s : State) : (raiseEvt p o s).ridge = s.ridge := rfl
@[simp] theorem raiseEvt_disc (p o : Nat) (s : State) : (raiseEvt p o s).disc = s.disc := rfl
@[simp] theorem raiseEvt_itest (p o : Nat) (s : State) : (raiseEvt p o s).itest = s.itest := rfl
@[simp] theorem raiseEvt_jtag (p o : Nat) (s : State) : (raiseEvt p o s).jtag = s.jtag := rfl
@[simp] theorem raiseEvt_pm (p o : Nat) (s : State) : (raiseEvt p o s).pm = s.pm := rfl
@[simp] theorem raiseEvt_therm (p o : Nat) (s : State) : (raiseEvt p o s).therm = s.therm := rfl
@[simp] theorem raiseEvt_fuse (p o : Nat) (s : State) : (raiseEvt p o s).fuse = s.fuse := rfl
@[simp] theorem raiseEvt_bring (p o : Nat) (s : State) : (raiseEvt p o s).bring = s.bring := rfl
@[simp] theorem raiseEvt_ident (p o : Nat) (s : State) : (raiseEvt p o s).ident = s.ident := rfl
@[simp] theorem raiseEvt_pins (p o : Nat) (s : State) : (raiseEvt p o s).pins = s.pins := rfl
@[simp] theorem raiseEvt_net (p o : Nat) (s : State) : (raiseEvt p o s).net = s.net := rfl
@[simp] theorem raiseEvt_netNext (p o : Nat) (s : State) : (raiseEvt p o s).netNext = s.netNext := rfl
@[simp] theorem raiseEvt_netWait (p o : Nat) (s : State) : (raiseEvt p o s).netWait = s.netWait := rfl
@[simp] theorem getCore_raiseEvt (p o : Nat) (s : State) (x : CoreId) : getCore (raiseEvt p o s) x = getCore s x := rfl
@[simp] theorem getClus_raiseEvt (p o : Nat) (s : State) (x : PClus) : getClus (raiseEvt p o s) x = getClus s x := rfl
@[simp] theorem getSeq_raiseEvt (p o : Nat) (s : State) (x : Massif) : getSeq (raiseEvt p o s) x = getSeq s x := rfl
@[simp] theorem getMassif_raiseEvt (p o : Nat) (s : State) (x : Massif) : getMassif (raiseEvt p o s) x = getMassif s x := rfl
@[simp] theorem getCol_raiseEvt (p o : Nat) (s : State) (x : Col) : getCol (raiseEvt p o s) x = getCol s x := rfl
@[simp] theorem awake_raiseEvt (p o : Nat) (s : State) : awake (raiseEvt p o s) = awake s := rfl

/-- A meaning that acts on an awake die does so. -/
theorem whenAwake_next {s : State} (h : awake s = true) (f : State → State) : whenAwake s f = .next (f s) := by
  simp [whenAwake, h]
/-- A die that does not act is left as it is. -/
theorem whenAwake_asleep {s : State} (h : awake s = false) (f : State → State) : whenAwake s f = .next s := by
  simp [whenAwake, h]

end Sys2Proof.Machine
end

