-- ==== Sys2Proof/Laws/Kept.lean ====
section
/-! SUPPORT. What the named operations over the die keep (Safety: Kept): the lemmas that every later frame is put together from. -/
set_option linter.all false
namespace Sys2Proof.Machine

theorem Kept.rfl' (s : State) : Kept s s := ⟨rfl, rfl, id, id⟩
theorem Kept.trans' {s t u : State} (h : Kept s t) (k : Kept t u) : Kept s u :=
  ⟨k.fuse.trans h.fuse, k.queue.trans h.queue, fun c => k.canon (h.canon c), fun l => k.limits (h.limits l)⟩

/-- The cores stand, and so do their limits. -/
theorem limits_same {s t : State} (hc : t.cores = s.cores) (h : s.Limits) : t.Limits :=
  ⟨fun c => by have k := h.core c; unfold getCore at k ⊢; rw [hc]; exact k⟩

/-- A change of nothing but the parts that no table holds. -/
theorem kept_same {s0 s t : State} (h : Kept s0 s) (hf : t.fuse = s.fuse) (hq : t.pending = s.pending) (hc : t.cores = s.cores)
    (hl : t.clusters = s.clusters) (he : t.evts = s.evts) (hw : t.store.words = s.store.words) : Kept s0 t :=
  ⟨hf.trans h.fuse, hq.trans h.queue, fun c => by
    have k := h.canon c
    exact ⟨hc ▸ k.cores, hl ▸ k.clusters, he ▸ k.evts, hw ▸ k.words, hc ▸ k.ledges⟩, fun l => limits_same (s := s) hc (h.limits l)⟩

/-- The same of a state written out. -/
theorem kept_mk {s0 s : State} {sq st tb sc tc tr er co ri di it jt pm th br id pi ne nn nw} (h : Kept s0 s)
    (hw : st.words = s.store.words) :
    Kept s0 (State.mk s.pending s.cores s.clusters sq st tb sc tc tr er s.evts co ri di it jt pm th s.fuse br id pi ne nn nw) :=
  kept_same h rfl rfl rfl rfl rfl hw

/-- The same, with store words that stay in canonical form. -/
theorem kept_words {s0 s : State} {sq st tb sc tc tr er co ri di it jt pm th br id pi ne nn nw} (h : Kept s0 s)
    (hw : smWf 0 s.store.words = true → smWf 0 st.words = true) :
    Kept s0 (State.mk s.pending s.cores s.clusters sq st tb sc tc tr er s.evts co ri di it jt pm th s.fuse br id pi ne nn nw) :=
  ⟨h.fuse, h.queue, fun c => by
    have k := h.canon c
    exact ⟨k.cores, k.clusters, k.evts, hw k.words, k.ledges⟩, fun l => limits_same (s := s) rfl (h.limits l)⟩
/-- The same, with page headers that stay in canonical form. -/
theorem kept_evts {s0 s : State} {sq st tb sc tc tr er ev co ri di it jt pm th br id pi ne nn nw} (h : Kept s0 s)
    (hw : st.words = s.store.words) (he : smWf Evt.reset s.evts = true → smWf Evt.reset ev = true) :
    Kept s0 (State.mk s.pending s.cores s.clusters sq st tb sc tc tr er ev co ri di it jt pm th s.fuse br id pi ne nn nw) :=
  ⟨h.fuse, h.queue, fun c => by
    have k := h.canon c
    exact ⟨k.cores, k.clusters, he k.evts, hw ▸ k.words, k.ledges⟩, fun l => limits_same (s := s) rfl (h.limits l)⟩

/-- A change to a state whose tables hold nothing. -/
theorem kept_fresh {s0 s t : State} (h : Kept s0 s) (hf : t.fuse = s.fuse) (hq : t.pending = s.pending) (hc : t.cores = [])
    (hl : t.clusters = []) (he : t.evts = []) (hw : t.store.words = []) : Kept s0 t := by
  refine ⟨hf.trans h.fuse, hq.trans h.queue, fun _ => ?_, fun _ => ⟨fun c => ?_⟩⟩
  · refine ⟨?_, ?_, ?_, ?_, ?_⟩
    · rw [hc]; rfl
    · rw [hl]; rfl
    · rw [he]; rfl
    · rw [hw]; rfl
    · rw [hc]; intro _ h; cases h
  · have e : smGet Core.reset [] (coreKey c) = Core.reset := rfl
    unfold getCore; rw [hc, e]; exact ⟨rfl, Nat.zero_le 8⟩

/-- Every core's ledge is canonical in a canonical state. -/
theorem State.Canon.ledge {s : State} (h : s.Canon) (c : CoreId) : Memory.wf (getCore s c).ledge.mem = true := by
  rcases smGet_mem Core.reset s.cores (coreKey c) with e | e
  · rw [getCore, e]; rfl
  · exact h.ledges _ e

/-- A core changed, whose limits hold after it. -/
theorem modCore_at {s0 s : State} {c : CoreId} {f : Core → Core}
    (hf : s0.Canon → ∀ k, Memory.wf k.ledge.mem = true → Memory.wf (f k).ledge.mem = true)
    (hl : s0.Limits → s.Limits → CoreLim (f (getCore s c))) (h : Kept s0 s) : Kept s0 (modCore c f s) :=
  ⟨h.fuse, h.queue, fun k => by
    have hf := hf k
    have k := h.canon k
    refine ⟨smWf_smSet _ _ _ k.cores, k.clusters, k.evts, k.words, ?_⟩
    intro e he
    rcases mem_smSet _ he with rfl | he
    · exact hf _ (k.ledge c)
    · exact k.ledges e he, fun l => ⟨fun d => by
      rw [getCore_modCore]; split
      · exact hl l (h.limits l)
      · exact (h.limits l).core d⟩⟩
theorem modCore_kept {s0 s : State} {c : CoreId} {f : Core → Core}
    (hf : s0.Canon → ∀ k, Memory.wf k.ledge.mem = true → Memory.wf (f k).ledge.mem = true)
    (hl : s0.Limits → ∀ k, CoreLim k → CoreLim (f k)) (h : Kept s0 s) : Kept s0 (modCore c f s) :=
  modCore_at hf (fun l k => hl l _ (k.core c)) h

theorem modClus_kept {s0 s : State} {p : PClus} {f : Cluster → Cluster} (h : Kept s0 s) : Kept s0 (modClus p f s) :=
  ⟨h.fuse, h.queue, fun k => by
    have k := h.canon k
    exact ⟨k.cores, smWf_smSet _ _ _ k.clusters, k.evts, k.words, k.ledges⟩, fun l => limits_same (s := s) rfl (h.limits l)⟩

theorem modSeq_kept {s0 s : State} {m : Massif} {f : SeqSt → SeqSt} (h : Kept s0 s) : Kept s0 (modSeq m f s) :=
  kept_same h rfl rfl rfl rfl rfl rfl
theorem modMassif_kept {s0 s : State} {m : Massif} {f : MassifSt → MassifSt} (h : Kept s0 s) : Kept s0 (modMassif m f s) :=
  kept_same h rfl rfl rfl rfl rfl rfl
theorem modSummit_kept {s0 s : State} {m : Massif} {f : SummitSt → SummitSt} (h : Kept s0 s) : Kept s0 (modSummit m f s) :=
  kept_same h rfl rfl rfl rfl rfl rfl
theorem modCol_kept {s0 s : State} {c : Col} {f : ColSt → ColSt} (h : Kept s0 s) : Kept s0 (modCol c f s) :=
  kept_same h rfl rfl rfl rfl rfl rfl
/-- The headers after an event is raised. -/
theorem raiseEvt_evts (p o : Nat) (s : State) : (raiseEvt p o s).evts =
    smSet Evt.reset s.evts p { smGet Evt.reset s.evts p with
      pending := true, count := satInc 32 (smGet Evt.reset s.evts p).count
      word := if (smGet Evt.reset s.evts p).pending then (smGet Evt.reset s.evts p).word else BitVec.ofNat 9 (o / 8) } := rfl
theorem raiseEvt_kept {s0 s : State} {p o : Nat} (h : Kept s0 s) : Kept s0 (raiseEvt p o s) :=
  ⟨h.fuse, h.queue, fun k => by
    have k := h.canon k
    exact ⟨k.cores, k.clusters, by rw [raiseEvt_evts]; exact smWf_smSet _ _ _ k.evts, k.words, k.ledges⟩,
    fun l => limits_same (s := s) rfl (h.limits l)⟩
theorem countAt_kept {s0 s : State} {pt code cls : Nat} {m : Option Massif} {n : Nat} (h : Kept s0 s) :
    Kept s0 (countAt pt code cls m n s) := by
  unfold countAt; split
  · exact h
  · exact kept_same h rfl rfl rfl rfl rfl rfl
theorem countCore_kept {s0 s : State} {c : CoreId} {code n : Nat} (h : Kept s0 s) : Kept s0 (countCore c code n s) :=
  countAt_kept h

/-- A fold of kept changes. -/
theorem foldl_kept {α : Type} {s0 s : State} {f : State → α → State} {l : List α}
    (hf : ∀ s a, Kept s0 s → Kept s0 (f s a)) (h : Kept s0 s) : Kept s0 (l.foldl f s) := by
  induction l generalizing s with
  | nil => exact h
  | cons a l ih => exact ih (hf s a h)
theorem foldr_kept {α : Type} {s0 s : State} {f : α → State → State} {l : List α}
    (hf : ∀ a s, Kept s0 s → Kept s0 (f a s)) (h : Kept s0 s) : Kept s0 (l.foldr f s) := by
  induction l with
  | nil => exact h
  | cons a l ih => exact hf a _ ih

/-- The state of an answer that a match has taken apart. -/
theorem kept_fst {α : Type} {s0 t : State} {x : State × α} {b : α} (e : x = (t, b)) (h : Kept s0 x.1) : Kept s0 t := by
  subst e; exact h
/-- An optional state, or another in its place. -/
theorem getD_kept {s0 d : State} {o : Option State} (ho : ∀ t, o = some t → Kept s0 t) (h : Kept s0 d) : Kept s0 (o.getD d) := by
  cases o with
  | none => exact h
  | some t => exact ho t rfl

/-- A meaning that acts only on an awake die. -/
theorem whenAwake_kept {s t : State} {f : State → State} (hf : ∀ {s0 s}, Kept s0 s → Kept s0 (f s))
    (h : whenAwake s f = .next t) : Kept s t := by
  unfold whenAwake at h
  injection h with h
  subst h
  split
  · exact hf (Kept.rfl' s)
  · exact Kept.rfl' s

end Sys2Proof.Machine
end

