-- ==== Sys2Proof/Laws/KeptLedge.lean ====
section
/-! SUPPORT. Every operation on a core or its ledge keeps the ledge in canonical form. -/
set_option linter.all false
namespace Sys2Proof.Machine

/-- A property that a fold keeps. -/
theorem foldl_inv {α β : Type} {P : β → Prop} {f : β → α → β} {l : List α} {b : β} (hf : ∀ b a, P b → P (f b a)) (h : P b) :
    P (l.foldl f b) := by
  induction l generalizing b with
  | nil => exact h
  | cons a l ih => exact ih (hf b a h)

/-! ## Ledges -/

theorem ledgeOor_mem (cls off : Nat) (req : BitVec 4) (l : LedgeSt) : (ledgeOor cls off req l).mem = l.mem := by
  unfold ledgeOor; dsimp only; (repeat' split) <;> rfl
theorem ledgePerr_mem (hits : List ParityHit) (l : LedgeSt) : (ledgePerr hits l).mem = l.mem := by
  unfold ledgePerr; dsimp only; (repeat' split) <;> rfl
theorem ledgeMark_mem (fs : List ReadFault) (req : BitVec 4) (line : Nat) (l : LedgeSt) : (ledgeMark fs req line l).mem = l.mem := by
  unfold ledgeMark
  refine foldl_inv (P := fun k : LedgeSt => k.mem = l.mem) (fun b a h => ?_) rfl
  dsimp only; split
  · exact h
  · exact h
theorem ledgeHeal_mem (off len : Nat) (l : LedgeSt) : (ledgeHeal off len l).mem = l.mem := by
  unfold ledgeHeal
  split
  · rfl
  · refine foldl_inv (P := fun k : LedgeSt => k.mem = l.mem) (fun b a h => ?_) rfl
    dsimp only; split
    · exact h
    · exact h
/-- A read leaves the bytes alone. -/
theorem ledgeRead_mem (env : Env) (req : BitVec 4) (off len : Nat) (l : LedgeSt) : (ledgeRead env req off len l).1.mem = l.mem := by
  unfold ledgeRead; dsimp only; split
  · rw [ledgePerr_mem, ledgeMark_mem]
  · exact ledgeOor_mem ..
theorem ledgeOors_mem (bad : List (Nat × Nat)) (req : BitVec 4) (l : LedgeSt) : (ledgeOors bad req l).mem = l.mem := by
  unfold ledgeOors; split
  · rfl
  · exact ledgeOor_mem ..
theorem ledgeReadShape_mem (env : Env) (req shape : BitVec 4) (stride : BitVec 13) (off len : Nat) (l : LedgeSt) :
    (ledgeReadShape env req shape stride off len l).1.mem = l.mem := by
  unfold ledgeReadShape
  split
  · rfl
  · split
    · exact ledgeRead_mem ..
    · have hm : ∀ ws : List Nat, (ws.foldl (fun l w => ledgeMark env.faults req (w / 16) l) l).mem = l.mem := fun ws =>
        foldl_inv (P := fun k : LedgeSt => k.mem = l.mem) (fun b a h => (ledgeMark_mem ..).trans h) rfl
      dsimp only
      rw [ledgeOors_mem, ledgePerr_mem, hm]
theorem ledgePerr_wf {hits : List ParityHit} {l : LedgeSt} (h : Memory.wf l.mem = true) :
    Memory.wf (ledgePerr hits l).mem = true := by rw [ledgePerr_mem]; exact h
theorem ledgeMark_wf {fs : List ReadFault} {req : BitVec 4} {line : Nat} {l : LedgeSt} (h : Memory.wf l.mem = true) :
    Memory.wf (ledgeMark fs req line l).mem = true := by rw [ledgeMark_mem]; exact h
/-- A fold of changes that keep a ledge canonical. -/
theorem foldl_wf {α : Type} {f : LedgeSt → α → LedgeSt} {as : List α} {l : LedgeSt}
    (hf : ∀ l a, Memory.wf l.mem = true → Memory.wf (f l a).mem = true) (h : Memory.wf l.mem = true) :
    Memory.wf (as.foldl f l).mem = true := foldl_inv (P := fun l : LedgeSt => Memory.wf l.mem = true) hf h
/-- A write inside the range writes its bytes; outside it, none. -/
theorem ledgeWrite_mem (env : Env) (req : BitVec 4) (off : Nat) (bs : List Byte) (l : LedgeSt) :
    (ledgeWrite env req off bs l).mem = if ledgeClass env.lines l off = 0 then memWrite l.mem off bs else l.mem := by
  unfold ledgeWrite; dsimp only; split
  · exact ledgeHeal_mem ..
  · exact ledgeOor_mem ..
theorem ledgeWrite_wf {env : Env} {req : BitVec 4} {off : Nat} {bs : List Byte} {l : LedgeSt} (h : Memory.wf l.mem = true) :
    Memory.wf (ledgeWrite env req off bs l).mem = true := by
  rw [ledgeWrite_mem]; split
  · exact memWrite_wf _ _ h
  · exact h
theorem ledgeWriteMask_wf {env : Env} {req : BitVec 4} {bytes : Mem} {mask : List Nat} {l : LedgeSt} (h : Memory.wf l.mem = true) :
    Memory.wf (ledgeWriteMask env req bytes mask l).mem = true := by
  unfold ledgeWriteMask
  have hm : ∀ ok : List Nat, Memory.wf (ok.foldl (fun m a => memSet m a (memGet bytes a)) l.mem) = true := fun ok =>
    foldl_inv (P := fun m : Mem => Memory.wf m = true) (fun b a h => memSet_wf _ _ h) h
  split
  · exact h
  · dsimp only
    rw [ledgeOors_mem]; exact hm _
theorem ledgeHeal_wf {off len : Nat} {l : LedgeSt} (h : Memory.wf l.mem = true) : Memory.wf (ledgeHeal off len l).mem = true := by
  rw [ledgeHeal_mem]; exact h
theorem cacheTouch_wf {i : Nat} {l : LedgeSt} (h : Memory.wf l.mem = true) : Memory.wf (cacheTouch i l).mem = true := h
theorem cacheClear_wf {l : LedgeSt} (h : Memory.wf l.mem = true) : Memory.wf (cacheClear l).mem = true := h
theorem cacheDrop_wf {va : Nat} {l : LedgeSt} (h : Memory.wf l.mem = true) : Memory.wf (cacheDrop va l).mem = true := by
  unfold cacheDrop; dsimp only; split
  · exact h
  · exact h
theorem startLedge_wf {lines : Nat} {a b : Bool} {l : LedgeSt} (h : Memory.wf l.mem = true) :
    Memory.wf (startLedge lines a b l).mem = true := h
theorem ledgeCleared_wf {l : LedgeSt} (h : Memory.wf l.mem = true) : Memory.wf (ledgeCleared l).mem = true := h
theorem ledgeKeep_wf {keep filled : BitVec 96} {l : LedgeSt} (h : Memory.wf l.mem = true) : Memory.wf (ledgeKeep keep filled l).mem = true :=
  memFilter_wf _ h
theorem ledgeTorn_wf {lines : Nat} {keep : BitVec 96} {key : BitVec 64} {l : LedgeSt} (h : Memory.wf l.mem = true) :
    Memory.wf (ledgeTorn lines keep key l).mem = true := memFilter_wf _ h

/-! ## Cores -/

theorem startCore_wf {lines : Nat} {a b : Bool} {k : Core} (h : Memory.wf k.ledge.mem = true) :
    Memory.wf (startCore lines a b k).ledge.mem = true := h
theorem coreCleared_wf {p : Bool} {k : Core} (h : Memory.wf k.ledge.mem = true) : Memory.wf (coreCleared p k).ledge.mem = true := h
theorem coreStopped_wf {k : Core} (h : Memory.wf k.ledge.mem = true) : Memory.wf (coreStopped k).ledge.mem = true := h
theorem gateCore_wf {k : Core} : Memory.wf (gateCore k).ledge.mem = true := rfl
theorem setLane_wf {a : Option (BitVec 5 × BitVec 6)} {k : Core} (h : Memory.wf k.ledge.mem = true) :
    Memory.wf (setLane a k).ledge.mem = true := h
theorem flagSet_ledge (flag : Nat) (k : Core) : (flagSet flag k).ledge = k.ledge := by unfold flagSet; split <;> rfl
theorem eventApply_ledge (k : Core) (e : NumEvent) : (eventApply k e).ledge = k.ledge := by
  unfold eventApply; split <;> first | rfl | exact flagSet_ledge ..
theorem eventsPost_ledge (l : List NumEvent) (k : Core) : (eventsPost l k).ledge = k.ledge := by
  unfold eventsPost
  refine foldl_inv (P := fun q : Core => q.ledge = k.ledge) (fun q e h => ?_) rfl
  dsimp only; split
  · exact h
  · exact (eventApply_ledge ..).trans h
theorem suspectClose_ledge (slot : Nat) (evs : List NumEvent) (k : Core) : (suspectClose slot evs k).ledge = k.ledge := by
  unfold suspectClose; split <;> exact eventsPost_ledge ..
theorem suspectNote_ledge (slot : Nat) (beat : BitVec 48) (step : Nat) (hs : List ParityHit) (k : Core) :
    (suspectNote slot beat step hs k).ledge = k.ledge := by unfold suspectNote; split <;> rfl
theorem rerunAdd_ledge (op : RerunOp) (off : Bool) (slot : Nat) (opcode : BitVec 6) (addr : BitVec 18) (beat commit : BitVec 48)
    (hs : List ParityHit) (k : Core) : (rerunAdd op off slot opcode addr beat commit hs k).ledge = k.ledge := rfl
theorem oneStep_ledge (slot : Nat) (opcode : BitVec 6) (t : Latched) (off : Bool) (op : RerunOp) (hs : List ParityHit)
    (commit : Core → Core) (k : Core) (hc : ∀ k, (commit k).ledge = k.ledge) :
    (oneStep slot opcode t off op hs commit k).ledge = k.ledge := by
  unfold oneStep; split
  · exact hc k
  · exact (rerunAdd_ledge ..).trans (suspectNote_ledge ..)

/-! ## Engines -/

theorem ledgeRead_wf {env : Env} {req : BitVec 4} {off len : Nat} {l : LedgeSt} (h : Memory.wf l.mem = true) :
    Memory.wf (ledgeRead env req off len l).1.mem = true := by rw [ledgeRead_mem]; exact h
theorem ledgeReadShape_wf {env : Env} {req shape : BitVec 4} {stride : BitVec 13} {off len : Nat} {l : LedgeSt}
    (h : Memory.wf l.mem = true) : Memory.wf (ledgeReadShape env req shape stride off len l).1.mem = true := by
  rw [ledgeReadShape_mem]; exact h
theorem ledgeOor_wf {cls off : Nat} {req : BitVec 4} {l : LedgeSt} (h : Memory.wf l.mem = true) :
    Memory.wf (ledgeOor cls off req l).mem = true := by rw [ledgeOor_mem]; exact h

theorem passReads_wf {env : Env} {p : MxePass} {s : Nat} {rs : List (Nat × Nat × Nat × Nat)}
    {b : MxeSt × LedgeSt × List ParityHit × Mem} (h : Memory.wf b.2.1.mem = true) :
    Memory.wf (rs.foldl (passRead env p s) b).2.1.mem = true :=
  foldl_inv (P := fun q : MxeSt × LedgeSt × List ParityHit × Mem => Memory.wf q.2.1.mem = true)
    (fun _ _ hb => ledgeRead_wf hb) h
theorem passPairLine_wf {env : Env} {pr : Progress} {p : MxePass} {m : MxeSt} {rows : List Nat} {addr : Nat} {l : LedgeSt}
    (h : Memory.wf l.mem = true) : Memory.wf (passPairLine env pr p m rows addr l).1.mem = true := ledgeWrite_wf h
theorem passPairs_wf {env : Env} {pr : Progress} {p : MxePass} {ok : Bool} {m : MxeSt} {l : LedgeSt} (h : Memory.wf l.mem = true) :
    Memory.wf (passPairs env pr p ok m l).1.mem = true := by
  unfold passPairs
  dsimp only
  (repeat' split) <;> first | exact passPairLine_wf h | exact h
theorem passStep_wf {env : Env} {pr : Progress} {p : MxePass} {ok : Bool} {m : MxeSt} {l : LedgeSt} (h : Memory.wf l.mem = true) :
    Memory.wf (passStep env pr p ok m l).2.1.mem = true := passPairs_wf (passReads_wf h)
theorem mxeStepOn_wf {env : Env} {pr : Progress} {r : MxeRun} {ok : Bool} {m : MxeSt} {l : LedgeSt} (h : Memory.wf l.mem = true) :
    Memory.wf (mxeStepOn env pr r ok m l).2.1.mem = true := by
  cases r with
  | pass p => exact passStep_wf h
  | _ => exact ledgeRead_wf h
theorem mxeStep_wf {env : Env} {pr : Progress} {r : MxeRun} {ok : Bool} {m : MxeSt} {l : LedgeSt} (h : Memory.wf l.mem = true) :
    Memory.wf (mxeStep env pr r ok m l).2.1.mem = true := by
  unfold mxeStep
  split
  · exact foldl_inv (P := fun q : LedgeSt × List ParityHit => Memory.wf q.1.mem = true) (fun _ _ hb => ledgeRead_wf hb) h
  · exact mxeStepOn_wf h
theorem eventsPost_wf {es : List NumEvent} {k : Core} (h : Memory.wf k.ledge.mem = true) :
    Memory.wf (eventsPost es k).ledge.mem = true := by rw [eventsPost_ledge]; exact h
theorem suspectClose_wf {slot : Nat} {evs : List NumEvent} {k : Core} (h : Memory.wf k.ledge.mem = true) :
    Memory.wf (suspectClose slot evs k).ledge.mem = true := by rw [suspectClose_ledge]; exact h
theorem suspectNote_wf {slot : Nat} {beat : BitVec 48} {step : Nat} {hs : List ParityHit} {k : Core}
    (h : Memory.wf k.ledge.mem = true) : Memory.wf (suspectNote slot beat step hs k).ledge.mem = true := by
  rw [suspectNote_ledge]; exact h
theorem oneStep_wf {slot : Nat} {opcode : BitVec 6} {t : Latched} {off : Bool} {op : RerunOp} {hs : List ParityHit}
    {commit : Core → Core} {k : Core} (hc : ∀ k, (commit k).ledge = k.ledge) (h : Memory.wf k.ledge.mem = true) :
    Memory.wf (oneStep slot opcode t off op hs commit k).ledge.mem = true := by
  rw [oneStep_ledge _ _ _ _ _ _ _ _ hc]; exact h
theorem ostStep_wf {env : Env} {pr : Progress} {r : OstRun} {m : MxeSt} {v : Mem} {o : OstSt} {l : LedgeSt}
    (h : Memory.wf l.mem = true) : Memory.wf (ostStep env pr r m v o l).2.2.1.mem = true := by
  unfold ostStep
  split
  · exact h
  · exact ledgeWriteMask_wf h
theorem mxeTake_wf {pr : Progress} {r : MxeRun} {q : MxeSt × LedgeSt × List NumEvent × List ParityHit} {hits : List ParityHit}
    {k : Core} (h : Memory.wf q.2.1.mem = true) : Memory.wf (mxeTake pr r q hits k).ledge.mem = true := h
theorem mxeDone_wf {pr : Progress} {r : MxeRun} {b : BitVec 48} {hits : List ParityHit} {k : Core}
    (h : Memory.wf k.ledge.mem = true) : Memory.wf (mxeDone pr r b hits k).ledge.mem = true := by
  unfold mxeDone; split
  · split <;> exact h
  · exact h
theorem mxeAdvance_wf {env : Env} {k : Core} (h : Memory.wf k.ledge.mem = true) : Memory.wf (mxeAdvance env k).ledge.mem = true := by
  unfold mxeAdvance
  split
  · exact h
  · exact mxeDone_wf (eventsPost_wf (suspectNote_wf (mxeTake_wf (mxeStep_wf h))))
theorem passFail_wf {pr : Progress} {p : MxePass} {c : Nat} {o : BitVec 6} {k : Core}
    (h : Memory.wf k.ledge.mem = true) : Memory.wf (passFail pr p c o k).ledge.mem = true := by
  unfold passFail; split
  · exact eventsPost_wf h
  · exact h
theorem passStart_wf {env : Env} {t : Latched} {p : MxePass} {o : BitVec 6} {inc : IssueSt → IssueSt} {k : Core}
    (h : Memory.wf k.ledge.mem = true) : Memory.wf (passStart env t p o inc k).1.ledge.mem = true := by
  unfold passStart
  dsimp only
  (repeat' split) <;> exact passFail_wf h
theorem mxeStart_wf {env : Env} {t : Latched} {op : MxeOp} {k : Core} (h : Memory.wf k.ledge.mem = true) :
    Memory.wf (mxeStart env t op k).1.ledge.mem = true := by
  unfold mxeStart
  dsimp only
  split
  · exact h
  · exact h
  · split <;> exact h
  · exact passStart_wf h
  · exact h
  · exact passStart_wf h
  · split <;> exact h
theorem mxeSlot_wf {env : Env} {t : Latched} {op : MxeOp} {k : Core} (h : Memory.wf k.ledge.mem = true) :
    Memory.wf (mxeSlot env t op k).ledge.mem = true := by
  unfold mxeSlot
  split
  · exact mxeAdvance_wf h
  · exact mxeAdvance_wf (mxeStart_wf (op := op) h)
theorem vxeLoad_wf {env : Env} {t : Latched} {a : VmemArgs} {b : Bool} {k : Core} (h : Memory.wf k.ledge.mem = true) :
    Memory.wf (vxeLoad env t a b k).ledge.mem = true := by
  unfold vxeLoad
  refine oneStep_wf (fun k => ?_) (ledgeRead_wf h)
  split <;> rfl
theorem vxeStore_wf {env : Env} {t : Latched} {a : VmemArgs} {b : Bool} {k : Core} (h : Memory.wf k.ledge.mem = true) :
    Memory.wf (vxeStore env t a b k).ledge.mem = true := by
  unfold vxeStore; split
  · exact ledgeWrite_wf h
  · exact h
theorem vxeStart_wf {env : Env} {t : Latched} {op : VxeOp} {k : Core} (h : Memory.wf k.ledge.mem = true) :
    Memory.wf (vxeStart env t op k).ledge.mem = true := by
  unfold vxeStart
  split
  · exact h
  · exact vxeLoad_wf h
  · exact vxeLoad_wf h
  · exact vxeStore_wf h
  · exact vxeStore_wf h
  · dsimp only; split <;> exact h
  · dsimp only; split <;> exact h
  · split
    · exact h
    · dsimp only; split
      · exact eventsPost_wf h
      · exact h
theorem vxeAdvance_wf {k : Core} (h : Memory.wf k.ledge.mem = true) : Memory.wf (vxeAdvance k).ledge.mem = true := by
  unfold vxeAdvance
  split
  · exact h
  · dsimp only; split
    · exact h
    · exact eventsPost_wf h
theorem vxeSlot_wf {env : Env} {t : Latched} {op : VxeOp} {k : Core} (h : Memory.wf k.ledge.mem = true) :
    Memory.wf (vxeSlot env t op k).ledge.mem = true := by
  unfold vxeSlot; split
  · exact vxeAdvance_wf h
  · exact vxeStart_wf h
theorem ostAdvance_wf {env : Env} {k : Core} (h : Memory.wf k.ledge.mem = true) : Memory.wf (ostAdvance env k).ledge.mem = true := by
  unfold ostAdvance
  split
  · exact h
  · exact eventsPost_wf (ostStep_wf h)
theorem ostFail_wf {pr : Progress} {c : Nat} {a : OcvtArgs} {k : Core} (h : Memory.wf k.ledge.mem = true) :
    Memory.wf (ostFail pr c a k).ledge.mem = true := by
  unfold ostFail; split
  · exact eventsPost_wf h
  · exact h
theorem ostStart_wf {env : Env} {t : Latched} {op : OstOp} {k : Core} (h : Memory.wf k.ledge.mem = true) :
    Memory.wf (ostStart env t op k).ledge.mem = true := by
  unfold ostStart
  split
  · exact h
  · refine oneStep_wf (fun k => ?_) (ledgeRead_wf h)
    split <;> rfl
  · exact ostFail_wf h
theorem ostSlot_wf {env : Env} {t : Latched} {op : OstOp} {k : Core} (h : Memory.wf k.ledge.mem = true) :
    Memory.wf (ostSlot env t op k).ledge.mem = true := by
  unfold ostSlot; split
  · exact ostAdvance_wf h
  · exact ostAdvance_wf (ostStart_wf h)
theorem bgStreak_wf {r w : Nat} {rp wp : Bool} {l : LedgeSt} (h : Memory.wf l.mem = true) :
    Memory.wf (bgStreak r w rp wp l).mem = true := h
theorem rerunReads_wf {env : Env} {r : Rerun} {as : List (Nat × Nat)} {q : LedgeSt × Nat × List ParityHit} (h : Memory.wf q.1.mem = true) :
    Memory.wf (rerunReads env r as q).1.mem = true := by
  induction as generalizing q with
  | nil => exact h
  | cons a as ih =>
    unfold rerunReads
    dsimp only
    split
    · exact ledgeRead_wf h
    · exact ih (ledgeRead_wf h)
theorem rerunSteps_wf {env : Env} {r : Rerun} {run : MxeRun} {n step : Nat} {o : RunOut} (h : Memory.wf o.l.mem = true) :
    Memory.wf (rerunSteps env r run n step o).l.mem = true := by
  induction n generalizing step o with
  | zero => exact h
  | succ n ih =>
    unfold rerunSteps
    dsimp only
    split
    · next e => have w := rerunReads_wf (env := env) (r := r) (as := mxeReads run step) (q := (o.l, 0, [])) h
                rw [e] at w; exact w
    · exact ih (mxeStep_wf h)

/-! ## Limits: predicate flag 0, and the epochs open (R73, R348) -/

theorem startCore_lim {lines : Nat} {a b : Bool} {k : Core} : CoreLim (startCore lines a b k) :=
  ⟨show (1#8).getLsbD 0 = true by decide, Nat.zero_le 8⟩
theorem coreCleared_lim {p : Bool} {k : Core} : CoreLim (coreCleared p k) :=
  ⟨show (1#8).getLsbD 0 = true by decide, Nat.zero_le 8⟩
theorem coreStopped_lim {k : Core} (h : CoreLim k) : CoreLim (coreStopped k) := h
theorem gateCore_lim {k : Core} : CoreLim (gateCore k) :=
  ⟨show (1#8).getLsbD 0 = true by decide, Nat.zero_le 8⟩
theorem setLane_lim {a : Option (BitVec 5 × BitVec 6)} {k : Core} (h : CoreLim k) : CoreLim (setLane a k) := h
/-- A core with the same issue state and epochs has the same limits. -/
theorem lim_of {k q : Core} (h : CoreLim k) (hi : q.issue = k.issue) (he : q.epoch = k.epoch) : CoreLim q := by
  unfold CoreLim; rw [hi, he]; exact h
theorem eventApply_lim {k : Core} {e : NumEvent} (h : CoreLim k) : CoreLim (eventApply k e) := by
  unfold eventApply flagSet; (repeat' split) <;> exact h
theorem eventsPost_lim {l : List NumEvent} {k : Core} (h : CoreLim k) : CoreLim (eventsPost l k) := by
  unfold eventsPost
  refine foldl_inv (P := CoreLim) (fun q e h => ?_) h
  split
  · exact h
  · exact eventApply_lim h
theorem suspectClose_lim {slot : Nat} {evs : List NumEvent} {k : Core} (h : CoreLim k) : CoreLim (suspectClose slot evs k) := by
  unfold suspectClose; split <;> exact eventsPost_lim h
theorem suspectNote_lim {slot : Nat} {beat : BitVec 48} {step : Nat} {hs : List ParityHit} {k : Core} (h : CoreLim k) :
    CoreLim (suspectNote slot beat step hs k) := by unfold suspectNote; split <;> exact h
theorem oneStep_lim {slot : Nat} {opcode : BitVec 6} {t : Latched} {off : Bool} {op : RerunOp} {hs : List ParityHit} {commit : Core → Core}
    {k : Core} (hc : ∀ k, CoreLim k → CoreLim (commit k)) (h : CoreLim k) : CoreLim (oneStep slot opcode t off op hs commit k) := by
  unfold oneStep; split
  · exact hc _ h
  · exact suspectNote_lim h
theorem mxeTake_lim {pr : Progress} {r : MxeRun} {q : MxeSt × LedgeSt × List NumEvent × List ParityHit} {hits : List ParityHit} {k : Core}
    (h : CoreLim k) : CoreLim (mxeTake pr r q hits k) := h
theorem mxeDone_lim {pr : Progress} {r : MxeRun} {b : BitVec 48} {hits : List ParityHit} {k : Core} (h : CoreLim k) :
    CoreLim (mxeDone pr r b hits k) := by unfold mxeDone; (repeat' split) <;> exact h
theorem mxeAdvance_lim {env : Env} {k : Core} (h : CoreLim k) : CoreLim (mxeAdvance env k) := by
  unfold mxeAdvance
  split
  · exact h
  · exact mxeDone_lim (eventsPost_lim (suspectNote_lim (mxeTake_lim h)))
theorem passFail_lim {pr : Progress} {p : MxePass} {c : Nat} {o : BitVec 6} {k : Core} (h : CoreLim k) : CoreLim (passFail pr p c o k) := by
  unfold passFail; split
  · exact eventsPost_lim h
  · exact h
/-- A pass takes its increment, which leaves the flags alone. -/
theorem passStart_lim {env : Env} {t : Latched} {p : MxePass} {o : BitVec 6} {inc : IssueSt → IssueSt} {k : Core}
    (hi : ∀ i, (inc i).pfs = i.pfs) (h : CoreLim k) : CoreLim (passStart env t p o inc k).1 := by
  unfold passStart
  generalize (if guardOn t 1 then mxeCheck env.mx6 p else 0) = code
  have w := passFail_lim (pr := startOp t (!guardOn t 1 || code != 0)) (p := p) (c := code) (o := o) h
  dsimp only
  generalize passFail (startOp t (!guardOn t 1 || code != 0)) p code o k = q at w ⊢
  split
  · exact w
  · exact ⟨by rw [hi]; exact w.1, w.2⟩
theorem mxeStart_lim {env : Env} {t : Latched} {op : MxeOp} {k : Core} (h : CoreLim k) : CoreLim (mxeStart env t op k).1 := by
  unfold mxeStart
  dsimp only
  split
  · exact h
  · exact h
  · split <;> exact h
  · next a =>
    refine passStart_lim (inc := fun i =>
      if a.winc then ofWrite a.base (latOf t a.base + BitVec.ofNat 48 (1024 * passWeightLines a.wcls (mwspPass t.ofs k.mxe a (extOf t 1)).ksteps)) i
      else i) (fun i => ?_) h
    split <;> rfl
  · exact h
  · exact passStart_lim (fun _ => rfl) h
  · split <;> exact h
theorem mxeSlot_lim {env : Env} {t : Latched} {op : MxeOp} {k : Core} (h : CoreLim k) : CoreLim (mxeSlot env t op k) := by
  unfold mxeSlot
  split
  · exact mxeAdvance_lim h
  · exact mxeAdvance_lim (mxeStart_lim (op := op) h)
theorem vmemInc_pfs (t : Latched) (a : VmemArgs) (n : Nat) (i : IssueSt) : (vmemInc t a n i).pfs = i.pfs := by
  unfold vmemInc; split <;> rfl
theorem vxeLoad_lim {env : Env} {t : Latched} {a : VmemArgs} {b : Bool} {k : Core} (h : CoreLim k) : CoreLim (vxeLoad env t a b k) := by
  unfold vxeLoad
  have w : CoreLim { k with
      ledge := (ledgeRead env 2 (latRef t 2 a.base a.d (vloadLen b)) (vloadLen b) k.ledge).1
      issue := if guardOn t 2 then vmemInc t a (vloadLen b) k.issue else k.issue } := by
    refine ⟨?_, h.2⟩
    dsimp only; split
    · rw [vmemInc_pfs]; exact h.1
    · exact h.1
  dsimp only
  refine oneStep_lim (fun k h => ?_) w
  split <;> exact h
theorem vxeStore_lim {env : Env} {t : Latched} {a : VmemArgs} {b : Bool} {k : Core} (h : CoreLim k) : CoreLim (vxeStore env t a b k) := by
  unfold vxeStore; split
  · exact ⟨by dsimp only; rw [vmemInc_pfs]; exact h.1, h.2⟩
  · exact h
/-- PF0 ignores writes (R73). -/
theorem pfWrite_pf0 (d : BitVec 3) (v : Bool) (i : IssueSt) (h : i.pfs.getLsbD 0 = true) : (pfWrite d v i).pfs.getLsbD 0 = true := by
  unfold pfWrite
  split
  · exact h
  · next hd =>
    have hd : d.toNat ≠ 0 := fun e => hd (by rw [beq_iff_eq]; exact BitVec.eq_of_toNat_eq e)
    dsimp only
    split
    · rw [BitVec.getLsbD_or, h, Bool.true_or]
    · rw [BitVec.getLsbD_and, h, BitVec.getLsbD_not, BitVec.getLsbD_shiftLeft]
      simp [Nat.pos_of_ne_zero hd]
theorem vxeStart_lim {env : Env} {t : Latched} {op : VxeOp} {k : Core} (h : CoreLim k) : CoreLim (vxeStart env t op k) := by
  unfold vxeStart
  split
  · exact h
  · exact vxeLoad_lim h
  · exact vxeLoad_lim h
  · exact vxeStore_lim h
  · exact vxeStore_lim h
  · dsimp only; split
    · exact ⟨pfWrite_pf0 _ _ _ h.1, h.2⟩
    · exact h
  · dsimp only; split <;> exact h
  · split
    · exact h
    · dsimp only; split
      · exact eventsPost_lim h
      · exact h
theorem vxeAdvance_lim {k : Core} (h : CoreLim k) : CoreLim (vxeAdvance k) := by
  unfold vxeAdvance
  split
  · exact h
  · dsimp only; split
    · exact h
    · exact eventsPost_lim h
theorem vxeSlot_lim {env : Env} {t : Latched} {op : VxeOp} {k : Core} (h : CoreLim k) : CoreLim (vxeSlot env t op k) := by
  unfold vxeSlot; split
  · exact vxeAdvance_lim h
  · exact vxeStart_lim h
theorem ostAdvance_lim {env : Env} {k : Core} (h : CoreLim k) : CoreLim (ostAdvance env k) := by
  unfold ostAdvance
  split
  · exact h
  · exact eventsPost_lim h
theorem ostFail_lim {pr : Progress} {c : Nat} {a : OcvtArgs} {k : Core} (h : CoreLim k) : CoreLim (ostFail pr c a k) := by
  unfold ostFail; split
  · exact eventsPost_lim h
  · exact h
theorem ostStart_lim {env : Env} {t : Latched} {op : OstOp} {k : Core} (h : CoreLim k) : CoreLim (ostStart env t op k) := by
  unfold ostStart
  split
  · exact h
  · refine oneStep_lim (fun k h => ?_) h
    split <;> exact h
  · next a =>
    dsimp only
    generalize (if guardOn t 3 then ostCheck env.mx6 a.src (a.r1.toNat + 1) (ostLatch k.ost a.c) else 0) = code
    have w := ostFail_lim (pr := startOp t (!guardOn t 3 || code != 0)) (c := code) (a := a) h
    generalize ostFail (startOp t (!guardOn t 3 || code != 0)) code a k = q at w ⊢
    refine ⟨?_, w.2⟩
    dsimp only; split <;> exact w.1
theorem ostSlot_lim {env : Env} {t : Latched} {op : OstOp} {k : Core} (h : CoreLim k) : CoreLim (ostSlot env t op k) := by
  unfold ostSlot; split
  · exact ostAdvance_lim h
  · exact ostAdvance_lim (ostStart_lim h)
end Sys2Proof.Machine
end

