-- ==== Sys2Proof/Laws/KeptNetwork.lean ====
section
/-! SUPPORT. What the definitions of Machine/Network.lean keep (Safety: Kept), one lemma each. -/
set_option linter.all false
namespace Sys2Proof.Machine

theorem flitsOut_kept {s0 s : State} {a0} {a1} {a2} {a3} {a4} (h : Kept s0 s) : Kept s0 (flitsOut a0 a1 a2 a3 a4 s) := by
  unfold flitsOut
  with_reducible repeat' (first | assumption | refine kept_fst (by assumption) ?_ | exact fun _ _ h => h | intro _ | split | apply modClus_kept | apply countAt_kept | refine kept_mk ?_ rfl)

theorem putCells_kept {s0 s : State} {a0} {a1} {a2} {a3} (h : Kept s0 s) : Kept s0 (putCells a0 a1 a2 a3 s) := by
  unfold putCells
  with_reducible repeat' (first | assumption | refine kept_fst (by assumption) ?_ | exact fun _ _ h => h | intro _ | split | apply modCol_kept | apply countAt_kept | refine kept_mk ?_ rfl)

theorem takeCells_kept {s0 s : State} {a0} {a1} {a2} {a3} (h : Kept s0 s) : Kept s0 (takeCells a0 a1 a2 a3 s) := by
  unfold takeCells
  with_reducible repeat' (first | assumption | refine kept_fst (by assumption) ?_ | exact fun _ _ h => h | intro _ | split | apply modCol_kept | apply countAt_kept | refine kept_mk ?_ rfl)

theorem alignStamp_kept {s0 s : State} {a0} (h : Kept s0 s) : Kept s0 (alignStamp a0 s) := by
  unfold alignStamp
  with_reducible repeat' (first | assumption | refine kept_fst (by assumption) ?_ | exact fun _ _ h => h | intro _ | split | refine kept_mk ?_ rfl)

theorem putWire_kept {s0 s : State} {a0} {a1} {a2} (h : Kept s0 s) : Kept s0 (putWire a0 a1 a2 s) := by
  unfold putWire
  with_reducible repeat' (first | assumption | refine kept_fst (by assumption) ?_ | exact fun _ _ h => h | intro _ | split | apply putCells_kept | apply modCol_kept | refine kept_mk ?_ rfl)

theorem putLink_kept {s0 s : State} {a0} {a1} (h : Kept s0 s) : Kept s0 (putLink a0 a1 s) := by
  unfold putLink
  with_reducible repeat' (first | assumption | refine kept_fst (by assumption) ?_ | exact fun _ _ h => h | intro _ | split | apply modCol_kept | refine kept_mk ?_ rfl)

theorem sendLink_kept {s0 s : State} {a0} {a1} (h : Kept s0 s) : Kept s0 (sendLink a0 a1 s) := by
  unfold sendLink
  with_reducible repeat' (first | assumption | refine kept_fst (by assumption) ?_ | exact fun _ _ h => h | intro _ | split | apply putCells_kept | apply putLink_kept | apply modCol_kept | refine kept_mk ?_ rfl)

theorem signalGone_kept {s0 s : State} {a0} (h : Kept s0 s) : Kept s0 (signalGone a0 s) := by
  unfold signalGone
  with_reducible repeat' (first | assumption | refine kept_fst (by assumption) ?_ | exact fun _ _ h => h | intro _ | split | apply modCore_kept | refine kept_mk ?_ rfl)

theorem pumpVc_kept {s0 s t : State} {a0} {a1} (h : Kept s0 s) (e : pumpVc a0 a1 s = some t) : Kept s0 t := by
  unfold pumpVc at e
  try dsimp only at e
  repeat' (first | contradiction | (injection e with e; subst e) | split at e)
  all_goals with_reducible repeat' (first | assumption | refine kept_fst (by assumption) ?_ | exact fun _ _ h => h | intro _ | split | apply alignStamp_kept | apply putWire_kept | apply signalGone_kept | apply modCol_kept | apply getD_kept | refine kept_mk ?_ rfl)

/-- Each state that a ready channel would leave. -/
theorem pumpReady_kept {s0 s : State} {c} (h : Kept s0 s) : ∀ e ∈ pumpReady c s, Kept s0 e.2 := by
  intro e he
  obtain ⟨vc, _, e'⟩ := List.mem_filterMap.mp he
  cases hp : pumpVc c vc s with
  | none => rw [hp] at e'; cases e'
  | some t => rw [hp] at e'; injection e' with e'; subst e'; exact pumpVc_kept h hp
theorem pump_kept {s0 s : State} {c} {n} (h : Kept s0 s) : Kept s0 (pump c n s) := by
  induction n generalizing s with
  | zero => exact h
  | succ n ih =>
    unfold pump
    dsimp only
    split
    · next vc t e =>
      refine ih (modCol_kept (pumpReady_kept (c := c) h (vc, t) ?_))
      rcases Option.or_eq_some_iff.mp e with e | ⟨-, e⟩
      · exact List.mem_of_find?_eq_some e
      · exact List.mem_of_mem_head? e
    · exact h

theorem pumpAll_kept {s0 s : State} {a0} (h : Kept s0 s) : Kept s0 (pumpAll a0 s) := by
  unfold pumpAll
  exact pump_kept (modCol_kept h)

theorem enqueue_kept {s0 s : State} {a0} {a1} (h : Kept s0 s) : Kept s0 (enqueue a0 a1 s) := by
  unfold enqueue
  with_reducible repeat' (first | assumption | refine kept_fst (by assumption) ?_ | exact fun _ _ h => h | intro _ | split | apply pumpAll_kept | apply modCol_kept | refine kept_mk ?_ rfl)

theorem enqueueLink_kept {s0 s : State} {a0} {a1} {a2} {a3} (h : Kept s0 s) : Kept s0 (enqueueLink a0 a1 a2 a3 s) := by
  unfold enqueueLink
  try dsimp only
  repeat' (first | with_reducible assumption | with_reducible refine kept_fst (by assumption) ?_ | with_reducible exact fun _ _ h => h | with_reducible exact fun _ h => h | with_reducible refine foldl_wf (fun _ _ _ => ?_) ?_ | with_reducible exact State.Canon.ledge (Kept.canon h (by with_reducible assumption)) _ | intro _ | split | with_reducible apply enqueue_kept | with_reducible apply foldl_kept | with_reducible apply getD_kept | with_reducible refine kept_mk ?_ rfl | exact (rfl : Core.ledge (id _) = _) | (show CoreLim (id _); assumption) | with_reducible refine kept_words ?_ (smWf_smSet _ _ _) | with_reducible refine kept_words ?_ (smWf_filter _) | with_reducible refine kept_words ?_ (fun _ => rfl) | with_reducible refine kept_evts ?_ rfl (smWf_smSet _ _ _))

theorem netPut_kept {s0 s : State} {a0} {a1} {a2} {a3} {a4} {a5} (h : Kept s0 s) : Kept s0 (netPut a0 a1 a2 a3 a4 a5 s) := by
  unfold netPut
  with_reducible repeat' (first | assumption | refine kept_fst (by assumption) ?_ | exact fun _ _ h => h | intro _ | split | refine kept_mk ?_ rfl)

theorem noteGrant_kept {s0 s : State} {a0} {a1} {a2} (h : Kept s0 s) : Kept s0 (noteGrant a0 a1 a2 s) := by
  unfold noteGrant
  with_reducible repeat' (first | assumption | refine kept_fst (by assumption) ?_ | exact fun _ _ h => h | refine foldl_wf (fun _ _ _ => ?_) ?_ | intro _ | split | apply flitsOut_kept | apply foldl_kept | refine kept_mk ?_ rfl)

theorem notePromoted_kept {s0 s : State} {a0} (h : Kept s0 s) : Kept s0 (notePromoted a0 s) := by
  unfold notePromoted
  with_reducible repeat' (first | assumption | refine kept_fst (by assumption) ?_ | exact fun _ _ h => h | intro _ | split | apply modClus_kept | refine kept_mk ?_ rfl)

theorem netMove_kept {s0 s : State} {a0} {a1} (h : Kept s0 s) : Kept s0 (netMove a0 a1 s) := by
  unfold netMove
  with_reducible repeat' (first | assumption | refine kept_fst (by assumption) ?_ | exact fun _ _ h => h | intro _ | split | apply noteGrant_kept | apply notePromoted_kept | refine kept_mk ?_ rfl)

theorem netFlit_kept {s0 s : State} {a0} {a1} (h : Kept s0 s) : Kept s0 (netFlit a0 a1 s) := by
  unfold netFlit
  dsimp only
  with_reducible repeat' (first | assumption | refine kept_fst (by assumption) ?_ | exact fun _ _ h => h | intro _ | split | apply enqueue_kept | apply noteGrant_kept | apply notePromoted_kept | refine kept_mk ?_ rfl)

theorem netDrive_kept {can : State → Packet → Bool} {a f : Nat} {s0 s : State} (h : Kept s0 s) : Kept s0 (netDrive can a f s).1 := by
  induction f generalizing a s with
  | zero => exact h
  | succ f ih =>
    unfold netDrive
    split
    · exact h
    · dsimp only; split
      · exact h
      · split
        · exact h
        · split
          · exact h
          · exact ih (netFlit_kept h)

theorem netSettle_kept {n : Nat} {s0 s : State} (h : Kept s0 s) : Kept s0 (netSettle n s) := by
  induction n generalizing s with
  | zero => exact h
  | succ n ih =>
    unfold netSettle
    split
    · next t e =>
      obtain ⟨p, _, e⟩ := List.exists_of_findSome?_eq_some e
      refine ih ?_
      split at e
      · dsimp only at e; split at e
        · cases e
        · injection e with e; subst e; exact netDrive_kept h
      · cases e
    · exact h

theorem netCross_kept {s0 s : State} {a0} {a1} {a2} {a3} {a4} {a5} (h : Kept s0 s) : Kept s0 (netCross a0 a1 a2 a3 a4 a5 s) := by
  unfold netCross
  exact netSettle_kept (netDrive_kept (netPut_kept h))

theorem ridgePass_kept {s0 s : State} {a0} {a1} {a2} {a3} {a4} {a5} (h : Kept s0 s) : Kept s0 (ridgePass a0 a1 a2 a3 a4 a5 s) := by
  unfold ridgePass
  with_reducible repeat' (first | assumption | refine kept_fst (by assumption) ?_ | exact fun _ _ h => h | intro _ | split | apply netCross_kept | refine kept_mk ?_ rfl)

theorem ridgeMove_kept {s0 s : State} {a0} {a1} {a2} {a3} {a4} (h : Kept s0 s) : Kept s0 (ridgeMove a0 a1 a2 a3 a4 s) := by
  unfold ridgeMove
  with_reducible repeat' (first | assumption | refine kept_fst (by assumption) ?_ | exact fun _ _ h => h | intro _ | split | apply ridgePass_kept | refine kept_mk ?_ rfl)

theorem ridgeDie_kept {s0 s : State} {a0} {a1} {a2} {a3} (h : Kept s0 s) : Kept s0 (ridgeDie a0 a1 a2 a3 s) := by
  unfold ridgeDie
  with_reducible repeat' (first | assumption | refine kept_fst (by assumption) ?_ | exact fun _ _ h => h | intro _ | split | apply ridgePass_kept | refine kept_mk ?_ rfl)

theorem noCol_kept {s0 s : State} {a0} {a1} (h : Kept s0 s) : Kept s0 (noCol a0 a1 s) := by
  unfold noCol
  with_reducible repeat' (first | assumption | refine kept_fst (by assumption) ?_ | exact fun _ _ h => h | intro _ | split | apply modCol_kept | apply getD_kept | refine kept_mk ?_ rfl)

theorem toCol_kept {s0 s : State} {a0} {a1} {a2} (h : Kept s0 s) : Kept s0 (toCol a0 a1 a2 s) := by
  unfold toCol
  with_reducible repeat' (first | assumption | refine kept_fst (by assumption) ?_ | exact fun _ _ h => h | intro _ | split | apply netCross_kept | refine kept_mk ?_ rfl)

theorem sendItem_kept {s0 s : State} {a0} {a1} {a2} {a3} (h : Kept s0 s) : Kept s0 (sendItem a0 a1 a2 a3 s).1 := by
  unfold sendItem
  with_reducible repeat' (first | assumption | refine kept_fst (by assumption) ?_ | exact fun _ _ h => h | intro _ | split | apply noCol_kept | apply toCol_kept | apply getD_kept | refine kept_mk ?_ rfl)

theorem sendTo_kept {s0 s : State} {a0} {a1} {a2} {a3} {a4} {a5} {a6} {a7} {a8} {a9} {a10} (h : Kept s0 s) : Kept s0 (sendTo a0 a1 a2 a3 a4 a5 a6 a7 a8 a9 a10 s).1 := by
  unfold sendTo
  with_reducible repeat' (first | assumption | refine kept_fst (by assumption) ?_ | exact fun _ _ h => h | intro _ | split | apply sendItem_kept | refine kept_mk ?_ rfl)

theorem sendSig_kept {s0 s : State} {a0} {a1} {a2} {a3} {a4} {a5} (h : Kept s0 s) : Kept s0 (sendSig a0 a1 a2 a3 a4 a5 s).1 := by
  unfold sendSig
  with_reducible repeat' (first | assumption | refine kept_fst (by assumption) ?_ | exact fun _ _ h => h | intro _ | split | apply sendItem_kept | refine kept_mk ?_ rfl)

theorem respond_kept {s0 s : State} {a0} {a1} {a2} {a3} {a4} {a5} {a6} {a7} (h : Kept s0 s) : Kept s0 (respond a0 a1 a2 a3 a4 a5 a6 a7 s) := by
  unfold respond
  with_reducible repeat' (first | assumption | refine kept_fst (by assumption) ?_ | exact fun _ _ h => h | intro _ | split | apply sendTo_kept | refine kept_mk ?_ rfl)

theorem returnCredit_kept {s0 s : State} {a0} {a1} (h : Kept s0 s) : Kept s0 (returnCredit a0 a1 s) := by
  unfold returnCredit
  with_reducible repeat' (first | assumption | split | apply sendLink_kept)

end Sys2Proof.Machine
end

