-- ==== Sys2Proof/Laws/KeptCairns.lean ====
section
/-! SUPPORT. What the definitions of Machine/Cairns.lean keep (Safety: Kept), one lemma each. -/
set_option linter.all false
namespace Sys2Proof.Machine

theorem windowSignal_kept {s0 s : State} {a0} {a1} (h : Kept s0 s) : Kept s0 (windowSignal a0 a1 s) := by
  unfold windowSignal
  dsimp only
  with_reducible repeat' (first | assumption | exact fun _ _ h => h | split | apply modCore_kept | apply raiseEvt_kept)

theorem landRefuse_kept {s0 s : State} {a0} {a1} (h : Kept s0 s) : Kept s0 (landRefuse a0 a1 s) := by
  unfold landRefuse
  with_reducible repeat' (first | assumption | exact fun _ _ h => h | apply modCore_kept)

theorem signalCore_kept {s0 s : State} {a0} {a1} {a2} {a3} {a4} (h : Kept s0 s) : Kept s0 (signalCore a0 a1 a2 a3 a4 s) := by
  unfold signalCore
  with_reducible repeat' (first | assumption | split | apply windowSignal_kept | apply landRefuse_kept)

theorem noteAbsent_kept {s0 s : State} {a0} {a1} {a2} {a3} {a4} (h : Kept s0 s) : Kept s0 (noteAbsent a0 a1 a2 a3 a4 s) := by
  unfold noteAbsent
  with_reducible repeat' (first | assumption | apply modClus_kept)

theorem noteDieAbsent_kept {s0 s : State} (h : Kept s0 s) : Kept s0 (noteDieAbsent s) := by
  unfold noteDieAbsent
  with_reducible repeat' (first | assumption | refine kept_mk ?_ rfl)

end Sys2Proof.Machine
end

