-- ==== Sys2Proof/Laws/KeptCeiling.lean ====
section
/-! SUPPORT. What the definitions of Machine/Ceiling.lean keep (Safety: Kept), one lemma each. -/
set_option linter.all false
namespace Sys2Proof.Machine

theorem retargetQuad_kept {s0 s : State} {a1} (h : Kept s0 s) : Kept s0 (retargetQuad s a1) := by
  unfold retargetQuad
  with_reducible repeat' (first | assumption | split | refine kept_mk ?_ rfl)

theorem retarget_kept {s0 s : State} (h : Kept s0 s) : Kept s0 (retarget s) := by
  unfold retarget
  with_reducible repeat' (first | assumption | apply retargetQuad_kept | apply foldl_kept)

end Sys2Proof.Machine
end

