-- ==== Sys2Proof/Laws/KeptRuns.lean ====
section
/-! SUPPORT. What the definitions of Machine/Runs.lean keep (Safety: Kept), one lemma each. -/
set_option linter.all false
namespace Sys2Proof.Machine

theorem startFills_kept {s0 s : State} {a0} (h : Kept s0 s) : Kept s0 (startFills a0 s) := by
  unfold startFills
  with_reducible repeat' (first | assumption | refine kept_fst (by assumption) ?_ | exact fun _ _ h => h | refine foldl_wf (fun _ _ _ => ?_) ?_ | intro _ | split | apply ridgeMove_kept | apply foldl_kept | refine kept_mk ?_ rfl)

theorem startRun_kept {s0 s : State} {a0} (h : Kept s0 s) : Kept s0 (startRun a0 s) := by
  unfold startRun
  with_reducible repeat' (first | assumption | refine kept_fst (by assumption) ?_ | exact fun _ _ h => h | refine foldl_wf (fun _ _ _ => ?_) ?_ | apply startCore_wf | apply startCore_lim | intro _ | split | apply retarget_kept | apply startFills_kept | apply modCore_kept | apply modClus_kept | apply modSeq_kept | apply modMassif_kept | apply foldl_kept | refine kept_mk ?_ rfl)

theorem startIfAcked_kept {s0 s : State} {a0} (h : Kept s0 s) : Kept s0 (startIfAcked a0 s) := by
  unfold startIfAcked
  with_reducible repeat' (first | assumption | refine kept_fst (by assumption) ?_ | exact fun _ _ h => h | intro _ | split | apply startRun_kept | apply modSeq_kept | refine kept_mk ?_ rfl)

end Sys2Proof.Machine
end

