-- ==== Sys2Proof/Laws/KeptStreams.lean ====
section
/-! SUPPORT. What the definitions of Machine/Streams.lean keep (Safety: Kept), one lemma each. -/
set_option linter.all false
namespace Sys2Proof.Machine

theorem modXfer_kept {s0 s : State} {a0} {a1} (h : Kept s0 s) : Kept s0 (modXfer a0 a1 s) := by
  unfold modXfer
  with_reducible repeat' (first | assumption | exact fun _ _ h => h | apply modCore_kept)

theorem modStream_kept {s0 s : State} {a0} {a1} {a2} (h : Kept s0 s) : Kept s0 (modStream a0 a1 a2 s) := by
  unfold modStream
  with_reducible repeat' (first | assumption | apply modXfer_kept)

theorem modLedge_kept {s0 s : State} {c : CoreId} {f : LedgeSt → LedgeSt}
    (hf : s0.Canon → ∀ l, Memory.wf l.mem = true → Memory.wf (f l).mem = true) (h : Kept s0 s) : Kept s0 (modLedge c f s) :=
  modCore_kept (fun hc _ hk => hf hc _ hk) (fun _ _ h => h) h

theorem decodeCycle_kept {s0 s : State} {a0} (h : Kept s0 s) : Kept s0 (decodeCycle a0 s) := by
  unfold decodeCycle
  with_reducible repeat' (first | assumption | apply modXfer_kept)

theorem relNumber_kept {s0 s : State} {a0} {a1} (h : Kept s0 s) : Kept s0 (relNumber a0 a1 s) := by
  unfold relNumber
  with_reducible repeat' (first | assumption | exact fun _ _ h => h | apply modCore_kept)

theorem relDone_kept {s0 s : State} {a0} {a1} (h : Kept s0 s) : Kept s0 (relDone a0 a1 s) := by
  unfold relDone
  with_reducible repeat' (first | assumption | exact fun _ _ h => h | apply modCore_kept)

theorem modChunk_kept {s0 s : State} {a0} {a1} {a2} {a3} (h : Kept s0 s) : Kept s0 (modChunk a0 a1 a2 a3 s) := by
  unfold modChunk
  with_reducible repeat' (first | assumption | apply modStream_kept)

theorem modReq_kept {s0 s : State} {a0} {a1} {a2} {a3} (h : Kept s0 s) : Kept s0 (modReq a0 a1 a2 a3 s) := by
  unfold modReq
  with_reducible repeat' (first | assumption | apply modStream_kept)

theorem postBg_kept {s0 s : State} {a0} {a1} {a2} (h : Kept s0 s) : Kept s0 (postBg a0 a1 a2 s) := by
  unfold postBg
  with_reducible repeat' (first | assumption | exact fun _ _ h => h | apply modLedge_kept)

theorem storeUnwait_kept {s0 s : State} {a0} {a1} (h : Kept s0 s) : Kept s0 (storeUnwait a0 a1 s) := by
  unfold storeUnwait
  with_reducible repeat' (first | assumption | apply modClus_kept)

theorem placeHeld_kept {s0 s : State} {a0} {a1} (h : Kept s0 s) : Kept s0 (placeHeld a0 a1 s) := by
  unfold placeHeld
  with_reducible repeat' (first | assumption | apply modClus_kept | apply countAt_kept)

theorem noteFull_kept {s0 s : State} {a0} {a1} (h : Kept s0 s) : Kept s0 (noteFull a0 a1 s) := by
  unfold noteFull
  dsimp only
  with_reducible repeat' (first | assumption | split | apply modClus_kept | apply modMassif_kept)

theorem sendOut_kept {s0 s : State} {a0} {a1} (h : Kept s0 s) : Kept s0 (sendOut a0 a1 s).1 := by
  unfold sendOut
  with_reducible repeat' (first | assumption | refine kept_fst (by assumption) ?_ | exact fun _ _ h => h | intro _ | split | apply netPut_kept | apply sendTo_kept | apply getD_kept | refine kept_mk ?_ rfl)

theorem sendSignal_kept {s0 s : State} {a0} {a1} {a2} {a3} {a4} {a5} {a6} (h : Kept s0 s) : Kept s0 (sendSignal a0 a1 a2 a3 a4 a5 a6 s) := by
  unfold sendSignal
  with_reducible repeat' (first | assumption | refine kept_fst (by assumption) ?_ | exact fun _ _ h => h | intro _ | split | apply signalGone_kept | apply ridgeMove_kept | apply sendSig_kept | apply signalCore_kept | apply modXfer_kept | refine kept_mk ?_ rfl)

theorem countSignal_kept {s0 s : State} {a0} {a1} {a2} (h : Kept s0 s) : Kept s0 (countSignal a0 a1 a2 s) := by
  unfold countSignal
  with_reducible repeat' (first | assumption | apply modXfer_kept)

theorem dueStreams_kept {s0 s : State} {a0} {a1} (h : Kept s0 s) : Kept s0 (dueStreams a0 a1 s) := by
  unfold dueStreams
  with_reducible repeat' (first | assumption | refine kept_fst (by assumption) ?_ | exact fun _ _ h => h | refine foldl_wf (fun _ _ _ => ?_) ?_ | intro _ | split | apply modXfer_kept | apply modStream_kept | apply foldl_kept | refine kept_mk ?_ rfl)

theorem dueEngine_kept {s0 s : State} {a0} {a1} (h : Kept s0 s) : Kept s0 (dueEngine a0 a1 s) := by
  unfold dueEngine
  with_reducible repeat' (first | assumption | refine kept_fst (by assumption) ?_ | exact fun _ _ h => h | intro _ | split | apply dueStreams_kept | refine kept_mk ?_ rfl)

theorem dueAll_kept {s0 s : State} {a0} (h : Kept s0 s) : Kept s0 (dueAll a0 s) := by
  unfold dueAll
  with_reducible repeat' (first | assumption | refine kept_fst (by assumption) ?_ | exact fun _ _ h => h | intro _ | split | apply dueStreams_kept | refine kept_mk ?_ rfl)

theorem signalNext_kept {s0 s t : State} {a0} {a1} (h : Kept s0 s) (e : signalNext a0 a1 s = some t) : Kept s0 t := by
  unfold signalNext at e
  try dsimp only at e
  repeat' (first | contradiction | (injection e with e; subst e) | split at e)
  all_goals with_reducible repeat' (first | assumption | refine kept_fst (by assumption) ?_ | exact fun _ _ h => h | refine foldl_wf (fun _ _ _ => ?_) ?_ | intro _ | split | apply relNumber_kept | apply storeUnwait_kept | apply placeHeld_kept | apply noteFull_kept | apply sendSignal_kept | apply countSignal_kept | apply dueEngine_kept | apply foldl_kept | apply getD_kept | refine kept_mk ?_ rfl)

theorem signalAll_kept {s0 s : State} {c} {x} {n} (h : Kept s0 s) : Kept s0 (signalAll c x n s) := by
  induction n generalizing s with
  | zero => exact h
  | succ n ih =>
    unfold signalAll
    split
    · next t e =>
      have h := signalNext_kept h e
      split
      · exact h
      · exact ih h
    · exact h

theorem trackerLeave_kept {s0 s : State} {a0} {a1} (h : Kept s0 s) : Kept s0 (trackerLeave a0 a1 s) := by
  unfold trackerLeave
  with_reducible repeat' (first | assumption | apply modStream_kept | refine kept_mk ?_ rfl)

theorem itemsSettle_kept {s0 s : State} {a0} {a1} (h : Kept s0 s) : Kept s0 (itemsSettle a0 a1 s) := by
  unfold itemsSettle
  with_reducible repeat' (first | assumption | refine kept_fst (by assumption) ?_ | exact fun _ _ h => h | intro _ | split | apply modClus_kept | refine kept_mk ?_ rfl)

theorem streamIdle_kept {s0 s : State} {a0} {a1} (h : Kept s0 s) : Kept s0 (streamIdle a0 a1 s) := by
  unfold streamIdle
  with_reducible repeat' (first | assumption | refine kept_fst (by assumption) ?_ | exact fun _ _ h => h | intro _ | split | apply modStream_kept | apply trackerLeave_kept | apply itemsSettle_kept | apply modCore_kept | refine kept_mk ?_ rfl)

theorem streamRecord_kept {s0 s : State} {a0} {a1} {a2} {a3} {a4} {a5} {a6} {a7} {a8} (h : Kept s0 s) : Kept s0 (streamRecord a0 a1 a2 a3 a4 a5 a6 a7 a8 s) := by
  unfold streamRecord
  with_reducible repeat' (first | assumption | apply modStream_kept)

theorem streamError_kept {s0 s : State} {a0} {a1} {a2} {a3} {a4} {a5} {a6} (h : Kept s0 s) : Kept s0 (streamError a0 a1 a2 a3 a4 a5 a6 s) := by
  unfold streamError
  with_reducible repeat' (first | assumption | split | apply streamRecord_kept | apply modStream_kept | apply modMassif_kept | apply streamIdle_kept | apply raiseEvt_kept)

theorem withdraw_kept {s0 s : State} {a0} {a1} {a2} (h : Kept s0 s) : Kept s0 (withdraw a0 a1 a2 s) := by
  unfold withdraw
  with_reducible repeat' (first | assumption | apply modClus_kept)

theorem dropWaiting_kept {s0 s : State} {a0} {a1} {a2} {a3} (h : Kept s0 s) : Kept s0 (dropWaiting a0 a1 a2 a3 s) := by
  unfold dropWaiting
  with_reducible repeat' (first | assumption | refine kept_fst (by assumption) ?_ | exact fun _ _ h => h | intro _ | split | apply modStream_kept | apply modLedge_kept | apply modClus_kept | refine kept_mk ?_ rfl)

theorem streamCancel_kept {s0 s : State} {a0} {a1} (h : Kept s0 s) : Kept s0 (streamCancel a0 a1 s) := by
  unfold streamCancel
  with_reducible repeat' (first | assumption | refine kept_fst (by assumption) ?_ | exact fun _ _ h => h | intro _ | split | apply modXfer_kept | apply modStream_kept | apply storeUnwait_kept | apply streamIdle_kept | apply dropWaiting_kept | apply countCore_kept | refine kept_mk ?_ rfl)

theorem settle_kept {s0 s : State} {a0} {a1} (h : Kept s0 s) : Kept s0 (settle a0 a1 s) := by
  unfold settle
  dsimp only
  with_reducible repeat' (first | assumption | split | apply streamIdle_kept | apply signalAll_kept | apply streamError_kept | apply withdraw_kept)

theorem chunkStop_kept {s0 s : State} {a0} {a1} {a2} {a3} {a4} {a5} {a6} {a7} (h : Kept s0 s) : Kept s0 (chunkStop a0 a1 a2 a3 a4 a5 a6 a7 s) := by
  unfold chunkStop
  with_reducible repeat' (first | assumption | refine kept_fst (by assumption) ?_ | exact fun _ _ h => h | intro _ | split | apply modChunk_kept | apply dropWaiting_kept | apply settle_kept | refine kept_mk ?_ rfl)

theorem noteMiss_kept {s0 s : State} {a0} {a1} {a2} (h : Kept s0 s) : Kept s0 (noteMiss a0 a1 a2 s) := by
  unfold noteMiss
  dsimp only
  with_reducible repeat' (first | assumption | split | apply modXfer_kept | apply modStream_kept | apply modMassif_kept | apply raiseEvt_kept)

theorem missPast_kept {s0 s : State} {a0} {a1} (h : Kept s0 s) : Kept s0 (missPast a0 a1 s) := by
  unfold missPast
  with_reducible repeat' (first | assumption | intro _ | split | apply noteMiss_kept | apply foldl_kept)

theorem nextDescriptor_kept {s0 s : State} {a0} {a1} (h : Kept s0 s) : Kept s0 (nextDescriptor a0 a1 s) := by
  unfold nextDescriptor
  dsimp only
  with_reducible repeat' (first | assumption | split | apply settle_kept | apply modStream_kept | apply postBg_kept | apply missPast_kept)

theorem beginChunk_kept {s0 s : State} {a0} {a1} (h : Kept s0 s) : Kept s0 (beginChunk a0 a1 s) := by
  unfold beginChunk
  dsimp only
  with_reducible repeat' (first | assumption | split | apply nextDescriptor_kept | apply modStream_kept)

end Sys2Proof.Machine
end

