-- ==== Sys2Proof/Laws/KeptTranslation.lean ====
section
/-! SUPPORT. What the definitions of Machine/Translation.lean keep (Safety: Kept), one lemma each. -/
set_option linter.all false
namespace Sys2Proof.Machine

theorem tcInsert_kept {s0 s : State} {a0} (h : Kept s0 s) : Kept s0 (tcInsert a0 s) := by
  unfold tcInsert
  with_reducible repeat' (first | assumption | refine kept_mk ?_ rfl)

theorem walkSend_kept {s0 s : State} {a0} {a1} {a2} (h : Kept s0 s) : Kept s0 (walkSend a0 a1 a2 s).1 := by
  unfold walkSend
  with_reducible repeat' (first | assumption | refine kept_fst (by assumption) ?_ | exact fun _ _ h => h | intro _ | split | apply sendTo_kept | refine kept_mk ?_ rfl)

theorem translate_kept {s0 s : State} {a0} {a1} {a2} {a3} (h : Kept s0 s) : Kept s0 (translate a0 a1 a2 a3 s).1 := by
  unfold translate
  dsimp only
  with_reducible repeat' (first | assumption | refine kept_fst (by assumption) ?_ | exact fun _ _ h => h | intro _ | split | apply noteDieAbsent_kept | apply walkSend_kept | refine kept_mk ?_ rfl)

theorem storeWrite_kept {s0 s : State} {a0} {a1} (h : Kept s0 s) : Kept s0 (storeWrite a0 a1 s) := by
  unfold storeWrite
  with_reducible repeat' (first | assumption | intro _ | split | apply modSeq_kept | apply foldl_kept | refine kept_words ?_ (smWf_smSet _ _ _))

theorem loadFail_kept {s0 s : State} {a0} (h : Kept s0 s) : Kept s0 (loadFail a0 s) := by
  unfold loadFail
  with_reducible repeat' (first | assumption | apply modSeq_kept)

theorem loadRead_kept {s0 s : State} {a0} {a1} {a2} (h : Kept s0 s) : Kept s0 (loadRead a0 a1 a2 s) := by
  unfold loadRead
  with_reducible repeat' (first | assumption | refine kept_fst (by assumption) ?_ | exact fun _ _ h => h | intro _ | split | apply sendTo_kept | apply noteDieAbsent_kept | apply loadFail_kept | apply modSeq_kept | refine kept_mk ?_ rfl)

theorem loadNext_kept {s0 s : State} {a0} (h : Kept s0 s) : Kept s0 (loadNext a0 s) := by
  unfold loadNext
  dsimp only
  split
  · exact h
  · split
    · exact loadFail_kept h
    · have k := translate_kept (a0 := a0) (a1 := loadAddr (getSeq s a0)) (a2 := false) (a3 := .load a0) h
      generalize translate a0 (loadAddr (getSeq s a0)) false (.load a0) s = r at k
      rcases r with ⟨t, x⟩
      cases x with
      | ok mpa => exact loadRead_kept k
      | walking => exact modSeq_kept k
      | fault => exact loadFail_kept k
      | error => exact loadFail_kept k

theorem loadData_kept {s0 s : State} {a0} {a1} {a2} {a3} {a4} (h : Kept s0 s) : Kept s0 (loadData a0 a1 a2 a3 a4 s) := by
  unfold loadData
  with_reducible repeat' (first | assumption | refine kept_fst (by assumption) ?_ | exact fun _ _ h => h | refine foldl_wf (fun _ _ _ => ?_) ?_ | intro _ | split | apply storeWrite_kept | apply loadFail_kept | apply loadNext_kept | apply modSeq_kept | apply foldl_kept | refine kept_mk ?_ rfl)

end Sys2Proof.Machine
end

