-- ==== Sys2Proof/Laws/KeptRequests.lean ====
section
/-! SUPPORT. What the definitions of Machine/Requests.lean keep (Safety: Kept), one lemma each. -/
set_option linter.all false
namespace Sys2Proof.Machine

theorem noteIssued_kept {s0 s : State} {a0} {a1} {a2} {a3} (h : Kept s0 s) : Kept s0 (noteIssued a0 a1 a2 a3 s) := by
  unfold noteIssued
  with_reducible repeat' (first | assumption | apply modChunk_kept)

theorem tagTake_kept {s0 s : State} {a0} (h : Kept s0 s) : Kept s0 (tagTake a0 s) := by
  unfold tagTake
  with_reducible repeat' (first | assumption | refine kept_mk ?_ rfl)

theorem tagGive_kept {s0 s : State} {a0} (h : Kept s0 s) : Kept s0 (tagGive a0 s) := by
  unfold tagGive
  with_reducible repeat' (first | assumption | refine kept_mk ?_ rfl)

theorem sendRead_kept {s0 s : State} {a0} {a1} {a2} {a3} {a4} {a5} (h : Kept s0 s) : Kept s0 (sendRead a0 a1 a2 a3 a4 a5 s).1 := by
  unfold sendRead
  with_reducible repeat' (first | assumption | refine kept_fst (by assumption) ?_ | exact fun _ _ h => h | intro _ | split | apply netPut_kept | apply sendTo_kept | refine kept_mk ?_ rfl)

theorem absentStream_kept {s0 s : State} {a0} {a1} {a2} {a3} {a4} (h : Kept s0 s) : Kept s0 (absentStream a0 a1 a2 a3 a4 s) := by
  unfold absentStream
  with_reducible repeat' (first | assumption | refine kept_fst (by assumption) ?_ | exact fun _ _ h => h | intro _ | split | apply noteAbsent_kept | refine kept_mk ?_ rfl)

theorem landCheck_kept {s0 s : State} {a0} {a1} {a2} (h : Kept s0 s) : Kept s0 (landCheck a0 a1 a2 s) := by
  unfold landCheck
  with_reducible repeat' (first | assumption | apply settle_kept | apply modChunk_kept)

theorem readEnd_kept {s0 s : State} {a0} {a1} {a2} {a3} {a4} (h : Kept s0 s) : Kept s0 (readEnd a0 a1 a2 a3 a4 s) := by
  unfold readEnd
  dsimp only
  with_reducible repeat' (first | assumption | refine kept_fst (by assumption) ?_ | exact fun _ _ h => h | intro _ | split | apply modStream_kept | apply modChunk_kept | apply modReq_kept | apply postBg_kept | apply settle_kept | apply chunkStop_kept | apply tagGive_kept | apply sendRead_kept | apply absentStream_kept | apply landCheck_kept | refine kept_mk ?_ rfl)

theorem readDone_kept {s0 s : State} {a0} {a1} {a2} {a3} {a4} (h : Kept s0 s) : Kept s0 (readDone a0 a1 a2 a3 a4 s) := by
  unfold readDone
  with_reducible repeat' (first | assumption | refine kept_fst (by assumption) ?_ | exact fun _ _ h => h | intro _ | split | apply absentStream_kept | apply readEnd_kept | refine kept_mk ?_ rfl)

theorem writeDone_kept {s0 s : State} {a0} {a1} {a2} {a3} (h : Kept s0 s) : Kept s0 (writeDone a0 a1 a2 a3 s) := by
  unfold writeDone
  with_reducible repeat' (first | assumption | refine kept_fst (by assumption) ?_ | exact fun _ _ h => h | intro _ | split | apply modXfer_kept | apply modStream_kept | apply modChunk_kept | apply settle_kept | apply chunkStop_kept | apply absentStream_kept | apply landCheck_kept | refine kept_mk ?_ rfl)

theorem queueFree_kept {s0 s : State} {a0} {a1} (h : Kept s0 s) : Kept s0 (queueFree a0 a1 s) := by
  unfold queueFree
  with_reducible repeat' (first | assumption | apply modXfer_kept)

theorem afterAck_kept {s0 s : State} {a0} (h : Kept s0 s) : Kept s0 (afterAck a0 s) := by
  unfold afterAck
  with_reducible repeat' (first | assumption | split | apply startIfAcked_kept)

theorem releaseError_kept {s0 s : State} {a0} (h : Kept s0 s) : Kept s0 (releaseError a0 s) := by
  unfold releaseError
  dsimp only
  with_reducible repeat' (first | assumption | exact fun _ _ h => h | split | apply modCore_kept | apply raiseEvt_kept)

theorem ackMove_kept {s0 s : State} {a0} {a1} {a2} {a3} (h : Kept s0 s) : Kept s0 (ackMove a0 a1 a2 a3 s) := by
  unfold ackMove
  with_reducible repeat' (first | assumption | split | apply ridgeMove_kept)

theorem deliverAck_kept {s0 s : State} {a0} {a1} {a2} {a3} {a4} (h : Kept s0 s) : Kept s0 (deliverAck a0 a1 a2 a3 a4 s) := by
  unfold deliverAck
  with_reducible repeat' (first | assumption | split | apply ackMove_kept | apply queueFree_kept | apply modXfer_kept | apply noteAbsent_kept | apply afterAck_kept | apply writeDone_kept | apply relDone_kept | apply releaseError_kept | apply respond_kept)

theorem sendOrAck_kept {s0 s : State} {a0} {a1} (h : Kept s0 s) : Kept s0 (sendOrAck a0 a1 s) := by
  unfold sendOrAck
  with_reducible repeat' (first | assumption | refine kept_fst (by assumption) ?_ | exact fun _ _ h => h | intro _ | split | apply sendOut_kept | apply deliverAck_kept | refine kept_mk ?_ rfl)

theorem memReadSend_kept {s0 s : State} {a0} {a1} {a2} (h : Kept s0 s) : Kept s0 (memReadSend a0 a1 a2 s) := by
  unfold memReadSend
  with_reducible repeat' (first | assumption | refine kept_fst (by assumption) ?_ | exact fun _ _ h => h | intro _ | split | apply sendTo_kept | apply modReq_kept | apply noteIssued_kept | apply tagTake_kept | apply readDone_kept | refine kept_mk ?_ rfl)

theorem memReadReady_kept {s0 s : State} {a0} {a1} {a2} {a3} (h : Kept s0 s) : Kept s0 (memReadReady a0 a1 a2 a3 s) := by
  unfold memReadReady
  with_reducible repeat' (first | assumption | split | apply modReq_kept | apply memReadSend_kept | refine kept_mk ?_ rfl)

theorem writeGo_kept {s0 s : State} {a0} {a1} {a2} {a3} (h : Kept s0 s) : Kept s0 (writeGo a0 a1 a2 a3 s) := by
  unfold writeGo
  dsimp only
  with_reducible repeat' (first | assumption | apply cacheDrop_wf | intro _ | split | apply modLedge_kept | apply modXfer_kept | apply modReq_kept | apply postBg_kept | apply noteIssued_kept | apply countCore_kept | apply modCore_kept | apply landCheck_kept | apply modChunk_kept | apply modStream_kept | apply noteFull_kept | apply relNumber_kept | apply placeHeld_kept | apply storeUnwait_kept | apply sendOrAck_kept)

theorem fillStop_kept {s0 s : State} {a0} {a1} {a2} {a3} {a4} (h : Kept s0 s) : Kept s0 (fillStop a0 a1 a2 a3 a4 s) := by
  unfold fillStop
  with_reducible repeat' (first | assumption | intro _ | split | apply chunkStop_kept | apply modStream_kept | apply modLedge_kept | apply foldl_kept)

theorem xlatDone_kept {s0 s : State} {a0} {a1} {a2} {a3} (h : Kept s0 s) : Kept s0 (xlatDone a0 a1 a2 a3 s) := by
  unfold xlatDone
  with_reducible repeat' (first | assumption | refine kept_fst (by assumption) ?_ | exact fun _ _ h => h | intro _ | split | apply modStream_kept | apply modLedge_kept | apply settle_kept | apply chunkStop_kept | apply memReadReady_kept | apply writeGo_kept | apply fillStop_kept | refine kept_mk ?_ rfl)

theorem memRequest_kept {s0 s : State} {a0} {a1} {a2} {a3} {a4} (h : Kept s0 s) : Kept s0 (memRequest a0 a1 a2 a3 a4 s) := by
  unfold memRequest
  with_reducible repeat' (first | assumption | refine kept_fst (by assumption) ?_ | exact fun _ _ h => h | intro _ | split | apply translate_kept | apply xlatDone_kept | refine kept_mk ?_ rfl)

theorem cacheRequest_kept {s0 s : State} {a0} {a1} {a2} {a3} (h : Kept s0 s) : Kept s0 (cacheRequest a0 a1 a2 a3 s) := by
  unfold cacheRequest
  with_reducible repeat' (first | assumption | refine kept_fst (by assumption) ?_ | exact fun _ _ h => h | intro _ | split | apply modLedge_kept | apply modReq_kept | apply postBg_kept | apply noteIssued_kept | apply memRequest_kept | refine kept_mk ?_ rfl)

theorem requestGo_kept {s0 s : State} {a0} {a1} {a2} {a3} {a4} (h : Kept s0 s) : Kept s0 (requestGo a0 a1 a2 a3 a4 s) := by
  unfold requestGo
  with_reducible repeat' (first | assumption | refine kept_fst (by assumption) ?_ | exact fun _ _ h => h | intro _ | split | apply modReq_kept | apply postBg_kept | apply noteIssued_kept | apply sendRead_kept | apply readDone_kept | apply writeGo_kept | apply memRequest_kept | apply cacheRequest_kept | refine kept_mk ?_ rfl)

theorem formOne_kept {s0 s : State} {a0} {a1} {a2} {a3} (h : Kept s0 s) : Kept s0 (formOne a0 a1 a2 a3 s) := by
  unfold formOne
  with_reducible repeat' (first | assumption | split | apply chunkStop_kept | apply modXfer_kept | apply modStream_kept | apply modChunk_kept | apply requestGo_kept)

theorem transferNext_kept {s0 s : State} {a0} {a1} {a2} (h : Kept s0 s) : Kept s0 (transferNext a0 a1 a2 s) := by
  unfold transferNext
  dsimp only
  with_reducible repeat' (first | assumption | split | apply formOne_kept | apply beginChunk_kept)

theorem deliverRead_kept {s0 s : State} {a0} {a1} {a2} {a3} (h : Kept s0 s) : Kept s0 (deliverRead a0 a1 a2 a3 s) := by
  unfold deliverRead
  with_reducible repeat' (first | assumption | split | apply readDone_kept | apply ridgeMove_kept | apply respond_kept)

theorem fillBlock_kept {s0 s : State} {a0} {a1} {a2} {a3} (h : Kept s0 s) : Kept s0 (fillBlock a0 a1 a2 a3 s) := by
  unfold fillBlock
  with_reducible repeat' (first | assumption | refine kept_fst (by assumption) ?_ | exact fun _ _ h => h | refine foldl_wf (fun _ _ _ => ?_) ?_ | apply ledgeHeal_wf | apply cacheTouch_wf | apply memWrite_wf | intro _ | split | apply modLedge_kept | apply modReq_kept | apply postBg_kept | apply foldl_kept | refine kept_mk ?_ rfl)

theorem hitServe_kept {s0 s : State} {a0} {a1} {a2} {a3} {a4} (h : Kept s0 s) : Kept s0 (hitServe a0 a1 a2 a3 a4 s) := by
  unfold hitServe
  with_reducible repeat' (first | assumption | refine kept_fst (by assumption) ?_ | exact fun _ _ h => h | apply ledgePerr_wf | apply ledgeMark_wf | apply cacheTouch_wf | intro _ | split | apply modLedge_kept | apply modReq_kept | apply readDone_kept | apply cacheRequest_kept | refine kept_mk ?_ rfl)

theorem waitServe_kept {s0 s : State} {a0} {a1} {a2} {a3} (h : Kept s0 s) : Kept s0 (waitServe a0 a1 a2 a3 s) := by
  unfold waitServe
  with_reducible repeat' (first | assumption | refine kept_fst (by assumption) ?_ | exact fun _ _ h => h | intro _ | split | apply modLedge_kept | apply readDone_kept | refine kept_mk ?_ rfl)

theorem burstServe_kept {s0 s : State} {a0} {a1} {a2} {a3} {a4} (h : Kept s0 s) : Kept s0 (burstServe a0 a1 a2 a3 a4 s) := by
  unfold burstServe
  dsimp only
  with_reducible repeat' (first | assumption | apply ledgeRead_wf | exact State.Canon.ledge (Kept.canon h (by assumption)) _ | intro _ | split | apply modLedge_kept | apply nextDescriptor_kept | apply modStream_kept | apply postBg_kept | apply settle_kept)

theorem scrubServe_kept {s0 s : State} {a0} {a1} {a2} (h : Kept s0 s) : Kept s0 (scrubServe a0 a1 a2 s) := by
  unfold scrubServe
  dsimp only
  with_reducible repeat' (first | assumption | apply ledgeMark_wf | apply ledgePerr_wf | refine foldl_wf (fun _ _ _ => ?_) ?_ | intro _ | split | apply modLedge_kept | apply raiseEvt_kept)

theorem bgServe_kept {s0 s : State} {a0} {a1} {a2} (h : Kept s0 s) : Kept s0 (bgServe a0 a1 a2 s) := by
  unfold bgServe
  try dsimp only
  repeat' (first | with_reducible assumption | with_reducible refine kept_fst (by assumption) ?_ | with_reducible exact fun _ _ h => h | with_reducible exact fun _ h => h | with_reducible apply ledgeWriteMask_wf | with_reducible apply ledgeHeal_wf | with_reducible apply ledgeReadShape_wf | with_reducible apply memZero_wf | with_reducible refine foldl_wf (fun _ _ _ => ?_) ?_ | with_reducible exact State.Canon.ledge (Kept.canon h (by with_reducible assumption)) _ | intro _ | split | with_reducible apply windowSignal_kept | with_reducible apply modLedge_kept | with_reducible apply readDone_kept | with_reducible apply writeDone_kept | with_reducible apply deliverAck_kept | with_reducible apply deliverRead_kept | with_reducible apply fillBlock_kept | with_reducible apply hitServe_kept | with_reducible apply waitServe_kept | with_reducible apply burstServe_kept | with_reducible apply scrubServe_kept | with_reducible apply foldl_kept | with_reducible apply getD_kept | with_reducible refine kept_mk ?_ rfl | exact (rfl : Core.ledge (id _) = _) | (show CoreLim (id _); assumption) | with_reducible refine kept_words ?_ (smWf_smSet _ _ _) | with_reducible refine kept_words ?_ (smWf_filter _) | with_reducible refine kept_words ?_ (fun _ => rfl) | with_reducible refine kept_evts ?_ rfl (smWf_smSet _ _ _))

theorem memReadDone_kept {s0 s : State} {a0} {a1} {a2} {a3} {a4} (h : Kept s0 s) : Kept s0 (memReadDone a0 a1 a2 a3 a4 s) := by
  unfold memReadDone
  with_reducible repeat' (first | assumption | refine kept_fst (by assumption) ?_ | exact fun _ _ h => h | intro _ | split | apply postBg_kept | apply readDone_kept | apply fillStop_kept | refine kept_mk ?_ rfl)

end Sys2Proof.Machine
end

