-- ==== Sys2Proof/Laws/KeptLandings.lean ====
section
/-! SUPPORT. What the definitions of Machine/Landings.lean keep (Safety: Kept), one lemma each. -/
set_option linter.all false
namespace Sys2Proof.Machine

theorem landAck_kept {s0 s : State} {a0} {a1} (h : Kept s0 s) : Kept s0 (landAck a0 a1 s) := by
  unfold landAck
  with_reducible repeat' (first | assumption | apply deliverAck_kept)

theorem landArrive_kept {s0 s : State} {a0} (h : Kept s0 s) : Kept s0 (landArrive a0 s) := by
  unfold landArrive
  with_reducible repeat' (first | assumption | refine kept_fst (by assumption) ?_ | exact fun _ _ h => h | intro _ | split | apply landRefuse_kept | apply modLedge_kept | apply postBg_kept | apply landAck_kept | refine kept_mk ?_ rfl)

theorem landHold_kept {s0 s : State} {a0} {a1} (h : Kept s0 s) : Kept s0 (landHold a0 a1 s) := by
  unfold landHold
  with_reducible repeat' (first | assumption | refine kept_fst (by assumption) ?_ | exact fun _ _ h => h | intro _ | split | apply modClus_kept | refine kept_mk ?_ rfl)

theorem netArrive_kept {s0 s : State} {a0} (h : Kept s0 s) : Kept s0 (netArrive a0 s).1 := by
  unfold netArrive
  split
  · exact h
  · next p _ =>
    have k := netDrive_kept (can := netCan) (a := p.arrival) (f := netFuel s) h
    generalize netDrive netCan p.arrival (netFuel s) s = r at k
    obtain ⟨t, w, a⟩ := r
    dsimp only at k ⊢
    split
    · exact netSettle_kept k
    · refine netSettle_kept ?_
      split
      · exact netMove_kept k
      · exact k

theorem landing_kept {s0 s : State} {a0} (h : Kept s0 s) : Kept s0 (landing a0 s) := by
  unfold landing
  try dsimp only
  repeat' (first | with_reducible assumption | with_reducible refine kept_fst (by assumption) ?_ | with_reducible exact fun _ _ h => h | with_reducible exact fun _ h => h | with_reducible refine foldl_wf (fun _ _ _ => ?_) ?_ | with_reducible exact State.Canon.ledge (Kept.canon h (by with_reducible assumption)) _ | intro _ | split | with_reducible apply landArrive_kept | with_reducible apply landHold_kept | with_reducible apply netArrive_kept | with_reducible apply foldl_kept | with_reducible apply getD_kept | with_reducible refine kept_mk ?_ rfl | exact (rfl : Core.ledge (id _) = _) | (show CoreLim (id _); assumption) | with_reducible refine kept_words ?_ (smWf_smSet _ _ _) | with_reducible refine kept_words ?_ (smWf_filter _) | with_reducible refine kept_words ?_ (fun _ => rfl) | with_reducible refine kept_evts ?_ rfl (smWf_smSet _ _ _))

theorem execLanding_kept {s t : State} {a0} (h : execLanding a0 s = .next t) : Kept s t := by
  unfold execLanding at h
  refine whenAwake_kept (fun {s0 s} h => ?_) h
  with_reducible repeat' (first | assumption | refine kept_fst (by assumption) ?_ | exact fun _ _ h => h | intro _ | split | apply landing_kept | refine kept_mk ?_ rfl)

theorem readArrive_kept {s0 s : State} {a0} (h : Kept s0 s) : Kept s0 (readArrive a0 s) := by
  unfold readArrive
  with_reducible repeat' (first | assumption | refine kept_fst (by assumption) ?_ | exact fun _ _ h => h | intro _ | split | apply postBg_kept | apply deliverRead_kept | refine kept_mk ?_ rfl)

theorem execRemoteRead_kept {s t : State} {a0} (h : execRemoteRead a0 s = .next t) : Kept s t := by
  unfold execRemoteRead at h
  refine whenAwake_kept (fun {s0 s} h => ?_) h
  with_reducible repeat' (first | assumption | refine kept_fst (by assumption) ?_ | exact fun _ _ h => h | intro _ | split | apply netArrive_kept | apply readArrive_kept | refine kept_mk ?_ rfl)

theorem bgGrant_kept {s0 s : State} {c} {fs} {i} (h : Kept s0 s) : Kept s0 (bgGrant c fs i s) := by
  unfold bgGrant
  split
  · exact h
  · dsimp only
    split
    · exact modLedge_kept (fun _ _ h => h) (countCore_kept h)
    · exact bgServe_kept (modLedge_kept (fun _ _ h => h) (countCore_kept h))

theorem bgSlots_kept {s0 : State} {c} {fs} {w} {n} {q : Nat × State} (h : Kept s0 q.2) : Kept s0 (bgSlots c fs w n q).2 := by
  induction n generalizing q with
  | zero => exact h
  | succ n ih =>
    obtain ⟨lim, s⟩ := q
    unfold bgSlots
    dsimp only
    split
    · exact ih (bgGrant_kept h)
    · exact h

theorem bgCycle_kept {s0 s : State} {c} {fs} {r} {w} (h : Kept s0 s) : Kept s0 (bgCycle c fs r w s) :=
  bgSlots_kept (bgSlots_kept h)

theorem beatCycle_kept {s0 s : State} {a0} {a1} {a2} {a3} {a4} {a5} (h : Kept s0 s) : Kept s0 (beatCycle a0 a1 a2 a3 a4 a5 s) := by
  unfold beatCycle
  with_reducible repeat' (first | assumption | refine kept_fst (by assumption) ?_ | exact fun _ _ h => h | apply bgStreak_wf | intro _ | split | apply modLedge_kept | apply decodeCycle_kept | apply bgCycle_kept | refine kept_mk ?_ rfl)

theorem idleCycle_kept {s0 s : State} {a0} {a1} (h : Kept s0 s) : Kept s0 (idleCycle a0 a1 s) := by
  unfold idleCycle
  with_reducible repeat' (first | assumption | refine kept_fst (by assumption) ?_ | exact fun _ _ h => h | intro _ | split | apply decodeCycle_kept | apply bgCycle_kept | refine kept_mk ?_ rfl)

theorem execIdleCycle_kept {s t : State} {a0} {a1} (h : execIdleCycle a0 a1 s = .next t) : Kept s t := by
  unfold execIdleCycle at h
  refine whenAwake_kept (fun {s0 s} h => ?_) h
  with_reducible repeat' (first | assumption | refine kept_fst (by assumption) ?_ | exact fun _ _ h => h | intro _ | split | apply idleCycle_kept | refine kept_mk ?_ rfl)

theorem idleServe_kept {s0 s : State} {a0} {a1} {a2} (h : Kept s0 s) : Kept s0 (idleServe a0 a1 a2 s) := by
  unfold idleServe
  with_reducible repeat' (first | assumption | refine kept_fst (by assumption) ?_ | exact fun _ _ h => h | intro _ | split | apply idleCycle_kept | refine kept_mk ?_ rfl)

theorem rrSlots_kept {s0 : State} {c} {fs} {w} {n} {q : Nat × State} (h : Kept s0 q.2) : Kept s0 (rrSlots c fs w n q).2 := by
  induction n generalizing q with
  | zero => exact h
  | succ n ih =>
    obtain ⟨lim, s⟩ := q
    unfold rrSlots
    dsimp only
    split
    · exact h
    · have hm : ∀ k, Kept s0 (modLedge c (fun l => if w then { l with rrWrite := k } else { l with rrRead := k }) s) := fun k =>
        modLedge_kept (fun _ l h => by split <;> exact h) h
      refine ih ?_
      split
      · exact bgGrant_kept (hm _)
      · exact hm _

theorem insertServe_kept {s0 s : State} {a0} {a1} (h : Kept s0 s) : Kept s0 (insertServe a0 a1 s) := by
  unfold insertServe
  with_reducible repeat' (first | assumption | refine kept_fst (by assumption) ?_ | exact fun _ _ h => h | intro _ | split | apply modLedge_kept | apply decodeCycle_kept | apply rrSlots_kept | refine kept_mk ?_ rfl)

theorem execInsertedCycle_kept {s t : State} {a0} {a1} (h : execInsertedCycle a0 a1 s = .next t) : Kept s t := by
  unfold execInsertedCycle at h
  refine whenAwake_kept (fun {s0 s} h => ?_) h
  with_reducible repeat' (first | assumption | refine kept_fst (by assumption) ?_ | exact fun _ _ h => h | intro _ | split | apply insertServe_kept | apply modCore_kept | refine kept_mk ?_ rfl)

theorem execLedgeBgStatClear_kept {s t : State} {a0} (h : execLedgeBgStatClear a0 s = .next t) : Kept s t := by
  unfold execLedgeBgStatClear at h
  refine whenAwake_kept (fun {s0 s} h => ?_) h
  with_reducible repeat' (first | assumption | exact fun _ _ h => h | apply modLedge_kept)

theorem execLedgePerrLogClear_kept {s t : State} {a0} (h : execLedgePerrLogClear a0 s = .next t) : Kept s t := by
  unfold execLedgePerrLogClear at h
  refine whenAwake_kept (fun {s0 s} h => ?_) h
  with_reducible repeat' (first | assumption | exact fun _ _ h => h | apply modLedge_kept)

theorem scrubCommands_kept {s0 s : State} (h : Kept s0 s) : Kept s0 (scrubCommands s) := by
  unfold scrubCommands
  with_reducible repeat' (first | assumption | refine kept_fst (by assumption) ?_ | exact fun _ _ h => h | refine foldl_wf (fun _ _ _ => ?_) ?_ | intro _ | split | apply ridgeMove_kept | apply foldl_kept | refine kept_mk ?_ rfl)

theorem scrubOffer_kept {s0 s : State} (h : Kept s0 s) : Kept s0 (scrubOffer s) := by
  unfold scrubOffer
  with_reducible repeat' (first | assumption | refine kept_fst (by assumption) ?_ | exact fun _ _ h => h | refine foldl_wf (fun _ _ _ => ?_) ?_ | intro _ | split | apply modLedge_kept | apply postBg_kept | apply scrubCommands_kept | apply foldl_kept | refine kept_mk ?_ rfl)

theorem execScrubAdvance_kept {s t : State} (h : execScrubAdvance s = .next t) : Kept s t := by
  unfold execScrubAdvance at h
  refine whenAwake_kept (fun {s0 s} h => ?_) h
  with_reducible repeat' (first | assumption | split | apply scrubOffer_kept | refine kept_mk ?_ rfl)

theorem execScrubRead_kept {s t : State} {a0} {a1} (h : execScrubRead a0 a1 s = .next t) : Kept s t := by
  unfold execScrubRead at h
  refine whenAwake_kept (fun {s0 s} h => ?_) h
  with_reducible repeat' (first | assumption | refine kept_fst (by assumption) ?_ | exact fun _ _ h => h | intro _ | split | apply idleServe_kept | refine kept_mk ?_ rfl)

theorem execDescriptorBurst_kept {s t : State} {a0} {a1} (h : execDescriptorBurst a0 a1 s = .next t) : Kept s t := by
  unfold execDescriptorBurst at h
  refine whenAwake_kept (fun {s0 s} h => ?_) h
  with_reducible repeat' (first | assumption | refine kept_fst (by assumption) ?_ | exact fun _ _ h => h | intro _ | split | apply nextDescriptor_kept | apply idleServe_kept | refine kept_mk ?_ rfl)

theorem execTransferRequest_kept {s t : State} {a0} {a1} {a2} (h : execTransferRequest a0 a1 a2 s = .next t) : Kept s t := by
  unfold execTransferRequest at h
  refine whenAwake_kept (fun {s0 s} h => ?_) h
  with_reducible repeat' (first | assumption | apply transferNext_kept)

theorem execTagGrant_kept {s t : State} (h : execTagGrant s = .next t) : Kept s t := by
  unfold execTagGrant at h
  refine whenAwake_kept (fun {s0 s} h => ?_) h
  with_reducible repeat' (first | assumption | split | apply memReadSend_kept)

theorem execTrackerAdmit_kept {s t : State} (h : execTrackerAdmit s = .next t) : Kept s t := by
  unfold execTrackerAdmit at h
  refine whenAwake_kept (fun {s0 s} h => ?_) h
  with_reducible repeat' (first | assumption | refine kept_fst (by assumption) ?_ | exact fun _ _ h => h | intro _ | split | apply modStream_kept | apply dueStreams_kept | refine kept_mk ?_ rfl)

theorem execDueTimeRecompute_kept {s t : State} {a0} (h : execDueTimeRecompute a0 s = .next t) : Kept s t := by
  unfold execDueTimeRecompute at h
  refine whenAwake_kept (fun {s0 s} h => ?_) h
  with_reducible repeat' (first | assumption | apply dueAll_kept)

theorem execAgePromotion_kept {s t : State} (h : execAgePromotion s = .next t) : Kept s t := by
  unfold execAgePromotion at h
  refine whenAwake_kept (fun {s0 s} h => ?_) h
  with_reducible repeat' (first | assumption | intro _ | apply modStream_kept | apply foldl_kept | refine kept_mk ?_ rfl)

theorem streamFaulted_kept {s0 s : State} {a0} {a1} (h : Kept s0 s) : Kept s0 (streamFaulted a0 a1 s) := by
  unfold streamFaulted
  dsimp only
  with_reducible repeat' (first | assumption | split | apply withdraw_kept | apply streamRecord_kept | apply modXfer_kept | apply modStream_kept | apply raiseEvt_kept)

theorem execStreamFault_kept {s t : State} {a0} {a1} (h : execStreamFault a0 a1 s = .next t) : Kept s t := by
  unfold execStreamFault at h
  refine whenAwake_kept (fun {s0 s} h => ?_) h
  with_reducible repeat' (first | assumption | apply streamFaulted_kept)

theorem streamResume_kept {s0 s : State} {a0} {a1} (h : Kept s0 s) : Kept s0 (streamResume a0 a1 s) := by
  unfold streamResume
  with_reducible repeat' (first | assumption | refine kept_fst (by assumption) ?_ | exact fun _ _ h => h | intro _ | split | apply modStream_kept | apply dueEngine_kept | refine kept_mk ?_ rfl)

theorem execTxResume_kept {s t : State} {a0} {a1} (h : execTxResume a0 a1 s = .next t) : Kept s t := by
  unfold execTxResume at h
  refine whenAwake_kept (fun {s0 s} h => ?_) h
  with_reducible repeat' (first | assumption | intro _ | split | apply streamResume_kept | apply foldl_kept)

theorem execResumeAll_kept {s t : State} {a0} (h : execResumeAll a0 s = .next t) : Kept s t := by
  unfold execResumeAll at h
  refine whenAwake_kept (fun {s0 s} h => ?_) h
  with_reducible repeat' (first | assumption | intro _ | apply streamResume_kept | apply foldl_kept)

theorem execStoreSpaceGrant_kept {s t : State} {a0} (h : execStoreSpaceGrant a0 s = .next t) : Kept s t := by
  unfold execStoreSpaceGrant at h
  refine whenAwake_kept (fun {s0 s} h => ?_) h
  dsimp only
  with_reducible repeat' (first | assumption | split | apply writeGo_kept | apply storeUnwait_kept | apply settle_kept)

theorem execHwStoreStatClear_kept {s t : State} {a0} (h : execHwStoreStatClear a0 s = .next t) : Kept s t := by
  unfold execHwStoreStatClear at h
  refine whenAwake_kept (fun {s0 s} h => ?_) h
  with_reducible repeat' (first | assumption | apply modClus_kept)

theorem execClusAbsentClear_kept {s t : State} {a0} (h : execClusAbsentClear a0 s = .next t) : Kept s t := by
  unfold execClusAbsentClear at h
  refine whenAwake_kept (fun {s0 s} h => ?_) h
  with_reducible repeat' (first | assumption | apply modClus_kept)

theorem execStreamTrkStatClear_kept {s t : State} (h : execStreamTrkStatClear s = .next t) : Kept s t := by
  unfold execStreamTrkStatClear at h
  refine whenAwake_kept (fun {s0 s} h => ?_) h
  with_reducible repeat' (first | assumption | refine kept_mk ?_ rfl)

theorem walkAnswer_kept {s0 s : State} {a0} {a1} {a2} (h : Kept s0 s) : Kept s0 (walkAnswer a0 a1 a2 s) := by
  unfold walkAnswer
  with_reducible repeat' (first | assumption | refine kept_fst (by assumption) ?_ | exact fun _ _ h => h | refine foldl_wf (fun _ _ _ => ?_) ?_ | intro _ | split | apply modReq_kept | apply loadFail_kept | apply loadRead_kept | apply loadNext_kept | apply xlatDone_kept | apply modSeq_kept | apply foldl_kept | refine kept_mk ?_ rfl)

theorem walkEnd_kept {s0 s : State} {a0} (h : Kept s0 s) : Kept s0 (walkEnd a0 s) := by
  unfold walkEnd
  with_reducible repeat' (first | assumption | refine kept_mk ?_ rfl)

theorem walkNext_kept {s0 s : State} {a0} {a1} (h : Kept s0 s) : Kept s0 (walkNext a0 a1 s) := by
  unfold walkNext
  dsimp only
  with_reducible repeat' (first | assumption | refine kept_fst (by assumption) ?_ | exact fun _ _ h => h | refine foldl_wf (fun _ _ _ => ?_) ?_ | intro _ | split | apply noteDieAbsent_kept | apply walkSend_kept | apply walkAnswer_kept | apply walkEnd_kept | apply foldl_kept | refine kept_mk ?_ rfl)

theorem walkRsp_kept {s0 s : State} {a0} {a1} {a2} (h : Kept s0 s) : Kept s0 (walkRsp a0 a1 a2 s) := by
  unfold walkRsp
  with_reducible repeat' (first | assumption | refine kept_fst (by assumption) ?_ | exact fun _ _ h => h | intro _ | split | apply noteDieAbsent_kept | apply tcInsert_kept | apply walkAnswer_kept | apply walkEnd_kept | apply walkNext_kept | refine kept_mk ?_ rfl)

theorem tcInvalidate_kept {s0 s : State} {a0} {a1} (h : Kept s0 s) : Kept s0 (tcInvalidate a0 a1 s) := by
  unfold tcInvalidate
  with_reducible repeat' (first | assumption | refine kept_fst (by assumption) ?_ | exact fun _ _ h => h | refine foldl_wf (fun _ _ _ => ?_) ?_ | intro _ | split | apply modXfer_kept | apply modStream_kept | apply modClus_kept | apply modSeq_kept | apply foldl_kept | refine kept_mk ?_ rfl)

theorem execTcInval_kept {s t : State} {a0} {a1} {a2} (h : execTcInval a0 a1 a2 s = .next t) : Kept s t := by
  unfold execTcInval at h
  refine whenAwake_kept (fun {s0 s} h => ?_) h
  with_reducible repeat' (first | assumption | apply tcInvalidate_kept)

theorem execTcFlush_kept {s t : State} {a0} (h : execTcFlush a0 s = .next t) : Kept s t := by
  unfold execTcFlush at h
  refine whenAwake_kept (fun {s0 s} h => ?_) h
  with_reducible repeat' (first | assumption | apply tcInvalidate_kept)

theorem execTcInvalDone_kept {s t : State} (h : execTcInvalDone s = .next t) : Kept s t := by
  unfold execTcInvalDone at h
  refine whenAwake_kept (fun {s0 s} h => ?_) h
  with_reducible repeat' (first | assumption | split | refine kept_mk ?_ rfl)

theorem execInvalidate_kept {s t : State} {a0} (h : execInvalidate a0 s = .next t) : Kept s t := by
  unfold execInvalidate at h
  refine whenAwake_kept (fun {s0 s} h => ?_) h
  with_reducible repeat' (first | assumption | apply cacheClear_wf | intro _ | apply modLedge_kept | apply foldl_kept)

end Sys2Proof.Machine
end

