-- ==== Sys2Proof/Laws/KeptAnswers.lean ====
section
/-! SUPPORT. What the definitions of Machine/Answers.lean keep (Safety: Kept), one lemma each. -/
set_option linter.all false
namespace Sys2Proof.Machine

theorem answer_kept {s0 s : State} {a0} {a1} {a2} {a3} (h : Kept s0 s) : Kept s0 (answer a0 a1 a2 a3 s) := by
  unfold answer
  with_reducible repeat' (first | assumption | refine kept_fst (by assumption) ?_ | exact fun _ _ h => h | intro _ | split | apply noteDieAbsent_kept | apply loadData_kept | apply deliverAck_kept | apply memReadDone_kept | apply walkRsp_kept | refine kept_mk ?_ rfl)

theorem replyFrom_kept {s0 s : State} {a0} {a1} {a2} {a3} {a4} {a5} {a6} (h : Kept s0 s) : Kept s0 (replyFrom a0 a1 a2 a3 a4 a5 a6 s) := by
  unfold replyFrom
  with_reducible repeat' (first | assumption | refine kept_fst (by assumption) ?_ | exact fun _ _ h => h | intro _ | split | apply toCol_kept | apply respond_kept | refine kept_mk ?_ rfl)

theorem replyTo_kept {s0 s : State} {a0} {a1} {a2} {a3} {a4} (h : Kept s0 s) : Kept s0 (replyTo a0 a1 a2 a3 a4 s) := by
  unfold replyTo
  with_reducible repeat' (first | assumption | refine kept_fst (by assumption) ?_ | exact fun _ _ h => h | intro _ | split | apply replyFrom_kept | refine kept_mk ?_ rfl)

theorem absentReply_kept {s0 s : State} {a0} {a1} (h : Kept s0 s) : Kept s0 (absentReply a0 a1 s) := by
  unfold absentReply
  with_reducible repeat' (first | assumption | refine kept_fst (by assumption) ?_ | exact fun _ _ h => h | intro _ | split | apply replyTo_kept | apply modCol_kept | refine kept_mk ?_ rfl)

theorem absentOwn_kept {s0 s : State} {a0} {a1} (h : Kept s0 s) : Kept s0 (absentOwn a0 a1 s) := by
  unfold absentOwn
  with_reducible repeat' (first | assumption | refine kept_fst (by assumption) ?_ | exact fun _ _ h => h | intro _ | split | apply answer_kept | apply modCol_kept | refine kept_mk ?_ rfl)

theorem egressDrop_kept {s0 s : State} {a0} {a1} (h : Kept s0 s) : Kept s0 (egressDrop a0 a1 s) := by
  unfold egressDrop
  with_reducible repeat' (first | assumption | refine kept_fst (by assumption) ?_ | exact fun _ _ h => h | intro _ | split | apply signalGone_kept | apply absentReply_kept | apply absentOwn_kept | apply modCol_kept | refine kept_mk ?_ rfl)

theorem forwardDrop_kept {s0 s : State} {a0} {a1} (h : Kept s0 s) : Kept s0 (forwardDrop a0 a1 s) := by
  unfold forwardDrop
  with_reducible repeat' (first | assumption | refine kept_fst (by assumption) ?_ | exact fun _ _ h => h | intro _ | split | apply egressDrop_kept | refine kept_mk ?_ rfl)

end Sys2Proof.Machine
end

