-- ==== Sys2Proof/Laws/KeptEpochs.lean ====
section
/-! SUPPORT. What the definitions of Machine/Epochs.lean keep (Safety: Kept), one lemma each. -/
set_option linter.all false
namespace Sys2Proof.Machine

theorem modEpoch_kept {s0 s : State} {c : CoreId} {f : EpochSt → EpochSt}
    (hl : s0.Limits → ∀ e, e.stack.length ≤ 8 → (f e).stack.length ≤ 8) (h : Kept s0 s) : Kept s0 (modEpoch c f s) :=
  modCore_kept (fun _ _ h => h) (fun l _ h => ⟨h.1, hl l _ h.2⟩) h

theorem epochDepthErr_kept {s0 s : State} {a0} (h : Kept s0 s) : Kept s0 (epochDepthErr a0 s) := by
  unfold epochDepthErr
  with_reducible repeat' (first | assumption | refine kept_fst (by assumption) ?_ | exact fun _ _ h => h | intro _ | split | apply modEpoch_kept | apply raiseEvt_kept | refine kept_mk ?_ rfl)

theorem epochOpen_kept {s0 s : State} {c : CoreId} (h : Kept s0 s) : Kept s0 (epochOpen c s) := by
  unfold epochOpen
  split
  · next hd => exact modCore_at (fun _ _ h => h) (fun _ l => ⟨(l.core c).1, hd⟩) h
  · exact epochDepthErr_kept h

theorem epochRelease_kept {s0 s : State} {a0} {a1} (h : Kept s0 s) : Kept s0 (epochRelease a0 a1 s) := by
  unfold epochRelease
  with_reducible repeat' (first | assumption | refine kept_fst (by assumption) ?_ | exact fun _ _ h => h | intro _ | split | apply modCore_kept | apply modClus_kept | refine kept_mk ?_ rfl)

theorem epochCommit_kept {s0 s : State} {c : CoreId} (h : Kept s0 s) : Kept s0 (epochCommit c s) := by
  unfold epochCommit
  split
  · exact epochDepthErr_kept h
  · exact modEpoch_kept (fun _ _ _ => Nat.zero_le 8) (epochRelease_kept h)
  · next e =>
    refine modEpoch_kept (fun l _ _ => ?_) h
    have w := ((h.limits l).core c).2
    rw [e] at w
    exact Nat.le_of_succ_le w

theorem discardBytes_kept {s0 s : State} {a0} {a1} (h : Kept s0 s) : Kept s0 (discardBytes a0 a1 s) := by
  unfold discardBytes
  with_reducible repeat' (first | assumption | refine kept_fst (by assumption) ?_ | exact fun _ _ h => h | intro _ | split | apply modEpoch_kept | apply countCore_kept | refine kept_mk ?_ rfl)

theorem epochDrop_kept {s0 s : State} {c : CoreId} (h : Kept s0 s) : Kept s0 (epochDrop c s) := by
  unfold epochDrop
  split
  · exact h
  · next e =>
    refine foldl_kept (fun _ _ h => streamCancel_kept h) (modEpoch_kept (fun l _ _ => ?_) (discardBytes_kept (modClus_kept h)))
    have w := ((h.limits l).core c).2
    rw [e] at w
    exact Nat.le_of_succ_le w

theorem epochDiscard_kept {s0 s : State} {a0} (h : Kept s0 s) : Kept s0 (epochDiscard a0 s) := by
  unfold epochDiscard
  with_reducible repeat' (first | assumption | split | apply epochDepthErr_kept | apply epochDrop_kept)

theorem epochDropAll_kept {s0 s : State} {c} {n} (h : Kept s0 s) : Kept s0 (epochDropAll c n s) := by
  induction n generalizing s with
  | zero => exact h
  | succ n ih => exact ih (epochDrop_kept h)

theorem epochEnd_kept {s0 s : State} {a0} (h : Kept s0 s) : Kept s0 (epochEnd a0 s) := by
  unfold epochEnd
  with_reducible repeat' (first | assumption | refine kept_fst (by assumption) ?_ | exact fun _ _ h => h | intro _ | split | apply modEpoch_kept | apply epochDropAll_kept | refine kept_mk ?_ rfl)

theorem numberWrite_kept {s0 s : State} {a0} (h : Kept s0 s) : Kept s0 (numberWrite a0 s) := by
  unfold numberWrite
  with_reducible repeat' (first | assumption | apply modXfer_kept)

theorem putGo_kept {s0 s : State} {a0} {a1} {a2} {a3} {a4} {a5} (h : Kept s0 s) : Kept s0 (putGo a0 a1 a2 a3 a4 a5 s) := by
  unfold putGo
  with_reducible repeat' (first | assumption | refine kept_fst (by assumption) ?_ | exact fun _ _ h => h | intro _ | split | apply placeHeld_kept | apply queueFree_kept | apply sendOrAck_kept | apply discardBytes_kept | apply modClus_kept | refine kept_mk ?_ rfl)

theorem putDrop_kept {s0 s : State} {a0} {a1} {a2} (h : Kept s0 s) : Kept s0 (putDrop a0 a1 a2 s) := by
  unfold putDrop
  with_reducible repeat' (first | assumption | split | apply queueFree_kept | apply modClus_kept)

end Sys2Proof.Machine
end

