-- ==== Sys2Proof/Laws/KeptSummits.lean ====
section
/-! SUPPORT. What the definitions of Machine/Summits.lean keep (Safety: Kept), one lemma each. -/
set_option linter.all false
namespace Sys2Proof.Machine

theorem modInst_kept {s0 s : State} {a0} {a1} {a2} (h : Kept s0 s) : Kept s0 (modInst a0 a1 a2 s) := by
  unfold modInst
  with_reducible repeat' (first | assumption | apply modSummit_kept)

theorem summitSend_kept {s0 s : State} {a0} {a1} {a2} (h : Kept s0 s) : Kept s0 (summitSend a0 a1 a2 s) := by
  unfold summitSend
  with_reducible repeat' (first | assumption | refine kept_fst (by assumption) ?_ | exact fun _ _ h => h | intro _ | split | apply toCol_kept | refine kept_mk ?_ rfl)

theorem summitHold_kept {s0 s : State} {a0} {a1} {a2} (h : Kept s0 s) : Kept s0 (summitHold a0 a1 a2 s) := by
  unfold summitHold
  with_reducible repeat' (first | assumption | refine kept_fst (by assumption) ?_ | exact fun _ _ h => h | intro _ | split | apply modInst_kept | apply modSummit_kept | apply raiseEvt_kept | refine kept_mk ?_ rfl)

theorem heldNote_kept {s0 s : State} {a0} {a1} (h : Kept s0 s) : Kept s0 (heldNote a0 a1 s) := by
  unfold heldNote
  with_reducible repeat' (first | assumption | refine kept_fst (by assumption) ?_ | exact fun _ _ h => h | intro _ | split | apply modMassif_kept | refine kept_mk ?_ rfl)

theorem treeRoot_kept {s0 s : State} {a0} {a1} (h : Kept s0 s) : Kept s0 (treeRoot a0 a1 s) := by
  unfold treeRoot
  with_reducible repeat' (first | assumption | refine kept_fst (by assumption) ?_ | exact fun _ _ h => h | refine foldl_wf (fun _ _ _ => ?_) ?_ | intro _ | split | apply modInst_kept | apply summitSend_kept | apply summitHold_kept | apply foldl_kept | refine kept_mk ?_ rfl)

theorem treeSend_kept {s0 s : State} {a0} {a1} {a2} (h : Kept s0 s) : Kept s0 (treeSend a0 a1 a2 s) := by
  unfold treeSend
  with_reducible repeat' (first | assumption | refine kept_fst (by assumption) ?_ | exact fun _ _ h => h | intro _ | split | apply modInst_kept | apply summitSend_kept | refine kept_mk ?_ rfl)

theorem treeCheck_kept {s0 s : State} {a0} {a1} (h : Kept s0 s) : Kept s0 (treeCheck a0 a1 s) := by
  unfold treeCheck
  with_reducible repeat' (first | assumption | refine kept_fst (by assumption) ?_ | exact fun _ _ h => h | intro _ | split | apply heldNote_kept | apply treeRoot_kept | apply treeSend_kept | refine kept_mk ?_ rfl)

theorem treeCheckAll_kept {s0 s : State} {a0} (h : Kept s0 s) : Kept s0 (treeCheckAll a0 s) := by
  unfold treeCheckAll
  try dsimp only
  repeat' (first | with_reducible assumption | with_reducible refine kept_fst (by assumption) ?_ | with_reducible exact fun _ _ h => h | with_reducible exact fun _ h => h | with_reducible refine foldl_wf (fun _ _ _ => ?_) ?_ | with_reducible refine foldl_wf (fun _ _ _ => ?_) ?_ | with_reducible exact State.Canon.ledge (Kept.canon h (by with_reducible assumption)) _ | intro _ | split | with_reducible apply treeCheck_kept | with_reducible apply foldl_kept | with_reducible apply getD_kept | with_reducible refine kept_mk ?_ rfl | exact (rfl : Core.ledge (id _) = _) | (show CoreLim (id _); assumption) | with_reducible refine kept_words ?_ (smWf_smSet _ _ _) | with_reducible refine kept_words ?_ (smWf_filter _) | with_reducible refine kept_words ?_ (fun _ => rfl) | with_reducible refine kept_evts ?_ rfl (smWf_smSet _ _ _))

theorem summitArrive_kept {s0 s : State} {a0} {a1} {a2} {a3} (h : Kept s0 s) : Kept s0 (summitArrive a0 a1 a2 a3 s) := by
  unfold summitArrive
  with_reducible repeat' (first | assumption | refine kept_fst (by assumption) ?_ | exact fun _ _ h => h | intro _ | split | apply modInst_kept | apply summitHold_kept | apply heldNote_kept | apply treeCheck_kept | refine kept_mk ?_ rfl)

theorem modErr_kept {s0 s : State} {a0} {a1} (h : Kept s0 s) : Kept s0 (modErr a0 a1 s) := by
  unfold modErr
  with_reducible repeat' (first | assumption | refine kept_fst (by assumption) ?_ | exact fun _ _ h => h | intro _ | split | apply modCore_kept | refine kept_mk ?_ rfl)

theorem gatePut_kept {s0 s : State} {a0} {a1} {a2} (h : Kept s0 s) : Kept s0 (gatePut a0 a1 a2 s) := by
  unfold gatePut
  with_reducible repeat' (first | assumption | refine kept_fst (by assumption) ?_ | exact fun _ _ h => h | intro _ | split | apply modErr_kept | refine kept_mk ?_ rfl)

theorem modCairn_kept {s0 s : State} {a0} {a1} (h : Kept s0 s) : Kept s0 (modCairn a0 a1 s) := by
  unfold modCairn
  with_reducible repeat' (first | assumption | exact fun _ _ h => h | apply modCore_kept)

theorem failArrive_kept {s0 s : State} {a0} {a1} {a2} (h : Kept s0 s) : Kept s0 (failArrive a0 a1 a2 s) := by
  unfold failArrive
  with_reducible repeat' (first | assumption | refine kept_fst (by assumption) ?_ | exact fun _ _ h => h | intro _ | split | apply summitArrive_kept | apply modCairn_kept | refine kept_mk ?_ rfl)

theorem failArriveAll_kept {s0 s : State} {a0} (h : Kept s0 s) : Kept s0 (failArriveAll a0 s) := by
  unfold failArriveAll
  with_reducible repeat' (first | assumption | intro _ | split | apply failArrive_kept | apply foldl_kept)

theorem withheldMake_kept {s0 s : State} {a0} {a1} (h : Kept s0 s) : Kept s0 (withheldMake a0 a1 s) := by
  unfold withheldMake
  with_reducible repeat' (first | assumption | refine kept_fst (by assumption) ?_ | exact fun _ _ h => h | intro _ | split | apply gatePut_kept | apply modCairn_kept | refine kept_mk ?_ rfl)

theorem releaseCore_kept {s0 s : State} {a0} {a1} {a2} (h : Kept s0 s) : Kept s0 (releaseCore a0 a1 a2 s) := by
  unfold releaseCore
  with_reducible repeat' (first | assumption | refine kept_fst (by assumption) ?_ | exact fun _ _ h => h | apply cacheClear_wf | intro _ | split | apply failArrive_kept | apply withheldMake_kept | apply modCore_kept | refine kept_mk ?_ rfl)

theorem releaseClus_kept {s0 s : State} {a0} {a1} {a2} {a3} (h : Kept s0 s) : Kept s0 (releaseClus a0 a1 a2 a3 s) := by
  unfold releaseClus
  with_reducible repeat' (first | assumption | refine kept_fst (by assumption) ?_ | exact fun _ _ h => h | refine foldl_wf (fun _ _ _ => ?_) ?_ | intro _ | split | apply ridgeMove_kept | apply releaseCore_kept | apply foldl_kept | refine kept_mk ?_ rfl)

theorem summitAdvance_kept {s0 s : State} {a0} {a1} (h : Kept s0 s) : Kept s0 (summitAdvance a0 a1 s) := by
  unfold summitAdvance
  with_reducible repeat' (first | assumption | apply modInst_kept)

theorem stairStart_kept {s0 s : State} {a0} {a1} (h : Kept s0 s) : Kept s0 (stairStart a0 a1 s) := by
  unfold stairStart
  with_reducible repeat' (first | assumption | apply modSummit_kept)

theorem treeRecord_kept {s0 s : State} {a0} {a1} (h : Kept s0 s) : Kept s0 (treeRecord a0 a1 s) := by
  unfold treeRecord
  with_reducible repeat' (first | assumption | split | apply modSummit_kept | apply retarget_kept | apply raiseEvt_kept)

theorem treeRelease_kept {s0 s : State} {a0} {a1} (h : Kept s0 s) : Kept s0 (treeRelease a0 a1 s) := by
  unfold treeRelease
  with_reducible repeat' (first | assumption | intro _ | apply summitSend_kept | apply stairStart_kept | apply treeRecord_kept | apply summitAdvance_kept | apply foldl_kept)

theorem summitRelease_kept {s0 s : State} {a0} {a1} {a2} (h : Kept s0 s) : Kept s0 (summitRelease a0 a1 a2 s) := by
  unfold summitRelease
  with_reducible repeat' (first | assumption | refine kept_fst (by assumption) ?_ | exact fun _ _ h => h | intro _ | split | apply releaseClus_kept | apply summitAdvance_kept | apply stairStart_kept | apply treeRelease_kept | refine kept_mk ?_ rfl)

theorem genErr_kept {s0 s : State} {a0} (h : Kept s0 s) : Kept s0 (genErr a0 s) := by
  unfold genErr
  with_reducible repeat' (first | assumption | refine kept_fst (by assumption) ?_ | exact fun _ _ h => h | intro _ | split | apply modSummit_kept | apply raiseEvt_kept | refine kept_mk ?_ rfl)

theorem summitReceive_kept {s0 s : State} {a0} {a1} {a2} (h : Kept s0 s) : Kept s0 (summitReceive a0 a1 a2 s) := by
  unfold summitReceive
  with_reducible repeat' (first | assumption | refine kept_fst (by assumption) ?_ | exact fun _ _ h => h | refine foldl_wf (fun _ _ _ => ?_) ?_ | intro _ | split | apply modInst_kept | apply summitSend_kept | apply summitHold_kept | apply heldNote_kept | apply treeCheck_kept | apply treeRelease_kept | apply genErr_kept | apply foldl_kept | refine kept_mk ?_ rfl)

theorem treeBreak_kept {s0 s : State} {a0} (h : Kept s0 s) : Kept s0 (treeBreak a0 s) := by
  unfold treeBreak
  dsimp only
  with_reducible repeat' (first | assumption | intro _ | split | apply raiseEvt_kept | apply modSummit_kept | apply foldl_kept)

theorem execArrivalDepart_kept {s t : State} {a0} {a1} (h : execArrivalDepart a0 a1 s = .next t) : Kept s t := by
  unfold execArrivalDepart at h
  refine whenAwake_kept (fun {s0 s} h => ?_) h
  with_reducible repeat' (first | assumption | refine kept_fst (by assumption) ?_ | exact fun _ _ h => h | intro _ | split | apply ridgeDie_kept | apply summitArrive_kept | apply modCairn_kept | refine kept_mk ?_ rfl)

theorem execSummitRelease_kept {s t : State} {a0} {a1} {a2} (h : execSummitRelease a0 a1 a2 s = .next t) : Kept s t := by
  unfold execSummitRelease at h
  refine whenAwake_kept (fun {s0 s} h => ?_) h
  with_reducible repeat' (first | assumption | apply summitRelease_kept)

theorem execStaircaseRelease_kept {s t : State} {a0} {a1} {a2} (h : execStaircaseRelease a0 a1 a2 s = .next t) : Kept s t := by
  unfold execStaircaseRelease at h
  refine whenAwake_kept (fun {s0 s} h => ?_) h
  with_reducible repeat' (first | assumption | refine kept_fst (by assumption) ?_ | exact fun _ _ h => h | intro _ | split | apply releaseClus_kept | apply modSummit_kept | refine kept_mk ?_ rfl)

theorem execScreeStepDown_kept {s t : State} {a0} (h : execScreeStepDown a0 s = .next t) : Kept s t := by
  unfold execScreeStepDown at h
  refine whenAwake_kept (fun {s0 s} h => ?_) h
  dsimp only
  with_reducible repeat' (first | assumption | split | apply modCairn_kept)

theorem execRampQuarter_kept {s t : State} {a0} (h : execRampQuarter a0 s = .next t) : Kept s t := by
  unfold execRampQuarter at h
  refine whenAwake_kept (fun {s0 s} h => ?_) h
  with_reducible repeat' (first | assumption | apply modCairn_kept)

end Sys2Proof.Machine
end

