-- ==== Sys2Proof/Laws/KeptRecovery.lean ====
section
/-! SUPPORT. What the definitions of Machine/Recovery.lean keep (Safety: Kept), one lemma each. -/
set_option linter.all false
namespace Sys2Proof.Machine

theorem modIssue_kept {s0 s : State} {c : CoreId} {f : IssueSt → IssueSt}
    (hl : s0.Limits → ∀ i, i.pfs.getLsbD 0 = true → (f i).pfs.getLsbD 0 = true) (h : Kept s0 s) : Kept s0 (modIssue c f s) :=
  modCore_kept (fun _ _ h => h) (fun l _ h => ⟨hl l _ h.1, h.2⟩) h

theorem trapStop_kept {s0 s : State} {a0} (h : Kept s0 s) : Kept s0 (trapStop a0 s) := by
  unfold trapStop
  with_reducible repeat' (first | assumption | refine kept_fst (by assumption) ?_ | exact fun _ _ h => h | intro _ | split | apply modIssue_kept | refine kept_mk ?_ rfl)

theorem trapRaised_kept {s0 s : State} {a0} {a1} (h : Kept s0 s) : Kept s0 (trapRaised a0 a1 s) := by
  unfold trapRaised
  with_reducible repeat' (first | assumption | refine kept_fst (by assumption) ?_ | exact fun _ _ h => h | intro _ | split | apply trapStop_kept | refine kept_mk ?_ rfl)

theorem gateGo_kept {s0 s : State} {a0} {a1} {a2} (h : Kept s0 s) : Kept s0 (gateGo a0 a1 a2 s) := by
  unfold gateGo
  with_reducible repeat' (first | assumption | refine kept_fst (by assumption) ?_ | exact fun _ _ h => h | intro _ | split | apply modStream_kept | apply nextDescriptor_kept | apply putGo_kept | apply modCairn_kept | refine kept_mk ?_ rfl)

theorem gateOpen_kept {s0 s : State} {c : CoreId} {l : List (BitVec 48 × GateItem)} (h : Kept s0 s) : Kept s0 (gateOpen c l s) := by
  induction l generalizing s with
  | nil => exact h
  | cons e l ih =>
    unfold gateOpen
    split
    · exact ih h
    · exact ih (gateGo_kept (modErr_kept h))

theorem gateRun_kept {s0 s : State} {a0} (h : Kept s0 s) : Kept s0 (gateRun a0 s) := by
  unfold gateRun
  exact gateOpen_kept h

theorem numberDone_kept {s0 s : State} {a0} {a1} (h : Kept s0 s) : Kept s0 (numberDone a0 a1 s) := by
  unfold numberDone
  with_reducible repeat' (first | assumption | apply relDone_kept | apply modXfer_kept)

theorem gateDiscard_kept {s0 s : State} {a0} {a1} (h : Kept s0 s) : Kept s0 (gateDiscard a0 a1 s) := by
  unfold gateDiscard
  with_reducible repeat' (first | assumption | refine kept_fst (by assumption) ?_ | exact fun _ _ h => h | intro _ | split | apply streamIdle_kept | apply putDrop_kept | apply modErr_kept | apply modCairn_kept | apply numberDone_kept | refine kept_mk ?_ rfl)

theorem gateDiscardAll_kept {s0 s : State} {a0} (h : Kept s0 s) : Kept s0 (gateDiscardAll a0 s) := by
  unfold gateDiscardAll
  with_reducible repeat' (first | assumption | intro _ | apply gateDiscard_kept | apply modErr_kept | apply foldl_kept)

theorem fifoFree_kept {s0 s : State} {a0} (h : Kept s0 s) : Kept s0 (fifoFree a0 s) := by
  unfold fifoFree
  with_reducible repeat' (first | assumption | apply modClus_kept)

theorem marksPass_kept {s0 s : State} {a0} (h : Kept s0 s) : Kept s0 (marksPass a0 s) := by
  unfold marksPass
  with_reducible repeat' (first | assumption | apply modSeq_kept)

theorem progress_kept {s0 s : State} {a0} (h : Kept s0 s) : Kept s0 (progress a0 s) := by
  unfold progress
  dsimp only
  with_reducible repeat' (first | assumption | split | apply fifoFree_kept | apply marksPass_kept)

theorem hardError_kept {s0 s : State} {a0} {a1} {a2} {a3} {a4} {a5} {a6} {a7} (h : Kept s0 s) : Kept s0 (hardError a0 a1 a2 a3 a4 a5 a6 a7 s) := by
  unfold hardError
  with_reducible repeat' (first | assumption | intro _ | split | apply gateDiscardAll_kept | apply modCore_kept | apply storeUnwait_kept | apply streamCancel_kept | apply progress_kept | apply failArriveAll_kept | apply raiseEvt_kept | apply foldl_kept)

theorem trapForward_kept {s0 s : State} {a0} (h : Kept s0 s) : Kept s0 (trapForward a0 s) := by
  unfold trapForward
  with_reducible repeat' (first | assumption | refine kept_fst (by assumption) ?_ | exact fun _ _ h => h | intro _ | split | apply ridgeDie_kept | apply modCore_kept | apply modClus_kept | apply raiseEvt_kept | apply getD_kept | refine kept_mk ?_ rfl)

theorem execTrapForward_kept {s t : State} {a0} (h : execTrapForward a0 s = .next t) : Kept s t := by
  unfold execTrapForward at h
  refine whenAwake_kept (fun {s0 s} h => ?_) h
  with_reducible repeat' (first | assumption | refine kept_fst (by assumption) ?_ | exact fun _ _ h => h | intro _ | split | apply trapForward_kept | refine kept_mk ?_ rfl)

end Sys2Proof.Machine
end

