-- ==== Sys2Proof/Laws/KeptTxSlots.lean ====
section
/-! SUPPORT. What the definitions of Machine/TxSlots.lean keep (Safety: Kept), one lemma each. -/
set_option linter.all false
namespace Sys2Proof.Machine

theorem streamStart_kept {s0 s : State} {a0} {a1} {a2} {a3} (h : Kept s0 s) : Kept s0 (streamStart a0 a1 a2 a3 s) := by
  unfold streamStart
  try dsimp only
  repeat' (first | with_reducible assumption | with_reducible exact fun _ _ h => h | with_reducible exact fun _ h => h | with_reducible exact State.Canon.ledge (Kept.canon h (by with_reducible assumption)) _ | intro _ | split | with_reducible apply modStream_kept | with_reducible apply foldl_kept | with_reducible apply getD_kept | with_reducible refine kept_mk ?_ rfl | exact (rfl : Core.ledge (id _) = _) | with_reducible refine kept_words ?_ (smWf_smSet _ _ _) | with_reducible refine kept_words ?_ (smWf_filter _) | with_reducible refine kept_words ?_ (fun _ => rfl) | with_reducible refine kept_evts ?_ rfl (smWf_smSet _ _ _))

theorem streamBurst_kept {s0 s : State} {a0} {a1} {a2} (h : Kept s0 s) : Kept s0 (streamBurst a0 a1 a2 s) := by
  unfold streamBurst
  try dsimp only
  repeat' (first | with_reducible assumption | with_reducible exact fun _ _ h => h | with_reducible exact fun _ h => h | with_reducible exact State.Canon.ledge (Kept.canon h (by with_reducible assumption)) _ | intro _ | split | with_reducible apply modXfer_kept | with_reducible apply foldl_kept | with_reducible apply getD_kept | with_reducible refine kept_mk ?_ rfl | exact (rfl : Core.ledge (id _) = _) | with_reducible refine kept_words ?_ (smWf_smSet _ _ _) | with_reducible refine kept_words ?_ (smWf_filter _) | with_reducible refine kept_words ?_ (fun _ => rfl) | with_reducible refine kept_evts ?_ rfl (smWf_smSet _ _ _))

theorem txgoSlot_kept {s0 s : State} {a0} {a1} {a2} {a3} {a4} (h : Kept s0 s) : Kept s0 (txgoSlot a0 a1 a2 a3 a4 s) := by
  unfold txgoSlot
  try dsimp only
  repeat' (first | with_reducible assumption | with_reducible refine kept_fst (by assumption) ?_ | with_reducible exact fun _ _ h => h | with_reducible exact fun _ h => h | with_reducible apply ledgeRead_wf | with_reducible apply oneStep_wf | with_reducible apply oneStep_lim | with_reducible refine foldl_wf (fun _ _ _ => ?_) ?_ | with_reducible exact State.Canon.ledge (Kept.canon h (by with_reducible assumption)) _ | intro _ | split | with_reducible apply gatePut_kept | with_reducible apply streamStart_kept | with_reducible apply streamBurst_kept | with_reducible apply modCore_kept | with_reducible apply foldl_kept | with_reducible apply getD_kept | with_reducible refine kept_mk ?_ rfl | exact (rfl : Core.ledge (id _) = _) | (show CoreLim (id _); assumption) | with_reducible refine kept_words ?_ (smWf_smSet _ _ _) | with_reducible refine kept_words ?_ (smWf_filter _) | with_reducible refine kept_words ?_ (fun _ => rfl) | with_reducible refine kept_evts ?_ rfl (smWf_smSet _ _ _))

/-- An EXT operation keeps PF0 (R73, R108). -/
theorem extSlot_pf0 {env : Env} {t : Latched} {op : ExtOp} {i : IssueSt} (h : i.pfs.getLsbD 0 = true) :
    (extSlot env t op i).pfs.getLsbD 0 = true := by
  unfold extSlot
  split <;> first | exact h | exact pfWrite_pf0 _ _ _ h

theorem txputSlot_kept {s0 s : State} {a0} {a1} {a2} {a3} {a4} (h : Kept s0 s) : Kept s0 (txputSlot a0 a1 a2 a3 a4 s) := by
  unfold txputSlot
  try dsimp only
  repeat' (first | with_reducible assumption | with_reducible refine kept_fst (by assumption) ?_ | with_reducible exact fun _ _ h => h | with_reducible exact fun _ h => h | with_reducible apply ledgeRead_wf | with_reducible apply oneStep_wf | with_reducible apply oneStep_lim | with_reducible refine foldl_wf (fun _ _ _ => ?_) ?_ | with_reducible exact State.Canon.ledge (Kept.canon h (by with_reducible assumption)) _ | intro _ | split | with_reducible apply modXfer_kept | with_reducible apply storeUnwait_kept | with_reducible apply numberWrite_kept | with_reducible apply gatePut_kept | with_reducible apply modCore_kept | with_reducible apply modClus_kept | with_reducible apply foldl_kept | with_reducible apply getD_kept | with_reducible refine kept_mk ?_ rfl | exact (rfl : Core.ledge (id _) = _) | (show CoreLim (id _); assumption) | with_reducible refine kept_words ?_ (smWf_smSet _ _ _) | with_reducible refine kept_words ?_ (smWf_filter _) | with_reducible refine kept_words ?_ (fun _ => rfl) | with_reducible refine kept_evts ?_ rfl (smWf_smSet _ _ _))

theorem txSlot_kept {s0 s : State} {a0} {a1} {a2} {a3} {a4} (h : Kept s0 s) : Kept s0 (txSlot a0 a1 a2 a3 a4 s) := by
  unfold txSlot
  with_reducible repeat' (first | assumption | refine kept_fst (by assumption) ?_ | exact fun _ _ h => h | intro _ | split | apply streamCancel_kept | apply txgoSlot_kept | apply txputSlot_kept | refine kept_mk ?_ rfl)

theorem arrivalMake_kept {s0 s : State} {a0} {a1} {a2} {a3} {a4} (h : Kept s0 s) : Kept s0 (arrivalMake a0 a1 a2 a3 a4 s) := by
  unfold arrivalMake
  with_reducible repeat' (first | assumption | refine kept_fst (by assumption) ?_ | exact fun _ _ h => h | intro _ | split | apply gatePut_kept | apply modCairn_kept | refine kept_mk ?_ rfl)

theorem synSlot_kept {s0 s : State} {a0} {a1} {a2} {a3} (h : Kept s0 s) : Kept s0 (synSlot a0 a1 a2 a3 s) := by
  unfold synSlot
  with_reducible repeat' (first | assumption | refine kept_fst (by assumption) ?_ | exact fun _ _ h => h | intro _ | split | apply epochOpen_kept | apply epochCommit_kept | apply epochDiscard_kept | apply modCairn_kept | apply arrivalMake_kept | refine kept_mk ?_ rfl)

end Sys2Proof.Machine
end

