-- ==== Sys2Proof/Laws/KeptIssue.lean ====
section
/-! SUPPORT. What the definitions of Machine/Issue.lean keep (Safety: Kept), one lemma each. -/
set_option linter.all false
namespace Sys2Proof.Machine

theorem synNote_kept {s0 s : State} {a0} {a1} (h : Kept s0 s) : Kept s0 (synNote a0 a1 s) := by
  unfold synNote
  dsimp only
  with_reducible repeat' (first | assumption | intro _ | split | apply modCore_kept)

theorem holdIssue_kept {s0 s : State} {a0} {a1} {a2} (h : Kept s0 s) : Kept s0 (holdIssue a0 a1 a2 s) := by
  unfold holdIssue
  with_reducible repeat' (first | assumption | refine kept_fst (by assumption) ?_ | exact fun _ _ h => h | intro _ | split | apply modIssue_kept | refine kept_mk ?_ rfl)

theorem waitArrive_kept {s0 s : State} {a0} {a1} {a2} (h : Kept s0 s) : Kept s0 (waitArrive a0 a1 a2 s) := by
  unfold waitArrive
  with_reducible repeat' (first | assumption | split | apply gateRun_kept | apply arrivalMake_kept)

theorem slotCount_kept {s0 s : State} {a0} {a1} (h : Kept s0 s) : Kept s0 (slotCount a0 a1 s) := by
  unfold slotCount
  with_reducible repeat' (first | assumption | refine kept_fst (by assumption) ?_ | exact fun _ _ h => h | intro _ | split | apply countCore_kept | refine kept_mk ?_ rfl)

theorem mxeCount_kept {s0 s : State} {a0} {a1} (h : Kept s0 s) : Kept s0 (mxeCount a0 a1 s) := by
  unfold mxeCount
  with_reducible repeat' (first | assumption | refine kept_fst (by assumption) ?_ | exact fun _ _ h => h | intro _ | split | apply countCore_kept | refine kept_mk ?_ rfl)

theorem vxeCount_kept {s0 s : State} {a0} {a1} (h : Kept s0 s) : Kept s0 (vxeCount a0 a1 s) := by
  unfold vxeCount
  with_reducible repeat' (first | assumption | refine kept_fst (by assumption) ?_ | exact fun _ _ h => h | intro _ | split | apply countCore_kept | refine kept_mk ?_ rfl)

theorem ostCount_kept {s0 s : State} {a0} {a1} {a2} (h : Kept s0 s) : Kept s0 (ostCount a0 a1 a2 s) := by
  unfold ostCount
  with_reducible repeat' (first | assumption | refine kept_fst (by assumption) ?_ | exact fun _ _ h => h | intro _ | split | apply countCore_kept | refine kept_mk ?_ rfl)

theorem issueCounts_kept {s0 s : State} {a0} {a1} {a2} {a3} (h : Kept s0 s) : Kept s0 (issueCounts a0 a1 a2 a3 s) := by
  unfold issueCounts
  with_reducible repeat' (first | assumption | refine kept_fst (by assumption) ?_ | exact fun _ _ h => h | intro _ | split | apply slotCount_kept | apply mxeCount_kept | apply vxeCount_kept | apply ostCount_kept | apply countCore_kept | refine kept_mk ?_ rfl)

theorem missBeat_kept {s0 s : State} {a0} {a1} (h : Kept s0 s) : Kept s0 (missBeat a0 a1 s) := by
  unfold missBeat
  dsimp only
  with_reducible repeat' (first | assumption | intro _ | split | apply noteMiss_kept | apply foldl_kept)

theorem slotRun_kept {s0 s : State} {a0} {a1} {a2} {a3} {a4} (h : Kept s0 s) : Kept s0 (slotRun a0 a1 a2 a3 a4 s) := by
  unfold slotRun
  try dsimp only
  repeat' (first | with_reducible assumption | with_reducible refine kept_fst (by assumption) ?_ | with_reducible exact fun _ _ h => h | with_reducible exact fun _ h => h | with_reducible apply mxeSlot_wf | with_reducible apply vxeSlot_wf | with_reducible apply ostSlot_wf | with_reducible apply mxeSlot_lim | with_reducible apply vxeSlot_lim | with_reducible apply ostSlot_lim | with_reducible apply extSlot_pf0 | with_reducible refine foldl_wf (fun _ _ _ => ?_) ?_ | with_reducible exact State.Canon.ledge (Kept.canon h (by with_reducible assumption)) _ | intro _ | split | with_reducible apply modIssue_kept | with_reducible apply gateRun_kept | with_reducible apply txSlot_kept | with_reducible apply synSlot_kept | with_reducible apply modCore_kept | with_reducible apply foldl_kept | with_reducible apply getD_kept | with_reducible refine kept_mk ?_ rfl | exact (rfl : Core.ledge (id _) = _) | (show CoreLim (id _); assumption) | with_reducible refine kept_words ?_ (smWf_smSet _ _ _) | with_reducible refine kept_words ?_ (smWf_filter _) | with_reducible refine kept_words ?_ (fun _ => rfl) | with_reducible refine kept_evts ?_ rfl (smWf_smSet _ _ _))

theorem slotsRun_kept {s0 s : State} {b c env r o} {l : List Nat} (h : Kept s0 s) : Kept s0 (slotsRun b c env r o l s) := by
  induction l generalizing s with
  | nil => exact h
  | cons n l ih =>
    unfold slotsRun
    split
    · exact modErr_kept h
    · exact ih (slotRun_kept h)

theorem issueSlots_kept {s0 s : State} {a0} {a1} {a2} {a3} (h : Kept s0 s) : Kept s0 (issueSlots a0 a1 a2 a3 s) := slotsRun_kept h

theorem restRun_kept {s0 s : State} {a0} {a1} (h : Kept s0 s) : Kept s0 (restRun a0 a1 s) := by
  unfold restRun
  with_reducible repeat' (first | assumption | refine kept_fst (by assumption) ?_ | exact fun _ _ h => h | intro _ | split | apply modErr_kept | apply slotsRun_kept | refine kept_mk ?_ rfl)

theorem showRerun_kept {s0 s : State} {a0} (h : Kept s0 s) : Kept s0 (showRerun a0 s) := by
  unfold showRerun
  with_reducible repeat' (first | assumption | refine kept_fst (by assumption) ?_ | exact fun _ _ h => h | intro _ | split | apply holdIssue_kept | refine kept_mk ?_ rfl)

theorem cyclesServe_kept {s0 s : State} {a0} {a1} {a2} (h : Kept s0 s) : Kept s0 (cyclesServe a0 a1 a2 s) := by
  unfold cyclesServe
  with_reducible repeat' (first | assumption | refine kept_fst (by assumption) ?_ | exact fun _ _ h => h | refine foldl_wf (fun _ _ _ => ?_) ?_ | intro _ | split | apply beatCycle_kept | apply insertServe_kept | apply foldl_kept | refine kept_mk ?_ rfl)

theorem cyclesRun_kept {s0 s : State} {a0} {a1} (h : Kept s0 s) : Kept s0 (cyclesRun a0 a1 s) := by
  unfold cyclesRun
  with_reducible repeat' (first | assumption | refine kept_fst (by assumption) ?_ | exact fun _ _ h => h | intro _ | split | apply modErr_kept | apply cyclesServe_kept | refine kept_mk ?_ rfl)

theorem issueEnd_kept {s0 s : State} {a0} {a1} (h : Kept s0 s) : Kept s0 (issueEnd a0 a1 s) := by
  unfold issueEnd
  with_reducible repeat' (first | assumption | refine kept_fst (by assumption) ?_ | exact fun _ _ h => h | intro _ | split | apply trapStop_kept | apply progress_kept | apply synNote_kept | apply holdIssue_kept | apply modCore_kept | refine kept_mk ?_ rfl)

theorem issueGo_kept {s0 s : State} {a0} {a1} {a2} {a3} {a4} (h : Kept s0 s) : Kept s0 (issueGo a0 a1 a2 a3 a4 s) := by
  unfold issueGo
  with_reducible repeat' (first | assumption | refine kept_fst (by assumption) ?_ | exact fun _ _ h => h | intro _ | split | apply modErr_kept | apply beatCycle_kept | apply issueCounts_kept | apply missBeat_kept | apply issueSlots_kept | apply issueEnd_kept | refine kept_mk ?_ rfl)

theorem issueTry_kept {s0 s : State} {a0} {a1} {a2} (h : Kept s0 s) : Kept s0 (issueTry a0 a1 a2 s) := by
  unfold issueTry
  with_reducible repeat' (first | assumption | refine kept_fst (by assumption) ?_ | exact fun _ _ h => h | intro _ | split | apply noteFull_kept | apply modIssue_kept | apply synNote_kept | apply holdIssue_kept | apply waitArrive_kept | apply issueGo_kept | refine kept_mk ?_ rfl)

theorem badWait_kept {s0 s : State} {a0} {a1} (h : Kept s0 s) : Kept s0 (badWait a0 a1 s) := by
  unfold badWait
  with_reducible repeat' (first | assumption | refine kept_fst (by assumption) ?_ | exact fun _ _ h => h | intro _ | split | apply holdIssue_kept | refine kept_mk ?_ rfl)

theorem issueBundle_kept {s0 s : State} {a0} {a1} (h : Kept s0 s) : Kept s0 (issueBundle a0 a1 s) := by
  unfold issueBundle
  with_reducible repeat' (first | assumption | refine kept_fst (by assumption) ?_ | exact fun _ _ h => h | intro _ | split | apply hardError_kept | apply holdIssue_kept | apply issueTry_kept | apply badWait_kept | apply modClus_kept | refine kept_mk ?_ rfl)

theorem execIssueBundle_kept {s t : State} {a0} {a1} (h : execIssueBundle a0 a1 s = .next t) : Kept s t := by
  unfold execIssueBundle at h
  refine whenAwake_kept (fun {s0 s} h => ?_) h
  with_reducible repeat' (first | assumption | apply issueBundle_kept)

theorem slotAct_kept {s0 s : State} {a0} {a1} {a2 : Env → Latched → State → State} (h2 : ∀ {s0 s : State} x0 x1, Kept s0 s → Kept s0 (a2 x0 x1 s)) (h : Kept s0 s) : Kept s0 (slotAct a0 a1 a2 s) := by
  unfold slotAct
  with_reducible repeat' (first | assumption | refine kept_fst (by assumption) ?_ | exact fun _ _ h => h | refine h2 _ _ ?_ | intro _ | split | apply trapRaised_kept | apply showRerun_kept | refine kept_mk ?_ rfl)

theorem mxeAlone_kept {s t : State} {a0} {a1} (h : mxeAlone a0 a1 s = .next t) : Kept s t := by
  unfold mxeAlone at h
  refine whenAwake_kept (fun {s0 s} h => ?_) h
  with_reducible repeat' (first | assumption | refine kept_fst (by assumption) ?_ | exact fun _ _ h => h | apply mxeSlot_wf | apply mxeSlot_lim | intro _ | split | apply gateRun_kept | apply slotCount_kept | apply mxeCount_kept | apply slotAct_kept | apply modCore_kept | refine kept_mk ?_ rfl)

theorem vxeAlone_kept {s t : State} {a0} {a1} (h : vxeAlone a0 a1 s = .next t) : Kept s t := by
  unfold vxeAlone at h
  refine whenAwake_kept (fun {s0 s} h => ?_) h
  with_reducible repeat' (first | assumption | refine kept_fst (by assumption) ?_ | exact fun _ _ h => h | apply vxeSlot_wf | apply vxeSlot_lim | intro _ | split | apply slotCount_kept | apply vxeCount_kept | apply slotAct_kept | apply modCore_kept | refine kept_mk ?_ rfl)

theorem ostAlone_kept {s t : State} {a0} {a1} (h : ostAlone a0 a1 s = .next t) : Kept s t := by
  unfold ostAlone at h
  refine whenAwake_kept (fun {s0 s} h => ?_) h
  with_reducible repeat' (first | assumption | refine kept_fst (by assumption) ?_ | exact fun _ _ h => h | apply ostSlot_wf | apply ostSlot_lim | intro _ | split | apply slotCount_kept | apply ostCount_kept | apply slotAct_kept | apply modCore_kept | refine kept_mk ?_ rfl)

theorem txAlone_kept {s t : State} {a0} {a1} {a2} (h : txAlone a0 a1 a2 s = .next t) : Kept s t := by
  unfold txAlone at h
  refine whenAwake_kept (fun {s0 s} h => ?_) h
  with_reducible repeat' (first | assumption | refine kept_fst (by assumption) ?_ | exact fun _ _ h => h | intro _ | split | apply gateRun_kept | apply txSlot_kept | apply slotCount_kept | apply slotAct_kept | refine kept_mk ?_ rfl)

theorem synAlone_kept {s t : State} {a0} {a1} (h : synAlone a0 a1 s = .next t) : Kept s t := by
  unfold synAlone at h
  refine whenAwake_kept (fun {s0 s} h => ?_) h
  dsimp only
  with_reducible repeat' (first | assumption | intro _ | split | apply slotAct_kept | apply waitArrive_kept | apply synNote_kept | apply gateRun_kept | apply synSlot_kept)

theorem extAlone_kept {s t : State} {a0} {a1} (h : extAlone a0 a1 s = .next t) : Kept s t := by
  unfold extAlone at h
  refine whenAwake_kept (fun {s0 s} h => ?_) h
  try dsimp only
  repeat' (first | with_reducible assumption | with_reducible refine kept_fst (by assumption) ?_ | with_reducible exact fun _ _ h => h | with_reducible exact fun _ h => h | with_reducible apply extSlot_pf0 | with_reducible refine foldl_wf (fun _ _ _ => ?_) ?_ | with_reducible exact State.Canon.ledge (Kept.canon h (by with_reducible assumption)) _ | intro _ | split | with_reducible apply modIssue_kept | with_reducible apply slotAct_kept | with_reducible apply foldl_kept | with_reducible apply getD_kept | with_reducible refine kept_mk ?_ rfl | exact (rfl : Core.ledge (id _) = _) | (show CoreLim (id _); assumption) | with_reducible refine kept_words ?_ (smWf_smSet _ _ _) | with_reducible refine kept_words ?_ (smWf_filter _) | with_reducible refine kept_words ?_ (fun _ => rfl) | with_reducible refine kept_evts ?_ rfl (smWf_smSet _ _ _))

theorem rerunFinish_kept {s0 s : State} {a0} {a1} {a2} {a3} {a4} {a5} {a6} {a7 : State → State} (h7 : ∀ {s0 s : State} , Kept s0 s → Kept s0 (a7  s)) (h : Kept s0 s) : Kept s0 (rerunFinish a0 a1 a2 a3 a4 a5 a6 a7 s) := by
  unfold rerunFinish
  with_reducible repeat' (first | assumption | refine kept_fst (by assumption) ?_ | exact fun _ _ h => h | refine foldl_wf (fun _ _ _ => ?_) ?_ | apply suspectClose_wf | apply suspectClose_lim | refine h7  ?_ | intro _ | split | apply modErr_kept | apply trapStop_kept | apply gateRun_kept | apply hardError_kept | apply slotCount_kept | apply restRun_kept | apply showRerun_kept | apply cyclesServe_kept | apply cyclesRun_kept | apply modCore_kept | apply foldl_kept | refine kept_mk ?_ rfl)

theorem rerunRead_kept {s0 s : State} {c} {r} {env} {req} {base} {len} {commit : List Byte → State → State}
    (hc : ∀ {s0 s : State} bs, Kept s0 s → Kept s0 (commit bs s)) (h : Kept s0 s) :
    Kept s0 (rerunRead c r env req base len commit s) := by
  unfold rerunRead
  refine rerunFinish_kept (fun h => ?_) (modLedge_kept (fun hs _ _ => ledgeRead_wf (State.Canon.ledge (h.canon hs) c)) h)
  split
  · exact h
  · exact hc _ h

theorem rerunMxe_kept {s0 s : State} {c} {r} {run} {env} (h : Kept s0 s) : Kept s0 (rerunMxe c r run env s) :=
  rerunFinish_kept (fun h => h)
    (countCore_kept (modCore_kept (fun hs _ _ => rerunSteps_wf (State.Canon.ledge (h.canon hs) c)) (fun _ _ w => w) h))

theorem passRerun_kept {s0 s : State} {a0} {a1} (h : Kept s0 s) : Kept s0 (passRerun a0 a1 s) := by
  unfold passRerun
  split
  · exact h
  · split
    · exact h
    · dsimp only; split
      · exact rerunMxe_kept h
      · exact rerunRead_kept (fun _ h => modCore_kept (fun _ _ w => w) (fun _ _ w => w) h) h
      · exact rerunRead_kept (fun _ h => modCore_kept (fun _ _ w => w) (fun _ _ w => w) h) h
      · exact rerunRead_kept (fun _ h => streamBurst_kept h) h
      · exact rerunRead_kept (fun _ h => modErr_kept h) h

theorem execPassRerun_kept {s t : State} {a0} {a1} (h : execPassRerun a0 a1 s = .next t) : Kept s t := by
  unfold execPassRerun at h
  refine whenAwake_kept (fun {s0 s} h => ?_) h
  with_reducible repeat' (first | assumption | apply passRerun_kept)

theorem releasedTake_kept {s0 s : State} {a0} (h : Kept s0 s) : Kept s0 (releasedTake a0 s) := by
  unfold releasedTake
  with_reducible repeat' (first | assumption | refine kept_fst (by assumption) ?_ | exact fun _ _ h => h | intro _ | split | apply modClus_kept | refine kept_mk ?_ rfl)

theorem releaseLeave_kept {s0 s : State} {a0} {a1} (h : Kept s0 s) : Kept s0 (releaseLeave a0 a1 s) := by
  unfold releaseLeave
  with_reducible repeat' (first | assumption | refine kept_fst (by assumption) ?_ | exact fun _ _ h => h | intro _ | split | apply modXfer_kept | apply postBg_kept | apply sendSignal_kept | apply afterAck_kept | apply sendOrAck_kept | apply numberDone_kept | apply hardError_kept | apply restRun_kept | apply releasedTake_kept | refine kept_mk ?_ rfl)

theorem execReleaseItemLeaves_kept {s t : State} {a0} {a1} (h : execReleaseItemLeaves a0 a1 s = .next t) : Kept s t := by
  unfold execReleaseItemLeaves at h
  refine whenAwake_kept (fun {s0 s} h => ?_) h
  with_reducible repeat' (first | assumption | refine kept_fst (by assumption) ?_ | exact fun _ _ h => h | intro _ | split | apply releaseLeave_kept | refine kept_mk ?_ rfl)

end Sys2Proof.Machine
end

