-- ==== Sys2Proof/Laws/KeptSequencer.lean ====
section
/-! SUPPORT. What the definitions of Machine/Sequencer.lean keep (Safety: Kept), one lemma each. -/
set_option linter.all false
namespace Sys2Proof.Machine

theorem seqResult_kept {s0 s : State} {a0} {a1} (h : Kept s0 s) : Kept s0 (seqResult a0 a1 s) := by
  unfold seqResult
  with_reducible repeat' (first | assumption | apply modSeq_kept)

theorem seqLoad_kept {s0 s : State} {a0} (h : Kept s0 s) : Kept s0 (seqLoad a0 s) := by
  unfold seqLoad
  with_reducible repeat' (first | assumption | split | apply seqResult_kept | apply loadNext_kept | apply modSeq_kept)

theorem execLoad_kept {s t : State} {a0} (h : execLoad a0 s = .next t) : Kept s t := by
  unfold execLoad at h
  refine whenAwake_kept (fun {s0 s} h => ?_) h
  with_reducible repeat' (first | assumption | apply seqLoad_kept)

theorem execLoadComplete_kept {s t : State} {a0} (h : execLoadComplete a0 s = .next t) : Kept s t := by
  unfold execLoadComplete at h
  refine whenAwake_kept (fun {s0 s} h => ?_) h
  with_reducible repeat' (first | assumption | apply modSeq_kept)

theorem seqCheck_kept {s0 s : State} {a0} (h : Kept s0 s) : Kept s0 (seqCheck a0 s) := by
  unfold seqCheck
  with_reducible repeat' (first | assumption | split | apply seqResult_kept | apply modSeq_kept)

theorem execCheck_kept {s t : State} {a0} (h : execCheck a0 s = .next t) : Kept s t := by
  unfold execCheck at h
  refine whenAwake_kept (fun {s0 s} h => ?_) h
  with_reducible repeat' (first | assumption | apply seqCheck_kept)

theorem seqStart_kept {s0 s : State} {a0} (h : Kept s0 s) : Kept s0 (seqStart a0 s) := by
  unfold seqStart
  with_reducible repeat' (first | assumption | split | apply seqResult_kept | apply startIfAcked_kept | apply modSeq_kept)

theorem execStart_kept {s t : State} {a0} (h : execStart a0 s = .next t) : Kept s t := by
  unfold execStart at h
  refine whenAwake_kept (fun {s0 s} h => ?_) h
  with_reducible repeat' (first | assumption | apply seqStart_kept)

theorem seqStop_kept {s0 s : State} {a0} (h : Kept s0 s) : Kept s0 (seqStop a0 s) := by
  unfold seqStop
  with_reducible repeat' (first | assumption | split | apply seqResult_kept | apply modSeq_kept)

theorem execStop_kept {s t : State} {a0} (h : execStop a0 s = .next t) : Kept s t := by
  unfold execStop at h
  refine whenAwake_kept (fun {s0 s} h => ?_) h
  with_reducible repeat' (first | assumption | apply seqStop_kept)

theorem cacheEnd_kept {s0 s : State} {a0} (h : Kept s0 s) : Kept s0 (cacheEnd a0 s) := by
  unfold cacheEnd
  with_reducible repeat' (first | assumption | intro _ | apply modLedge_kept | apply foldl_kept)

theorem commandAbort_kept {s0 s : State} {a0} (h : Kept s0 s) : Kept s0 (commandAbort a0 s) := by
  unfold commandAbort
  with_reducible repeat' (first | assumption | refine kept_fst (by assumption) ?_ | exact fun _ _ h => h | intro _ | split | apply modSeq_kept | refine kept_mk ?_ rfl)

theorem runAbandon_kept {s0 s : State} {a0} {a1} {a2} (h : Kept s0 s) : Kept s0 (runAbandon a0 a1 a2 s) := by
  unfold runAbandon
  with_reducible repeat' (first | assumption | apply cacheEnd_kept | apply modSeq_kept)

theorem abortAct_kept {s0 s : State} {a0} {a1} (h : Kept s0 s) : Kept s0 (abortAct a0 a1 s) := by
  unfold abortAct
  dsimp only
  with_reducible repeat' (first | assumption | split | apply commandAbort_kept | apply runAbandon_kept)

theorem seqAbort_kept {s0 s : State} {a0} (h : Kept s0 s) : Kept s0 (seqAbort a0 s) := by
  unfold seqAbort
  dsimp only
  with_reducible repeat' (first | assumption | split | apply seqResult_kept | apply commandAbort_kept | apply abortAct_kept)

theorem execAbort_kept {s t : State} {a0} (h : execAbort a0 s = .next t) : Kept s t := by
  unfold execAbort at h
  refine whenAwake_kept (fun {s0 s} h => ?_) h
  with_reducible repeat' (first | assumption | apply seqAbort_kept)

theorem execBadCmd_kept {s t : State} {a0} (h : execBadCmd a0 s = .next t) : Kept s t := by
  unfold execBadCmd at h
  refine whenAwake_kept (fun {s0 s} h => ?_) h
  with_reducible repeat' (first | assumption | apply seqResult_kept)

theorem hintPost_kept {s0 s : State} {a0} {a1} {a2} {a3} (h : Kept s0 s) : Kept s0 (hintPost a0 a1 a2 a3 s) := by
  unfold hintPost
  with_reducible repeat' (first | assumption | apply retarget_kept | apply modSeq_kept)

theorem seqResolve_kept {s0 s : State} {a0} {a1} {a2} (h : Kept s0 s) : Kept s0 (seqResolve a0 a1 a2 s) := by
  unfold seqResolve
  with_reducible repeat' (first | assumption | split | apply modSeq_kept | apply hintPost_kept)

theorem seqAlone_kept {s t : State} {a0} {a1} (h : seqAlone a0 a1 s = .next t) : Kept s t := by
  unfold seqAlone at h
  refine whenAwake_kept (fun {s0 s} h => ?_) h
  with_reducible repeat' (first | assumption | split | apply seqResolve_kept)

theorem execLoop_kept {s t : State} {a0} {a1} (h : execLoop a0 a1 s = .next t) : Kept s t := by
  unfold execLoop at h
  exact seqAlone_kept h

theorem execBranch_kept {s t : State} {a0} {a1} (h : execBranch a0 a1 s = .next t) : Kept s t := by
  unfold execBranch at h
  exact seqAlone_kept h

theorem execHalt_kept {s t : State} {a0} (h : execHalt a0 s = .next t) : Kept s t := by
  unfold execHalt at h
  exact seqAlone_kept h

theorem execHint_kept {s t : State} {a0} {a1} (h : execHint a0 a1 s = .next t) : Kept s t := by
  unfold execHint at h
  exact seqAlone_kept h

theorem execMark_kept {s t : State} {a0} {a1} (h : execMark a0 a1 s = .next t) : Kept s t := by
  unfold execMark at h
  exact seqAlone_kept h

theorem treeHold_kept {s0 s : State} {a0} {a1} (h : Kept s0 s) : Kept s0 (treeHold a0 a1 s) := by
  unfold treeHold
  with_reducible repeat' (first | assumption | intro _ | split | apply modClus_kept | apply modSeq_kept | apply foldl_kept)

theorem broadcast_kept {s0 s : State} {a0} {a1} {a2} (h : Kept s0 s) : Kept s0 (broadcast a0 a1 a2 s) := by
  unfold broadcast
  dsimp only
  with_reducible repeat' (first | assumption | intro _ | split | apply runAbandon_kept | apply modSeq_kept | apply treeHold_kept | apply modClus_kept | apply seqResolve_kept | apply foldl_kept)

theorem execBroadcastBundle_kept {s t : State} {a0} {a1} {a2} (h : execBroadcastBundle a0 a1 a2 s = .next t) : Kept s t := by
  unfold execBroadcastBundle at h
  refine whenAwake_kept (fun {s0 s} h => ?_) h
  with_reducible repeat' (first | assumption | apply broadcast_kept)

theorem coreHalt_kept {s0 s : State} {a0} (h : Kept s0 s) : Kept s0 (coreHalt a0 s) := by
  unfold coreHalt
  with_reducible repeat' (first | assumption | refine kept_fst (by assumption) ?_ | exact fun _ _ h => h | intro _ | split | apply epochEnd_kept | apply modIssue_kept | refine kept_mk ?_ rfl)

theorem enterHalted_kept {s0 s : State} {a0} {a1} (h : Kept s0 s) : Kept s0 (enterHalted a0 a1 s) := by
  unfold enterHalted
  with_reducible repeat' (first | assumption | apply coreHalt_kept | apply runAbandon_kept | apply foldl_kept)

theorem execProgramEnd_kept {s t : State} {a0} (h : execProgramEnd a0 s = .next t) : Kept s t := by
  unfold execProgramEnd at h
  refine whenAwake_kept (fun {s0 s} h => ?_) h
  with_reducible repeat' (first | assumption | split | apply enterHalted_kept)

theorem execStopHalt_kept {s t : State} {a0} (h : execStopHalt a0 s = .next t) : Kept s t := by
  unfold execStopHalt at h
  refine whenAwake_kept (fun {s0 s} h => ?_) h
  with_reducible repeat' (first | assumption | split | apply enterHalted_kept)

theorem execTrapHalt_kept {s t : State} {a0} (h : execTrapHalt a0 s = .next t) : Kept s t := by
  unfold execTrapHalt at h
  refine whenAwake_kept (fun {s0 s} h => ?_) h
  with_reducible repeat' (first | assumption | split | apply enterHalted_kept)

theorem watchdog_kept {s0 s : State} {a0} (h : Kept s0 s) : Kept s0 (watchdog a0 s) := by
  unfold watchdog
  dsimp only
  with_reducible repeat' (first | assumption | split | apply raiseEvt_kept | apply modSeq_kept | apply abortAct_kept)

theorem execWatchdog_kept {s t : State} {a0} (h : execWatchdog a0 s = .next t) : Kept s t := by
  unfold execWatchdog at h
  refine whenAwake_kept (fun {s0 s} h => ?_) h
  with_reducible repeat' (first | assumption | apply watchdog_kept)

end Sys2Proof.Machine
end

