-- ==== Sys2Proof/Laws/KeptLoadCheck.lean ====
section
/-! SUPPORT. What the definitions of Machine/LoadCheck.lean keep (Safety: Kept), one lemma each. -/
set_option linter.all false
namespace Sys2Proof.Machine

theorem execCheckComplete_kept {s t : State} {a0} (h : execCheckComplete a0 s = .next t) : Kept s t := by
  unfold execCheckComplete at h
  refine whenAwake_kept (fun {s0 s} h => ?_) h
  with_reducible repeat' (first | assumption | split | apply modSeq_kept)

end Sys2Proof.Machine
end

