-- ==== Sys2Proof/Laws/KeptResets.lean ====
section
/-! SUPPORT. What the definitions of Machine/Resets.lean keep (Safety: Kept), one lemma each. -/
set_option linter.all false
namespace Sys2Proof.Machine

theorem bgAbsent_kept {s0 s : State} {a0} (h : Kept s0 s) : Kept s0 (bgAbsent a0 s) := by
  unfold bgAbsent
  with_reducible repeat' (first | assumption | intro _ | split | apply modLedge_kept | apply landAck_kept | apply deliverRead_kept | apply bgServe_kept | apply foldl_kept)

theorem coreEnterReset_kept {s0 s : State} {a0} (h : Kept s0 s) : Kept s0 (coreEnterReset a0 s) := by
  unfold coreEnterReset
  with_reducible repeat' (first | assumption | refine kept_fst (by assumption) ?_ | exact fun _ _ h => h | refine foldl_wf (fun _ _ _ => ?_) ?_ | apply coreStopped_wf | apply coreStopped_lim | intro _ | split | apply storeUnwait_kept | apply streamCancel_kept | apply epochDropAll_kept | apply gateDiscardAll_kept | apply bgAbsent_kept | apply modCore_kept | apply foldl_kept | refine kept_mk ?_ rfl)

theorem massifStop_kept {s0 s : State} {a0} {a1} (h : Kept s0 s) : Kept s0 (massifStop a0 a1 s) := by
  unfold massifStop
  with_reducible repeat' (first | assumption | intro _ | split | apply commandAbort_kept | apply modSeq_kept | apply modClus_kept | apply coreEnterReset_kept | apply modMassif_kept | apply foldl_kept)

theorem partsCleared_kept {s0 s : State} {a0} {a1} (h : Kept s0 s) : Kept s0 (partsCleared a0 a1 s) := by
  unfold partsCleared
  with_reducible repeat' (first | assumption | refine kept_fst (by assumption) ?_ | exact fun _ _ h => h | refine foldl_wf (fun _ _ _ => ?_) ?_ | apply coreCleared_wf | apply coreCleared_lim | intro _ | split | apply modCore_kept | apply modClus_kept | apply foldl_kept | refine kept_mk ?_ rfl)

theorem tcDrop_kept {s0 s : State} {a0} (h : Kept s0 s) : Kept s0 (tcDrop a0 s) := by
  unfold tcDrop
  with_reducible repeat' (first | assumption | refine kept_mk ?_ rfl)

theorem coresRelease_kept {s0 s : State} {a0} (h : Kept s0 s) : Kept s0 (coresRelease a0 s) := by
  unfold coresRelease
  with_reducible repeat' (first | assumption | intro _ | split | apply modCore_kept | apply foldl_kept)

theorem dieCleared_kept {s0 s : State} (h : Kept s0 s) : Kept s0 (dieCleared s) := by
  unfold dieCleared
  with_reducible repeat' (first | assumption | apply tcDrop_kept | apply foldl_kept | refine kept_mk ?_ rfl)

theorem compDone_kept {s0 s : State} (h : Kept s0 s) : Kept s0 (compDone s) := by
  unfold compDone
  with_reducible repeat' (first | assumption | split | apply dieCleared_kept)

theorem compReset_kept {s0 s : State} (h : Kept s0 s) : Kept s0 (compReset s) := by
  unfold compReset
  with_reducible repeat' (first | assumption | intro _ | split | apply compDone_kept | apply modMassif_kept | apply massifStop_kept | apply foldl_kept | refine kept_mk ?_ rfl)

theorem execGo_kept {s t : State} (h : execGo s = .next t) : Kept s t := by
  unfold execGo at h
  refine whenAwake_kept (fun {s0 s} h => ?_) h
  with_reducible repeat' (first | assumption | apply compReset_kept | apply foldl_kept | apply getD_kept | refine kept_mk ?_ rfl)

theorem massifResult_kept {s0 s : State} {a0} {a1} (h : Kept s0 s) : Kept s0 (massifResult a0 a1 s) := by
  unfold massifResult
  with_reducible repeat' (first | assumption | apply modMassif_kept)

theorem countFill_kept {s0 s : State} {a0} {a1} {a2} (h : Kept s0 s) : Kept s0 (countFill a0 a1 a2 s) := by
  unfold countFill
  with_reducible repeat' (first | assumption | refine kept_fst (by assumption) ?_ | exact fun _ _ h => h | intro _ | split | apply countAt_kept | refine kept_mk ?_ rfl)

theorem fillCommands_kept {s0 s : State} {a0} (h : Kept s0 s) : Kept s0 (fillCommands a0 s) := by
  unfold fillCommands
  with_reducible repeat' (first | assumption | refine kept_fst (by assumption) ?_ | exact fun _ _ h => h | refine foldl_wf (fun _ _ _ => ?_) ?_ | intro _ | split | apply ridgeMove_kept | apply foldl_kept | refine kept_mk ?_ rfl)

theorem massifCreating_kept {s0 s : State} {a0} (h : Kept s0 s) : Kept s0 (massifCreating a0 s) := by
  unfold massifCreating
  with_reducible repeat' (first | assumption | refine kept_fst (by assumption) ?_ | exact fun _ _ h => h | refine foldl_wf (fun _ _ _ => ?_) ?_ | apply ledgeKeep_wf | intro _ | split | apply partsCleared_kept | apply tcDrop_kept | apply countFill_kept | apply modCore_kept | apply modSeq_kept | apply modMassif_kept | apply foldl_kept | refine kept_mk ?_ rfl)

theorem massifCreate_kept {s0 s : State} {a0} (h : Kept s0 s) : Kept s0 (massifCreate a0 s) := by
  unfold massifCreate
  dsimp only
  with_reducible repeat' (first | assumption | split | apply massifResult_kept | apply massifCreating_kept)

theorem execCreate_kept {s t : State} {a0} (h : execCreate a0 s = .next t) : Kept s t := by
  unfold execCreate at h
  refine whenAwake_kept (fun {s0 s} h => ?_) h
  with_reducible repeat' (first | assumption | apply massifCreate_kept)

theorem massifCreated_kept {s0 s : State} {a0} (h : Kept s0 s) : Kept s0 (massifCreated a0 s) := by
  unfold massifCreated
  with_reducible repeat' (first | assumption | split | apply compDone_kept | apply modMassif_kept | apply coresRelease_kept)

theorem execCreateDone_kept {s t : State} {a0} (h : execCreateDone a0 s = .next t) : Kept s t := by
  unfold execCreateDone at h
  refine whenAwake_kept (fun {s0 s} h => ?_) h
  with_reducible repeat' (first | assumption | apply massifCreated_kept)

theorem regionZero_kept {s0 s : State} {a0} (h : Kept s0 s) : Kept s0 (regionZero a0 s) := by
  unfold regionZero
  with_reducible repeat' (first | assumption | refine kept_words ?_ (smWf_filter _ _))

theorem massifTorn_kept {s0 s : State} {a0} (h : Kept s0 s) : Kept s0 (massifTorn a0 s) := by
  unfold massifTorn
  with_reducible repeat' (first | assumption | refine kept_fst (by assumption) ?_ | exact fun _ _ h => h | refine foldl_wf (fun _ _ _ => ?_) ?_ | apply ledgeTorn_wf | intro _ | split | apply modLedge_kept | apply partsCleared_kept | apply tcDrop_kept | apply countFill_kept | apply fillCommands_kept | apply regionZero_kept | apply modSeq_kept | apply modMassif_kept | apply foldl_kept | refine kept_mk ?_ rfl)

theorem teardownDrained_kept {s0 s : State} {a0} (h : Kept s0 s) : Kept s0 (teardownDrained a0 s) := by
  unfold teardownDrained
  dsimp only
  with_reducible repeat' (first | assumption | split | apply massifTorn_kept)

theorem massifTeardown_kept {s0 s : State} {a0} (h : Kept s0 s) : Kept s0 (massifTeardown a0 s) := by
  unfold massifTeardown
  with_reducible repeat' (first | assumption | split | apply massifResult_kept | apply modMassif_kept | apply teardownDrained_kept | apply massifStop_kept)

theorem execTeardown_kept {s t : State} {a0} (h : execTeardown a0 s = .next t) : Kept s t := by
  unfold execTeardown at h
  refine whenAwake_kept (fun {s0 s} h => ?_) h
  with_reducible repeat' (first | assumption | apply massifTeardown_kept)

theorem massifGone_kept {s0 s : State} {a0} (h : Kept s0 s) : Kept s0 (massifGone a0 s) := by
  unfold massifGone
  with_reducible repeat' (first | assumption | intro _ | split | apply teardownDrained_kept | apply modLedge_kept | apply modMassif_kept | apply compDone_kept | apply foldl_kept | refine kept_mk ?_ rfl)

theorem execTeardownFillDone_kept {s t : State} {a0} (h : execTeardownFillDone a0 s = .next t) : Kept s t := by
  unfold execTeardownFillDone at h
  refine whenAwake_kept (fun {s0 s} h => ?_) h
  with_reducible repeat' (first | assumption | apply massifGone_kept | apply foldl_kept | apply getD_kept | refine kept_mk ?_ rfl | exact (rfl : Core.ledge (id _) = _) | refine kept_words ?_ (smWf_smSet _ _ _))

theorem massifReset_kept {s0 s : State} {a0} (h : Kept s0 s) : Kept s0 (massifReset a0 s) := by
  unfold massifReset
  with_reducible repeat' (first | assumption | refine kept_fst (by assumption) ?_ | exact fun _ _ h => h | intro _ | split | apply massifStop_kept | apply massifResult_kept | refine kept_mk ?_ rfl)

theorem execMassifReset_kept {s t : State} {a0} (h : execMassifReset a0 s = .next t) : Kept s t := by
  unfold execMassifReset at h
  refine whenAwake_kept (fun {s0 s} h => ?_) h
  with_reducible repeat' (first | assumption | apply massifReset_kept)

theorem massifResetEnd_kept {s0 s : State} {a0} (h : Kept s0 s) : Kept s0 (massifResetEnd a0 s) := by
  unfold massifResetEnd
  dsimp only
  with_reducible repeat' (first | assumption | split | apply coresRelease_kept | apply modSeq_kept | apply partsCleared_kept | apply modMassif_kept | apply compDone_kept | apply massifTeardown_kept)

theorem execMassifResetDone_kept {s t : State} {a0} (h : execMassifResetDone a0 s = .next t) : Kept s t := by
  unfold execMassifResetDone at h
  refine whenAwake_kept (fun {s0 s} h => ?_) h
  with_reducible repeat' (first | assumption | apply massifResetEnd_kept)

theorem execMassifBadCmd_kept {s t : State} {a0} (h : execMassifBadCmd a0 s = .next t) : Kept s t := by
  unfold execMassifBadCmd at h
  refine whenAwake_kept (fun {s0 s} h => ?_) h
  with_reducible repeat' (first | assumption | apply massifResult_kept)

theorem gateCoreAt_kept {s0 s : State} {a0} (h : Kept s0 s) : Kept s0 (gateCoreAt a0 s) := by
  unfold gateCoreAt
  with_reducible repeat' (first | assumption | refine kept_fst (by assumption) ?_ | exact fun _ _ h => h | apply gateCore_wf | apply gateCore_lim | intro _ | split | apply modCore_kept | refine kept_mk ?_ rfl)

theorem gateClus_kept {s0 s : State} {a0} (h : Kept s0 s) : Kept s0 (gateClus a0 s) := by
  unfold gateClus
  with_reducible repeat' (first | assumption | refine kept_fst (by assumption) ?_ | exact fun _ _ h => h | refine foldl_wf (fun _ _ _ => ?_) ?_ | intro _ | split | apply gateCoreAt_kept | apply modClus_kept | apply foldl_kept | refine kept_mk ?_ rfl)

theorem gateAll_kept {s0 s : State} (h : Kept s0 s) : Kept s0 (gateAll s) := by
  unfold gateAll
  with_reducible repeat' (first | assumption | refine kept_fst (by assumption) ?_ | exact fun _ _ h => h | refine foldl_wf (fun _ _ _ => ?_) ?_ | intro _ | split | apply gateClus_kept | apply foldl_kept | refine kept_mk ?_ rfl)

theorem notifyPartners_kept {s0 s : State} {a0} (h : Kept s0 s) : Kept s0 (notifyPartners a0 s) := by
  unfold notifyPartners
  with_reducible repeat' (first | assumption | refine kept_fst (by assumption) ?_ | exact fun _ _ h => h | refine foldl_wf (fun _ _ _ => ?_) ?_ | intro _ | split | apply toCol_kept | apply foldl_kept | refine kept_mk ?_ rfl)

theorem packetDrop_kept {s0 s : State} {a0} (h : Kept s0 s) : Kept s0 (packetDrop a0 s) := by
  unfold packetDrop
  with_reducible repeat' (first | assumption | refine kept_fst (by assumption) ?_ | exact fun _ _ h => h | intro _ | split | apply deliverRead_kept | apply landAck_kept | apply egressDrop_kept | refine kept_mk ?_ rfl)

theorem netPurge_kept {s0 s : State} (h : Kept s0 s) : Kept s0 (netPurge s) := by
  unfold netPurge
  with_reducible repeat' (first | assumption | refine kept_fst (by assumption) ?_ | exact fun _ _ h => h | refine foldl_wf (fun _ _ _ => ?_) ?_ | intro _ | split | apply packetDrop_kept | apply foldl_kept | refine kept_mk ?_ rfl)

theorem fatalError_kept {s0 s : State} {a0} {a1} {a2} (h : Kept s0 s) : Kept s0 (fatalError a0 a1 a2 s) := by
  unfold fatalError
  with_reducible repeat' (first | assumption | refine kept_fst (by assumption) ?_ | exact fun _ _ h => h | refine foldl_wf (fun _ _ _ => ?_) ?_ | intro _ | split | apply abortAct_kept | apply coreEnterReset_kept | apply notifyPartners_kept | apply netPurge_kept | apply modSeq_kept | apply foldl_kept | refine kept_mk ?_ rfl)

theorem routerFatal_kept {s0 s : State} {a0} {a1} {a2} (h : Kept s0 s) : Kept s0 (routerFatal a0 a1 a2 s) := by
  unfold routerFatal
  dsimp only
  with_reducible repeat' (first | assumption | refine kept_fst (by assumption) ?_ | exact fun _ _ h => h | intro _ | split | apply fatalError_kept | refine kept_mk ?_ rfl)

end Sys2Proof.Machine
end

