-- ==== Sys2Proof/Laws/KeptPorts.lean ====
section
/-! SUPPORT. What the definitions of Machine/Ports.lean keep (Safety: Kept), one lemma each. -/
set_option linter.all false
namespace Sys2Proof.Machine

theorem answersDrop_kept {s0 s : State} {a0} (h : Kept s0 s) : Kept s0 (answersDrop a0 s) := by
  unfold answersDrop
  with_reducible repeat' (first | assumption | refine kept_fst (by assumption) ?_ | exact fun _ _ h => h | intro _ | split | refine kept_mk ?_ rfl)

theorem linkWork_kept {s0 s : State} {a0} (h : Kept s0 s) : Kept s0 (linkWork a0 s) := by
  unfold linkWork
  with_reducible repeat' (first | assumption | refine kept_fst (by assumption) ?_ | exact fun _ _ h => h | refine foldl_wf (fun _ _ _ => ?_) ?_ | intro _ | split | apply treeBreak_kept | apply absentReply_kept | apply absentOwn_kept | apply egressDrop_kept | apply answersDrop_kept | apply modCol_kept | apply foldl_kept | refine kept_mk ?_ rfl)

theorem enterDown_kept {s0 s : State} {a0} {a1} (h : Kept s0 s) : Kept s0 (enterDown a0 a1 s) := by
  unfold enterDown
  with_reducible repeat' (first | assumption | refine kept_fst (by assumption) ?_ | exact fun _ _ h => h | intro _ | split | apply sendLink_kept | apply linkWork_kept | apply modCol_kept | apply raiseEvt_kept | refine kept_mk ?_ rfl)

theorem beginTraining_kept {s0 s : State} {a0} (h : Kept s0 s) : Kept s0 (beginTraining a0 s) := by
  unfold beginTraining
  with_reducible repeat' (first | assumption | apply modCol_kept)

theorem linkRetrain_kept {s0 s : State} {a0} {a1} (h : Kept s0 s) : Kept s0 (linkRetrain a0 a1 s) := by
  unfold linkRetrain
  with_reducible repeat' (first | assumption | refine kept_fst (by assumption) ?_ | exact fun _ _ h => h | intro _ | split | apply linkWork_kept | apply beginTraining_kept | apply modCol_kept | refine kept_mk ?_ rfl)

theorem partnerGone_kept {s0 s : State} {a0} (h : Kept s0 s) : Kept s0 (partnerGone a0 s) := by
  unfold partnerGone
  with_reducible repeat' (first | assumption | refine kept_fst (by assumption) ?_ | exact fun _ _ h => h | intro _ | split | apply modCol_kept | refine kept_mk ?_ rfl)

theorem execPartnerDetectTimeout_kept {s t : State} {a0} (h : execPartnerDetectTimeout a0 s = .next t) : Kept s t := by
  unfold execPartnerDetectTimeout at h
  refine whenAwake_kept (fun {s0 s} h => ?_) h
  with_reducible repeat' (first | assumption | refine kept_fst (by assumption) ?_ | exact fun _ _ h => h | intro _ | split | apply enterDown_kept | apply partnerGone_kept | refine kept_mk ?_ rfl)

theorem trainingAttempt_kept {s0 s : State} {a0} {a1} (h : Kept s0 s) : Kept s0 (trainingAttempt a0 a1 s) := by
  unfold trainingAttempt
  with_reducible repeat' (first | assumption | refine kept_fst (by assumption) ?_ | exact fun _ _ h => h | intro _ | split | apply enterDown_kept | apply partnerGone_kept | apply modCol_kept | refine kept_mk ?_ rfl)

theorem execTrainingAttempt_kept {s t : State} {a0} {a1} (h : execTrainingAttempt a0 a1 s = .next t) : Kept s t := by
  unfold execTrainingAttempt at h
  refine whenAwake_kept (fun {s0 s} h => ?_) h
  with_reducible repeat' (first | assumption | apply trainingAttempt_kept)

theorem execPhysicalLinkUp_kept {s t : State} {a0} (h : execPhysicalLinkUp a0 s = .next t) : Kept s t := by
  unfold execPhysicalLinkUp at h
  refine whenAwake_kept (fun {s0 s} h => ?_) h
  dsimp only
  with_reducible repeat' (first | assumption | split | apply sendLink_kept | apply modCol_kept)

theorem sendDisc_kept {s0 s : State} {a0} {a1} (h : Kept s0 s) : Kept s0 (sendDisc a0 a1 s) := by
  unfold sendDisc
  with_reducible repeat' (first | assumption | refine kept_fst (by assumption) ?_ | exact fun _ _ h => h | intro _ | split | apply enqueueLink_kept | refine kept_mk ?_ rfl)

theorem enterLive_kept {s0 s : State} {a0} {a1} (h : Kept s0 s) : Kept s0 (enterLive a0 a1 s) := by
  unfold enterLive
  with_reducible repeat' (first | assumption | apply sendLink_kept | apply modCol_kept | apply sendDisc_kept)

theorem widthMismatch_kept {s0 s : State} {a0} {a1} (h : Kept s0 s) : Kept s0 (widthMismatch a0 a1 s) := by
  unfold widthMismatch
  dsimp only
  with_reducible repeat' (first | assumption | split | apply modCol_kept | apply enterDown_kept | apply beginTraining_kept)

theorem noteMalformed_kept {s0 s : State} {a0} (h : Kept s0 s) : Kept s0 (noteMalformed a0 s) := by
  unfold noteMalformed
  with_reducible repeat' (first | assumption | apply modCol_kept)

theorem goodFlit_kept {s0 s : State} {a0} (h : Kept s0 s) : Kept s0 (goodFlit a0 s) := by
  unfold goodFlit
  with_reducible repeat' (first | assumption | apply modCol_kept)

theorem linkReceive_kept {s0 s : State} {a0} {a1} {a2 : State → State} (h2 : ∀ {s0 s : State} , Kept s0 s → Kept s0 (a2  s)) (h : Kept s0 s) : Kept s0 (linkReceive a0 a1 a2 s) := by
  unfold linkReceive
  with_reducible repeat' (first | assumption | refine kept_fst (by assumption) ?_ | exact fun _ _ h => h | refine h2  ?_ | intro _ | split | apply takeCells_kept | apply noteMalformed_kept | refine kept_mk ?_ rfl)

theorem helloReceive_kept {s0 s : State} {a0} {a1} (h : Kept s0 s) : Kept s0 (helloReceive a0 a1 s) := by
  unfold helloReceive
  dsimp only
  with_reducible repeat' (first | assumption | split | apply modCol_kept | apply widthMismatch_kept | apply enterLive_kept)

theorem execHello_kept {s t : State} {a0} {a1} {a2} (h : execHello a0 a1 a2 s = .next t) : Kept s t := by
  unfold execHello at h
  refine whenAwake_kept (fun {s0 s} h => ?_) h
  with_reducible repeat' (first | assumption | refine kept_fst (by assumption) ?_ | exact fun _ _ h => h | intro _ | split | apply linkReceive_kept | apply helloReceive_kept | refine kept_mk ?_ rfl)

theorem execHelloTimeout_kept {s t : State} {a0} (h : execHelloTimeout a0 s = .next t) : Kept s t := by
  unfold execHelloTimeout at h
  refine whenAwake_kept (fun {s0 s} h => ?_) h
  with_reducible repeat' (first | assumption | split | apply enterDown_kept)

theorem creditReceive_kept {s0 s : State} {a0} {a1} (h : Kept s0 s) : Kept s0 (creditReceive a0 a1 s) := by
  unfold creditReceive
  with_reducible repeat' (first | assumption | refine kept_fst (by assumption) ?_ | exact fun _ _ h => h | intro _ | split | apply pumpAll_kept | apply enterDown_kept | apply modCol_kept | refine kept_mk ?_ rfl)

theorem execIdle_kept {s t : State} {a0} {a1} (h : execIdle a0 a1 s = .next t) : Kept s t := by
  unfold execIdle at h
  refine whenAwake_kept (fun {s0 s} h => ?_) h
  with_reducible repeat' (first | assumption | split | apply countAt_kept | apply goodFlit_kept | apply noteMalformed_kept)

theorem execIdleFlitSend_kept {s t : State} {a0} (h : execIdleFlitSend a0 s = .next t) : Kept s t := by
  unfold execIdleFlitSend at h
  refine whenAwake_kept (fun {s0 s} h => ?_) h
  with_reducible repeat' (first | assumption | refine kept_fst (by assumption) ?_ | exact fun _ _ h => h | intro _ | split | apply putLink_kept | apply countAt_kept | refine kept_mk ?_ rfl)

theorem linkDownReceive_kept {s0 s : State} {a0} (h : Kept s0 s) : Kept s0 (linkDownReceive a0 s) := by
  unfold linkDownReceive
  with_reducible repeat' (first | assumption | refine kept_fst (by assumption) ?_ | exact fun _ _ h => h | intro _ | split | apply enterDown_kept | refine kept_mk ?_ rfl)

theorem flitCrcFail_kept {s0 s : State} {a0} (h : Kept s0 s) : Kept s0 (flitCrcFail a0 s) := by
  unfold flitCrcFail
  dsimp only
  with_reducible repeat' (first | assumption | split | apply modCol_kept | apply linkRetrain_kept)

theorem partnerLoss_kept {s0 s : State} {a0} {a1} (h : Kept s0 s) : Kept s0 (partnerLoss a0 a1 s) := by
  unfold partnerLoss
  with_reducible repeat' (first | assumption | refine kept_fst (by assumption) ?_ | exact fun _ _ h => h | intro _ | split | apply enterDown_kept | apply partnerGone_kept | refine kept_mk ?_ rfl)

theorem autoTrain_kept {s0 s : State} {a0} (h : Kept s0 s) : Kept s0 (autoTrain a0 s) := by
  unfold autoTrain
  dsimp only
  with_reducible repeat' (first | assumption | split | apply beginTraining_kept)

theorem execPartnerTraining_kept {s t : State} {a0} (h : execPartnerTraining a0 s = .next t) : Kept s t := by
  unfold execPartnerTraining at h
  refine whenAwake_kept (fun {s0 s} h => ?_) h
  with_reducible repeat' (first | assumption | apply autoTrain_kept)

theorem execAutoRetrain_kept {s t : State} {a0} (h : execAutoRetrain a0 s = .next t) : Kept s t := by
  unfold execAutoRetrain at h
  refine whenAwake_kept (fun {s0 s} h => ?_) h
  with_reducible repeat' (first | assumption | apply autoTrain_kept)

theorem colRetrain_kept {s0 s : State} {a0} (h : Kept s0 s) : Kept s0 (colRetrain a0 s) := by
  unfold colRetrain
  dsimp only
  with_reducible repeat' (first | assumption | split | apply linkRetrain_kept | apply beginTraining_kept)

theorem colReset_kept {s0 s : State} {a0} (h : Kept s0 s) : Kept s0 (colReset a0 s) := by
  unfold colReset
  dsimp only
  with_reducible repeat' (first | assumption | split | apply modCol_kept | apply enterDown_kept | apply beginTraining_kept)

theorem colDisable_kept {s0 s : State} {a0} (h : Kept s0 s) : Kept s0 (colDisable a0 s) := by
  unfold colDisable
  with_reducible repeat' (first | assumption | refine kept_fst (by assumption) ?_ | exact fun _ _ h => h | intro _ | split | apply enterDown_kept | apply modCol_kept | refine kept_mk ?_ rfl)

end Sys2Proof.Machine
end

