-- ==== Sys2Proof/Laws/KeptMessages.lean ====
section
/-! SUPPORT. What the definitions of Machine/Messages.lean keep (Safety: Kept), one lemma each. -/
set_option linter.all false
namespace Sys2Proof.Machine

theorem malformedDrop_kept {s0 s : State} {a0} {a1} (h : Kept s0 s) : Kept s0 (malformedDrop a0 a1 s) := by
  unfold malformedDrop
  with_reducible repeat' (first | assumption | split | apply returnCredit_kept | apply noteMalformed_kept | apply absentReply_kept)

theorem arrive_kept {s0 s : State} {a0} {a1} {a2 : State → State} (h2 : ∀ {s0 s : State} , Kept s0 s → Kept s0 (a2  s)) (h : Kept s0 s) : Kept s0 (arrive a0 a1 a2 s) := by
  unfold arrive
  with_reducible repeat' (first | assumption | refine kept_fst (by assumption) ?_ | exact fun _ _ h => h | refine h2  ?_ | intro _ | split | apply takeCells_kept | apply returnCredit_kept | apply enterDown_kept | apply malformedDrop_kept | apply modCol_kept | refine kept_mk ?_ rfl)

theorem forward_kept {s0 s : State} {a0} {a1} (h : Kept s0 s) : Kept s0 (forward a0 a1 s) := by
  unfold forward
  with_reducible repeat' (first | assumption | refine kept_fst (by assumption) ?_ | exact fun _ _ h => h | intro _ | split | apply toCol_kept | apply forwardDrop_kept | apply modCol_kept | apply getD_kept | refine kept_mk ?_ rfl)

theorem execForwardMessage_kept {s t : State} {a0} {a1} (h : execForwardMessage a0 a1 s = .next t) : Kept s t := by
  unfold execForwardMessage at h
  refine whenAwake_kept (fun {s0 s} h => ?_) h
  have hi : Kept s0 (arrive a0 a1 id s) := arrive_kept (fun h => h) h
  have hf : Kept s0 (arrive a0 a1 (forward a0 a1) s) := arrive_kept (fun h => forward_kept h) h
  generalize arrive a0 a1 (forward a0 a1) s = x at hf
  generalize arrive a0 a1 id s = y at hi
  split <;> first | assumption | (split <;> assumption)

theorem receive_kept {s t : State} {a0} {a1} {a2} {a3 : Sys2Proof.Machine.State → Sys2Proof.Machine.State} (h3 : ∀ {s0 s : State} , Kept s0 s → Kept s0 (a3  s)) (h : receive a0 a1 a2 a3 s = .next t) : Kept s t := by
  unfold receive at h
  refine whenAwake_kept (fun {s0 s} h => ?_) h
  with_reducible repeat' (first | assumption | refine h3  ?_ | intro _ | split | apply arrive_kept | apply forward_kept)

theorem csigIn_kept {s0 s : State} {a0} {a1} {a2} (h : Kept s0 s) : Kept s0 (csigIn a0 a1 a2 s) := by
  unfold csigIn
  with_reducible repeat' (first | assumption | split | apply signalCore_kept | apply ridgeMove_kept)

theorem execCsigMsg_kept {s t : State} {a0} {a1} {a2} (h : execCsigMsg a0 a1 a2 s = .next t) : Kept s t := by
  unfold execCsigMsg at h
  refine receive_kept (fun {s0 s} h => ?_) h
  with_reducible repeat' (first | assumption | apply csigIn_kept)

theorem ingressAbsent_kept {s0 s : State} {a0} {a1} {a2} (h : Kept s0 s) : Kept s0 (ingressAbsent a0 a1 a2 s) := by
  unfold ingressAbsent
  with_reducible repeat' (first | assumption | split | apply replyTo_kept)

theorem lreadIn_kept {s0 s : State} {a0} {a1} {a2} (h : Kept s0 s) : Kept s0 (lreadIn a0 a1 a2 s) := by
  unfold lreadIn
  with_reducible repeat' (first | assumption | refine kept_fst (by assumption) ?_ | exact fun _ _ h => h | intro _ | split | apply netPut_kept | apply ingressAbsent_kept | refine kept_mk ?_ rfl)

theorem execLread_kept {s t : State} {a0} {a1} {a2} (h : execLread a0 a1 a2 s = .next t) : Kept s t := by
  unfold execLread at h
  refine receive_kept (fun {s0 s} h => ?_) h
  with_reducible repeat' (first | assumption | apply lreadIn_kept)

theorem execMread_kept {s t : State} {a0} {a1} {a2} (h : execMread a0 a1 a2 s = .next t) : Kept s t := by
  unfold execMread at h
  refine receive_kept (fun {s0 s} h => ?_) h
  with_reducible repeat' (first | assumption | apply ingressAbsent_kept)

theorem lwriteIn_kept {s0 s : State} {a0} {a1} {a2} (h : Kept s0 s) : Kept s0 (lwriteIn a0 a1 a2 s) := by
  unfold lwriteIn
  with_reducible repeat' (first | assumption | refine kept_fst (by assumption) ?_ | exact fun _ _ h => h | refine foldl_wf (fun _ _ _ => ?_) ?_ | apply memSet_wf | intro _ | split | apply netPut_kept | apply ingressAbsent_kept | apply foldl_kept | apply getD_kept | refine kept_mk ?_ rfl)

theorem execLwrite_kept {s t : State} {a0} {a1} {a2} (h : execLwrite a0 a1 a2 s = .next t) : Kept s t :=
  receive_kept (fun h => lwriteIn_kept h) h

theorem execMwrite_kept {s t : State} {a0} {a1} {a2} (h : execMwrite a0 a1 a2 s = .next t) : Kept s t := by
  unfold execMwrite at h
  refine receive_kept (fun {s0 s} h => ?_) h
  with_reducible repeat' (first | assumption | apply ingressAbsent_kept)

theorem execWalkRd_kept {s t : State} {a0} {a1} {a2} (h : execWalkRd a0 a1 a2 s = .next t) : Kept s t := by
  unfold execWalkRd at h
  refine receive_kept (fun {s0 s} h => ?_) h
  with_reducible repeat' (first | assumption | apply ingressAbsent_kept)

theorem execTelemMessage_kept {s t : State} {a0} {a1} {a2} (h : execTelemMessage a0 a1 a2 s = .next t) : Kept s t := by
  unfold execTelemMessage at h
  refine receive_kept (fun {s0 s} h => ?_) h
  with_reducible repeat' (first | assumption | apply noteMalformed_kept)

theorem summitUnmatched_kept {s0 s : State} {a0} {a1} (h : Kept s0 s) : Kept s0 (summitUnmatched a0 a1 s) := by
  unfold summitUnmatched
  with_reducible repeat' (first | assumption | refine kept_fst (by assumption) ?_ | exact fun _ _ h => h | refine foldl_wf (fun _ _ _ => ?_) ?_ | intro _ | split | apply genErr_kept | apply foldl_kept | refine kept_mk ?_ rfl)

theorem summitIn_kept {s0 s : State} {a0} {a1} {a2} (h : Kept s0 s) : Kept s0 (summitIn a0 a1 a2 s) := by
  unfold summitIn
  with_reducible repeat' (first | assumption | refine kept_fst (by assumption) ?_ | exact fun _ _ h => h | intro _ | split | apply ridgeDie_kept | apply summitReceive_kept | apply summitUnmatched_kept | apply modCol_kept | refine kept_mk ?_ rfl)

theorem execSummit_kept {s t : State} {a0} {a1} {a2} (h : execSummit a0 a1 a2 s = .next t) : Kept s t := by
  unfold execSummit at h
  refine whenAwake_kept (fun {s0 s} h => ?_) h
  with_reducible repeat' (first | assumption | intro _ | apply arrive_kept | apply summitIn_kept)

theorem responseIn_kept {s0 s : State} {a0} {a1} {a2} {a3} {a4} (h : Kept s0 s) : Kept s0 (responseIn a0 a1 a2 a3 a4 s) := by
  unfold responseIn
  with_reducible repeat' (first | assumption | refine kept_fst (by assumption) ?_ | exact fun _ _ h => h | intro _ | split | apply pumpAll_kept | apply ridgePass_kept | apply answer_kept | apply noteMalformed_kept | apply modCol_kept | refine kept_mk ?_ rfl)

theorem execRdata_kept {s t : State} {a0} {a1} {a2} (h : execRdata a0 a1 a2 s = .next t) : Kept s t := by
  unfold execRdata at h
  refine receive_kept (fun {s0 s} h => ?_) h
  with_reducible repeat' (first | assumption | apply responseIn_kept)

theorem execWack_kept {s t : State} {a0} {a1} (h : execWack a0 a1 s = .next t) : Kept s t := by
  unfold execWack at h
  refine receive_kept (fun {s0 s} h => ?_) h
  with_reducible repeat' (first | assumption | apply responseIn_kept)

theorem execWalkRsp_kept {s t : State} {a0} {a1} {a2} (h : execWalkRsp a0 a1 a2 s = .next t) : Kept s t := by
  unfold execWalkRsp at h
  refine receive_kept (fun {s0 s} h => ?_) h
  with_reducible repeat' (first | assumption | apply responseIn_kept)

theorem execRegRsp_kept {s t : State} {a0} {a1} {a2} (h : execRegRsp a0 a1 a2 s = .next t) : Kept s t := by
  unfold execRegRsp at h
  refine receive_kept (fun {s0 s} h => ?_) h
  with_reducible repeat' (first | assumption | apply responseIn_kept)

end Sys2Proof.Machine
end

