-- ==== Sys2Proof/Laws/KeptDiscovery.lean ====
section
/-! SUPPORT. What the definitions of Machine/Discovery.lean keep (Safety: Kept), one lemma each. -/
set_option linter.all false
namespace Sys2Proof.Machine

theorem toChildren_kept {s0 s : State} {a0} (h : Kept s0 s) : Kept s0 (toChildren a0 s) := by
  unfold toChildren
  with_reducible repeat' (first | assumption | intro _ | apply sendDisc_kept | apply foldl_kept)

theorem bringFail_kept {s0 s : State} {a0} (h : Kept s0 s) : Kept s0 (bringFail a0 s) := by
  unfold bringFail
  with_reducible repeat' (first | assumption | refine kept_fst (by assumption) ?_ | exact fun _ _ h => h | intro _ | split | apply gateAll_kept | apply fatalError_kept | refine kept_mk ?_ rfl)

theorem discFail_kept {s0 s : State} {a0} {a1} (h : Kept s0 s) : Kept s0 (discFail a0 a1 s) := by
  unfold discFail
  with_reducible repeat' (first | assumption | intro _ | split | apply sendDisc_kept | apply bringFail_kept | apply fatalError_kept | apply foldl_kept | refine kept_mk ?_ rfl)

theorem sendSide_kept {s0 s : State} {a0} {a1} (h : Kept s0 s) : Kept s0 (sendSide a0 a1 s) := by
  unfold sendSide
  with_reducible repeat' (first | assumption | apply modCol_kept)

theorem execClockOfferSend_kept {s t : State} (h : execClockOfferSend s = .next t) : Kept s t := by
  unfold execClockOfferSend at h
  refine whenAwake_kept (fun {s0 s} h => ?_) h
  with_reducible repeat' (first | assumption | intro _ | apply sendSide_kept | apply foldl_kept)

theorem enterHoldover_kept {s0 s : State} (h : Kept s0 s) : Kept s0 (enterHoldover s) := by
  unfold enterHoldover
  with_reducible repeat' (first | assumption | refine kept_mk ?_ rfl)

theorem clockGone_kept {s0 s : State} {a0} (h : Kept s0 s) : Kept s0 (clockGone a0 s) := by
  unfold clockGone
  with_reducible repeat' (first | assumption | refine kept_fst (by assumption) ?_ | exact fun _ _ h => h | intro _ | split | apply enterHoldover_kept | apply modCol_kept | refine kept_mk ?_ rfl)

theorem clockFail_kept {s0 s : State} (h : Kept s0 s) : Kept s0 (clockFail s) := by
  unfold clockFail
  with_reducible repeat' (first | assumption | refine kept_fst (by assumption) ?_ | exact fun _ _ h => h | intro _ | split | apply clockGone_kept | refine kept_mk ?_ rfl)

theorem execClockFail_kept {s t : State} (h : execClockFail s = .next t) : Kept s t := by
  unfold execClockFail at h
  refine whenAwake_kept (fun {s0 s} h => ?_) h
  with_reducible repeat' (first | assumption | apply clockFail_kept)

theorem clockOffer_kept {s0 s : State} {a0} {a1} {a2} (h : Kept s0 s) : Kept s0 (clockOffer a0 a1 a2 s) := by
  unfold clockOffer
  with_reducible repeat' (first | assumption | refine kept_fst (by assumption) ?_ | exact fun _ _ h => h | intro _ | split | apply discFail_kept | apply clockGone_kept | apply modCol_kept | refine kept_mk ?_ rfl)

theorem execClockOffer_kept {s t : State} {a0} {a1} {a2} {a3} (h : execClockOffer a0 a1 a2 a3 s = .next t) : Kept s t := by
  unfold execClockOffer at h
  refine whenAwake_kept (fun {s0 s} h => ?_) h
  with_reducible repeat' (first | assumption | refine kept_fst (by assumption) ?_ | exact fun _ _ h => h | intro _ | split | apply clockOffer_kept | refine kept_mk ?_ rfl)

theorem clockChoice_kept {s0 s : State} (h : Kept s0 s) : Kept s0 (clockChoice s) := by
  unfold clockChoice
  with_reducible repeat' (first | assumption | split | apply sendSide_kept | refine kept_mk ?_ rfl)

theorem execClockColChoice_kept {s t : State} (h : execClockColChoice s = .next t) : Kept s t := by
  unfold execClockColChoice at h
  refine whenAwake_kept (fun {s0 s} h => ?_) h
  with_reducible repeat' (first | assumption | apply clockChoice_kept)

theorem execClockReq_kept {s t : State} {a0} {a1} {a2} (h : execClockReq a0 a1 a2 s = .next t) : Kept s t := by
  unfold execClockReq at h
  refine whenAwake_kept (fun {s0 s} h => ?_) h
  with_reducible repeat' (first | assumption | split | apply modCol_kept)

theorem execClockRelease_kept {s t : State} {a0} {a1} {a2} (h : execClockRelease a0 a1 a2 s = .next t) : Kept s t := by
  unfold execClockRelease at h
  refine whenAwake_kept (fun {s0 s} h => ?_) h
  with_reducible repeat' (first | assumption | split | apply modCol_kept)

theorem execHoldoverRechoose_kept {s t : State} (h : execHoldoverRechoose s = .next t) : Kept s t := by
  unfold execHoldoverRechoose at h
  refine whenAwake_kept (fun {s0 s} h => ?_) h
  with_reducible repeat' (first | assumption | split | refine kept_mk ?_ rfl)

theorem execClockTimeout_kept {s t : State} (h : execClockTimeout s = .next t) : Kept s t := by
  unfold execClockTimeout at h
  refine whenAwake_kept (fun {s0 s} h => ?_) h
  with_reducible repeat' (first | assumption | split | apply discFail_kept | apply foldl_kept | apply getD_kept | refine kept_mk ?_ rfl)

theorem alignSend_kept {s0 s : State} (h : Kept s0 s) : Kept s0 (alignSend s) := by
  unfold alignSend
  with_reducible repeat' (first | assumption | split | apply sendDisc_kept | refine kept_mk ?_ rfl)

theorem alignBegin_kept {s0 s : State} (h : Kept s0 s) : Kept s0 (alignBegin s) := by
  unfold alignBegin
  with_reducible repeat' (first | assumption | split | apply alignSend_kept | refine kept_mk ?_ rfl)

theorem donePass_kept {s0 s : State} (h : Kept s0 s) : Kept s0 (donePass s) := by
  unfold donePass
  with_reducible repeat' (first | assumption | intro _ | split | apply sendDisc_kept | apply toChildren_kept | apply foldl_kept | refine kept_mk ?_ rfl)

theorem alignApply_kept {s0 s : State} (h : Kept s0 s) : Kept s0 (alignApply s) := by
  unfold alignApply
  with_reducible repeat' (first | assumption | split | apply donePass_kept | apply foldl_kept | apply getD_kept | refine kept_mk ?_ rfl)

theorem alignRspIn_kept {s0 s : State} {a0} {a1} {a2} (h : Kept s0 s) : Kept s0 (alignRspIn a0 a1 a2 s) := by
  unfold alignRspIn
  dsimp only
  with_reducible repeat' (first | assumption | split | apply alignSend_kept | apply alignApply_kept | refine kept_mk ?_ rfl)

theorem referenceLock_kept {s0 s : State} (h : Kept s0 s) : Kept s0 (referenceLock s) := by
  unfold referenceLock
  with_reducible repeat' (first | assumption | split | apply alignBegin_kept | refine kept_mk ?_ rfl)

theorem execReferenceLock_kept {s t : State} (h : execReferenceLock s = .next t) : Kept s t := by
  unfold execReferenceLock at h
  refine whenAwake_kept (fun {s0 s} h => ?_) h
  with_reducible repeat' (first | assumption | apply referenceLock_kept)

theorem incompatSet_kept {s0 s : State} {a0} {a1} (h : Kept s0 s) : Kept s0 (incompatSet a0 a1 s) := by
  unfold incompatSet
  with_reducible repeat' (first | assumption | refine kept_fst (by assumption) ?_ | exact fun _ _ h => h | intro _ | split | refine kept_mk ?_ rfl)

theorem incompatNote_kept {s0 s : State} {a0} {a1} (h : Kept s0 s) : Kept s0 (incompatNote a0 a1 s) := by
  unfold incompatNote
  with_reducible repeat' (first | assumption | refine kept_fst (by assumption) ?_ | exact fun _ _ h => h | intro _ | split | apply incompatSet_kept | refine kept_mk ?_ rfl)

theorem assignOther_kept {s0 s : State} {a0} (h : Kept s0 s) : Kept s0 (assignOther a0 s) := by
  unfold assignOther
  with_reducible repeat' (first | assumption | refine kept_fst (by assumption) ?_ | exact fun _ _ h => h | intro _ | split | apply incompatNote_kept | refine kept_mk ?_ rfl)

theorem assignApply_kept {s0 s : State} {a0} (h : Kept s0 s) : Kept s0 (assignApply a0 s) := by
  unfold assignApply
  with_reducible repeat' (first | assumption | refine kept_fst (by assumption) ?_ | exact fun _ _ h => h | intro _ | split | apply incompatSet_kept | apply incompatNote_kept | refine kept_mk ?_ rfl)

theorem discComplete_kept {s0 s : State} (h : Kept s0 s) : Kept s0 (discComplete s) := by
  unfold discComplete
  with_reducible repeat' (first | assumption | refine kept_mk ?_ rfl)

theorem crownAssign_kept {s0 s : State} (h : Kept s0 s) : Kept s0 (crownAssign s) := by
  unfold crownAssign
  with_reducible repeat' (first | assumption | intro _ | split | apply discFail_kept | apply assignApply_kept | apply toChildren_kept | apply donePass_kept | apply discComplete_kept | apply foldl_kept | refine kept_mk ?_ rfl)

theorem discPump_kept {s0 s : State} (h : Kept s0 s) : Kept s0 (discPump s) := by
  unfold discPump
  with_reducible repeat' (first | assumption | split | apply sendDisc_kept | apply crownAssign_kept | apply foldl_kept | apply getD_kept | refine kept_mk ?_ rfl | exact (rfl : Core.ledge (id _) = _))

theorem execDiscoveryStart_kept {s t : State} (h : execDiscoveryStart s = .next t) : Kept s t := by
  unfold execDiscoveryStart at h
  refine whenAwake_kept (fun {s0 s} h => ?_) h
  with_reducible repeat' (first | assumption | split | apply discPump_kept | apply foldl_kept | refine kept_mk ?_ rfl)

theorem discIn_kept {s t : State} {a0} {a1} {a2} {a3 : Sys2Proof.Machine.State → Sys2Proof.Machine.State} (h3 : ∀ {s0 s : State} , Kept s0 s → Kept s0 (a3  s)) (h : discIn a0 a1 a2 a3 s = .next t) : Kept s t := by
  unfold discIn at h
  refine whenAwake_kept (fun {s0 s} h => ?_) h
  with_reducible repeat' (first | assumption | apply arrive_kept)

theorem execPosition_kept {s t : State} {a0} {a1} {a2} (h : execPosition a0 a1 a2 s = .next t) : Kept s t := by
  unfold execPosition at h
  refine discIn_kept (fun {s0 s} h => ?_) h
  with_reducible repeat' (first | assumption | apply discPump_kept | apply modCol_kept)

theorem execReport_kept {s t : State} {a0} {a1} {a2} (h : execReport a0 a1 a2 s = .next t) : Kept s t := by
  unfold execReport at h
  refine discIn_kept (fun {s0 s} h => ?_) h
  with_reducible repeat' (first | assumption | split | apply sendDisc_kept | refine kept_mk ?_ rfl)

theorem execEnd_kept {s t : State} {a0} {a1} {a2} (h : execEnd a0 a1 a2 s = .next t) : Kept s t := by
  unfold execEnd at h
  refine discIn_kept (fun {s0 s} h => ?_) h
  with_reducible repeat' (first | assumption | apply discPump_kept | apply modCol_kept)

theorem execAssign_kept {s t : State} {a0} {a1} {a2} (h : execAssign a0 a1 a2 s = .next t) : Kept s t := by
  unfold execAssign at h
  refine discIn_kept (fun {s0 s} h => ?_) h
  with_reducible repeat' (first | assumption | refine kept_fst (by assumption) ?_ | exact fun _ _ h => h | intro _ | split | apply toChildren_kept | apply assignOther_kept | apply assignApply_kept | refine kept_mk ?_ rfl)

theorem execRoutes_kept {s t : State} {a0} {a1} {a2} {a3} (h : execRoutes a0 a1 a2 a3 s = .next t) : Kept s t := by
  unfold execRoutes at h
  refine discIn_kept (fun {s0 s} h => ?_) h
  with_reducible repeat' (first | assumption | refine kept_fst (by assumption) ?_ | exact fun _ _ h => h | intro _ | split | apply toChildren_kept | apply incompatSet_kept | refine kept_mk ?_ rfl)

theorem execAlignReq_kept {s t : State} {a0} {a1} {a2} (h : execAlignReq a0 a1 a2 s = .next t) : Kept s t := by
  unfold execAlignReq at h
  refine discIn_kept (fun {s0 s} h => ?_) h
  with_reducible repeat' (first | assumption | apply sendDisc_kept)

theorem execAlignRsp_kept {s t : State} {a0} {a1} {a2} {a3} (h : execAlignRsp a0 a1 a2 a3 s = .next t) : Kept s t := by
  unfold execAlignRsp at h
  refine discIn_kept (fun {s0 s} h => ?_) h
  try dsimp only
  with_reducible repeat' (first | assumption | apply alignRspIn_kept | apply foldl_kept)

theorem execDone_kept {s t : State} {a0} {a1} (h : execDone a0 a1 s = .next t) : Kept s t := by
  unfold execDone at h
  refine discIn_kept (fun {s0 s} h => ?_) h
  with_reducible repeat' (first | assumption | split | apply alignBegin_kept | apply discComplete_kept)

theorem execFail_kept {s t : State} {a0} {a1} {a2} (h : execFail a0 a1 a2 s = .next t) : Kept s t := by
  unfold execFail at h
  refine discIn_kept (fun {s0 s} h => ?_) h
  with_reducible repeat' (first | assumption | split | apply discFail_kept | apply foldl_kept | apply getD_kept | refine kept_mk ?_ rfl)

theorem execDiscoveryTimeout_kept {s t : State} (h : execDiscoveryTimeout s = .next t) : Kept s t := by
  unfold execDiscoveryTimeout at h
  refine whenAwake_kept (fun {s0 s} h => ?_) h
  with_reducible repeat' (first | assumption | split | apply discFail_kept | apply foldl_kept | apply getD_kept | refine kept_mk ?_ rfl)

end Sys2Proof.Machine
end

