-- ==== Sys2Proof/Laws/KeptPower.lean ====
section
/-! SUPPORT. What the definitions of Machine/Power.lean keep (Safety: Kept), one lemma each. -/
set_option linter.all false
namespace Sys2Proof.Machine

theorem tickCounts_kept {s0 s : State} (h : Kept s0 s) : Kept s0 (tickCounts s) := by
  unfold tickCounts
  with_reducible repeat' (first | assumption | intro _ | split | apply countCore_kept | apply countAt_kept | apply foldl_kept)

theorem tick_kept {s0 s : State} (h : Kept s0 s) : Kept s0 (tick s) := by
  unfold tick
  with_reducible repeat' (first | assumption | refine kept_fst (by assumption) ?_ | exact fun _ _ h => h | intro _ | split | apply tickCounts_kept | refine kept_mk ?_ rfl)

theorem execPaceRecalibrate_kept {s t : State} {a0} (h : execPaceRecalibrate a0 s = .next t) : Kept s t := by
  unfold execPaceRecalibrate at h
  refine whenAwake_kept (fun {s0 s} h => ?_) h
  with_reducible repeat' (first | assumption | exact fun _ _ h => h | apply modCore_kept)

theorem execAgeDerateStep_kept {s t : State} {a0} (h : execAgeDerateStep a0 s = .next t) : Kept s t := by
  unfold execAgeDerateStep at h
  refine whenAwake_kept (fun {s0 s} h => ?_) h
  with_reducible repeat' (first | assumption | exact fun _ _ h => h | apply modCore_kept)

theorem warnUpdate_kept {s0 s : State} (h : Kept s0 s) : Kept s0 (warnUpdate s) := by
  unfold warnUpdate
  with_reducible repeat' (first | assumption | split | apply raiseEvt_kept | refine kept_mk ?_ rfl)

theorem keepRates_kept {s0 s : State} (h : Kept s0 s) : Kept s0 (keepRates s) := by
  unfold keepRates
  dsimp only
  with_reducible repeat' (first | assumption | intro _ | split | apply modXfer_kept | apply foldl_kept)

theorem stepRestart_kept {s0 s : State} (h : Kept s0 s) : Kept s0 (stepRestart s) := by
  unfold stepRestart
  with_reducible repeat' (first | assumption | split | apply gateAll_kept | refine kept_mk ?_ rfl)

theorem trip_kept {s0 s : State} (h : Kept s0 s) : Kept s0 (trip s) := by
  unfold trip
  with_reducible repeat' (first | assumption | apply stepRestart_kept | apply keepRates_kept | apply raiseEvt_kept | apply retarget_kept | refine kept_mk ?_ rfl)

theorem sensorSample_kept {s0 s : State} {a0} (h : Kept s0 s) : Kept s0 (sensorSample a0 s) := by
  unfold sensorSample
  with_reducible repeat' (first | assumption | split | apply warnUpdate_kept | apply trip_kept | refine kept_mk ?_ rfl)

theorem execSensorSample_kept {s t : State} {a0} (h : execSensorSample a0 s = .next t) : Kept s t := by
  unfold execSensorSample at h
  refine whenAwake_kept (fun {s0 s} h => ?_) h
  with_reducible repeat' (first | assumption | apply sensorSample_kept | apply foldl_kept)

theorem tripClear_kept {s0 s : State} (h : Kept s0 s) : Kept s0 (tripClear s) := by
  unfold tripClear
  with_reducible repeat' (first | assumption | split | apply retarget_kept | refine kept_mk ?_ rfl)

theorem execTripClear_kept {s t : State} (h : execTripClear s = .next t) : Kept s t := by
  unfold execTripClear at h
  refine whenAwake_kept (fun {s0 s} h => ?_) h
  with_reducible repeat' (first | assumption | apply tripClear_kept)

theorem stampSend_kept {s0 s : State} {a0} (h : Kept s0 s) : Kept s0 (stampSend a0 s) := by
  unfold stampSend
  with_reducible repeat' (first | assumption | refine kept_fst (by assumption) ?_ | exact fun _ _ h => h | intro _ | split | apply ridgeMove_kept | refine kept_mk ?_ rfl)

theorem windowMark_kept {s0 s : State} {a0} (h : Kept s0 s) : Kept s0 (windowMark a0 s) := by
  unfold windowMark
  with_reducible repeat' (first | assumption | refine kept_fst (by assumption) ?_ | exact fun _ _ h => h | intro _ | split | apply stampSend_kept | refine kept_mk ?_ rfl)

theorem execWindowMark_kept {s t : State} {a0} (h : execWindowMark a0 s = .next t) : Kept s t := by
  unfold execWindowMark at h
  refine whenAwake_kept (fun {s0 s} h => ?_) h
  with_reducible repeat' (first | assumption | refine kept_fst (by assumption) ?_ | exact fun _ _ h => h | intro _ | split | apply windowMark_kept | refine kept_mk ?_ rfl)

theorem energyPublish_kept {s0 s : State} (h : Kept s0 s) : Kept s0 (energyPublish s) := by
  unfold energyPublish
  with_reducible repeat' (first | assumption | intro _ | apply modMassif_kept | apply foldl_kept | refine kept_mk ?_ rfl)

theorem capCut_kept {s0 s : State} {a0} {a1} {a2} (h : Kept s0 s) : Kept s0 (capCut a0 a1 a2 s) := by
  unfold capCut
  with_reducible repeat' (first | assumption | split | refine kept_mk ?_ rfl)

theorem capGive_kept {s0 s : State} {a0} (h : Kept s0 s) : Kept s0 (capGive a0 s) := by
  unfold capGive
  with_reducible repeat' (first | assumption | split | refine kept_mk ?_ rfl)

theorem capReturn_kept {s0 s : State} (h : Kept s0 s) : Kept s0 (capReturn s) := by
  unfold capReturn
  with_reducible repeat' (first | assumption | split | apply capGive_kept)

theorem capStep_kept {s0 s : State} {a0} (h : Kept s0 s) : Kept s0 (capStep a0 s) := by
  unfold capStep
  dsimp only
  with_reducible repeat' (first | assumption | split | apply capReturn_kept | apply capCut_kept | refine kept_mk ?_ rfl)

theorem telemSend_kept {s0 s : State} {a0} {a1} (h : Kept s0 s) : Kept s0 (telemSend a0 a1 s) := by
  unfold telemSend
  with_reducible repeat' (first | assumption | refine kept_fst (by assumption) ?_ | exact fun _ _ h => h | intro _ | split | apply sendTo_kept | refine kept_mk ?_ rfl)

theorem telem_kept {s0 s : State} (h : Kept s0 s) : Kept s0 (telem s) := by
  unfold telem
  dsimp only
  with_reducible repeat' (first | assumption | split | apply telemSend_kept)

theorem publish_kept {s0 s : State} (h : Kept s0 s) : Kept s0 (publish s) := by
  unfold publish
  dsimp only
  with_reducible repeat' (first | assumption | apply energyPublish_kept | apply capStep_kept | apply telem_kept | apply retarget_kept | refine kept_mk ?_ rfl)

theorem execPublishWindow_kept {s t : State} (h : execPublishWindow s = .next t) : Kept s t := by
  unfold execPublishWindow at h
  refine whenAwake_kept (fun {s0 s} h => ?_) h
  with_reducible repeat' (first | assumption | split | apply publish_kept)

theorem execRailSample_kept {s t : State} (h : execRailSample s = .next t) : Kept s t := by
  unfold execRailSample at h
  refine whenAwake_kept (fun {s0 s} h => ?_) h
  with_reducible repeat' (first | assumption | refine kept_mk ?_ rfl)

theorem hintRecompute_kept {s0 s : State} (h : Kept s0 s) : Kept s0 (hintRecompute s) := by
  unfold hintRecompute
  with_reducible repeat' (first | assumption | intro _ | apply retarget_kept | apply modSeq_kept | apply foldl_kept)

theorem execHintRecompute_kept {s t : State} (h : execHintRecompute s = .next t) : Kept s t := by
  unfold execHintRecompute at h
  refine whenAwake_kept (fun {s0 s} h => ?_) h
  with_reducible repeat' (first | assumption | apply hintRecompute_kept)

theorem readNext_kept {s0 s : State} {a0} (h : Kept s0 s) : Kept s0 (readNext a0 s) := by
  unfold readNext
  with_reducible repeat' (first | assumption | refine kept_fst (by assumption) ?_ | exact fun _ _ h => h | intro _ | split | refine kept_mk ?_ rfl)

theorem avsFailed_kept {s0 s : State} {a0} (h : Kept s0 s) : Kept s0 (avsFailed a0 s) := by
  unfold avsFailed
  with_reducible repeat' (first | assumption | split | apply raiseEvt_kept | refine kept_mk ?_ rfl)

theorem avsGood_kept {s0 s : State} {a0} {a1} (h : Kept s0 s) : Kept s0 (avsGood a0 a1 s) := by
  unfold avsGood
  with_reducible repeat' (first | assumption | split | refine kept_mk ?_ rfl)

theorem avsFrame_kept {s0 s : State} {a0} (h : Kept s0 s) : Kept s0 (avsFrame a0 s) := by
  unfold avsFrame
  with_reducible repeat' (first | assumption | refine kept_fst (by assumption) ?_ | exact fun _ _ h => h | intro _ | split | apply retarget_kept | apply readNext_kept | apply avsFailed_kept | apply avsGood_kept | refine kept_mk ?_ rfl)

theorem execAvsFrame_kept {s t : State} {a0} (h : execAvsFrame a0 s = .next t) : Kept s t := by
  unfold execAvsFrame at h
  refine whenAwake_kept (fun {s0 s} h => ?_) h
  with_reducible repeat' (first | assumption | apply avsFrame_kept)

theorem droopCrossing_kept {s0 s : State} {a0} (h : Kept s0 s) : Kept s0 (droopCrossing a0 s) := by
  unfold droopCrossing
  with_reducible repeat' (first | assumption | apply modClus_kept | apply retarget_kept | refine kept_mk ?_ rfl)

theorem execDroopCrossing_kept {s t : State} {a0} (h : execDroopCrossing a0 s = .next t) : Kept s t := by
  unfold execDroopCrossing at h
  refine whenAwake_kept (fun {s0 s} h => ?_) h
  with_reducible repeat' (first | assumption | split | apply droopCrossing_kept | apply foldl_kept)

theorem clampStep_kept {s0 s : State} {a0} (h : Kept s0 s) : Kept s0 (clampStep a0 s) := by
  unfold clampStep
  with_reducible repeat' (first | assumption | apply modClus_kept)

theorem execClampStep_kept {s t : State} {a0} (h : execClampStep a0 s = .next t) : Kept s t := by
  unfold execClampStep at h
  refine whenAwake_kept (fun {s0 s} h => ?_) h
  with_reducible repeat' (first | assumption | apply clampStep_kept)

theorem spineParity_kept {s0 s : State} {a0} (h : Kept s0 s) : Kept s0 (spineParity a0 s) := by
  unfold spineParity
  with_reducible repeat' (first | assumption | refine kept_fst (by assumption) ?_ | exact fun _ _ h => h | intro _ | split | apply fatalError_kept | apply routerFatal_kept | refine kept_mk ?_ rfl)

theorem execSpineParity_kept {s t : State} {a0} (h : execSpineParity a0 s = .next t) : Kept s t := by
  unfold execSpineParity at h
  refine whenAwake_kept (fun {s0 s} h => ?_) h
  with_reducible repeat' (first | assumption | apply spineParity_kept)

end Sys2Proof.Machine
end

