-- ==== Sys2Proof/Laws/KeptBringup.lean ====
section
/-! SUPPORT. What the definitions of Machine/Bringup.lean keep (Safety: Kept), one lemma each. -/
set_option linter.all false
namespace Sys2Proof.Machine

theorem powerReset_kept {s0 s : State} {c} (h : Kept s0 s) : Kept s0 (powerReset s c) :=
  kept_fresh h rfl rfl rfl rfl rfl rfl

theorem execPorstNAssert_kept {s t : State} {a0} (h : execPorstNAssert a0 s = .next t) : Kept s t := by
  unfold execPorstNAssert at h
  injection h with h; subst h; have h := Kept.rfl' s
  with_reducible repeat' (first | assumption | split | apply powerReset_kept | refine kept_mk ?_ rfl)

theorem execPorstNRelease_kept {s t : State} {a0} (h : execPorstNRelease a0 s = .next t) : Kept s t := by
  unfold execPorstNRelease at h
  injection h with h; subst h; have h := Kept.rfl' s
  with_reducible repeat' (first | assumption | split | apply powerReset_kept | refine kept_mk ?_ rfl)

theorem execBrownOut_kept {s t : State} {a0} (h : execBrownOut a0 s = .next t) : Kept s t := by
  unfold execBrownOut at h
  refine whenAwake_kept (fun {s0 s} h => ?_) h
  with_reducible repeat' (first | assumption | split | apply powerReset_kept | refine kept_mk ?_ rfl)

theorem execBrownOutRecovery_kept {s t : State} {a0} (h : execBrownOutRecovery a0 s = .next t) : Kept s t := by
  unfold execBrownOutRecovery at h
  injection h with h; subst h; have h := Kept.rfl' s
  with_reducible repeat' (first | assumption | split | apply powerReset_kept | refine kept_mk ?_ rfl)

theorem execVddAonLoss_kept {s t : State} (h : execVddAonLoss s = .next t) : Kept s t := by
  unfold execVddAonLoss at h
  injection h with h
  subst h
  exact kept_fresh (Kept.rfl' s) rfl rfl rfl rfl rfl rfl

theorem setStep_kept {s0 s : State} {a0} (h : Kept s0 s) : Kept s0 (setStep a0 s) := by
  unfold setStep
  with_reducible repeat' (first | assumption | apply retarget_kept | refine kept_mk ?_ rfl)

theorem endRails_kept {s0 s : State} {a0} (h : Kept s0 s) : Kept s0 (endRails a0 s) := by
  unfold endRails
  with_reducible repeat' (first | assumption | refine kept_fst (by assumption) ?_ | exact fun _ _ h => h | intro _ | split | apply retarget_kept | apply bringFail_kept | apply setStep_kept | refine kept_mk ?_ rfl)

theorem colOff_kept {s0 s : State} {a0} {a1} (h : Kept s0 s) : Kept s0 (colOff a0 a1 s) := by
  unfold colOff
  with_reducible repeat' (first | assumption | apply modCol_kept)

theorem endFuse_kept {s0 s : State} {a0} (h : Kept s0 s) : Kept s0 (endFuse a0 s) := by
  unfold endFuse
  with_reducible repeat' (first | assumption | intro _ | split | apply bringFail_kept | apply setStep_kept | apply colOff_kept | apply foldl_kept)

theorem endSpine_kept {s0 s : State} {a0} (h : Kept s0 s) : Kept s0 (endSpine a0 s) := by
  unfold endSpine
  with_reducible repeat' (first | assumption | intro _ | split | apply bringFail_kept | apply setStep_kept | apply colOff_kept | apply foldl_kept | refine kept_mk ?_ rfl)

theorem endDiscovery_kept {s0 s : State} (h : Kept s0 s) : Kept s0 (endDiscovery s) := by
  unfold endDiscovery
  with_reducible repeat' (first | assumption | split | apply setStep_kept)

theorem powerClus_kept {s0 s : State} {a0} (h : Kept s0 s) : Kept s0 (powerClus a0 s) := by
  unfold powerClus
  with_reducible repeat' (first | assumption | intro _ | split | apply modClus_kept | apply modCore_kept | apply foldl_kept)

theorem wave_kept {s0 s : State} (h : Kept s0 s) : Kept s0 (wave s) := by
  unfold wave
  with_reducible repeat' (first | assumption | split | apply powerClus_kept | apply retarget_kept | apply foldl_kept | refine kept_mk ?_ rfl)

theorem execWave_kept {s t : State} (h : execWave s = .next t) : Kept s t := by
  unfold execWave at h
  refine whenAwake_kept (fun {s0 s} h => ?_) h
  with_reducible repeat' (first | assumption | apply wave_kept | apply foldl_kept | apply getD_kept)

theorem endWaves_kept {s0 s : State} (h : Kept s0 s) : Kept s0 (endWaves s) := by
  unfold endWaves
  with_reducible repeat' (first | assumption | split | apply setStep_kept)

theorem disagree_kept {s0 s : State} {a0} {a1} {a2} (h : Kept s0 s) : Kept s0 (disagree a0 a1 a2 s) := by
  unfold disagree
  with_reducible repeat' (first | assumption | refine kept_mk ?_ rfl)

theorem failCore_kept {s0 s : State} {a0} {a1} (h : Kept s0 s) : Kept s0 (failCore a0 a1 s) := by
  unfold failCore
  with_reducible repeat' (first | assumption | apply modClus_kept | apply disagree_kept)

theorem failStore_kept {s0 s : State} {a0} (h : Kept s0 s) : Kept s0 (failStore a0 s) := by
  unfold failStore
  with_reducible repeat' (first | assumption | split | apply disagree_kept | apply modClus_kept)

theorem failAll_kept {s0 s : State} {a0} {a1} (h : Kept s0 s) : Kept s0 (failAll a0 a1 s) := by
  unfold failAll
  with_reducible repeat' (first | assumption | intro _ | split | apply failStore_kept | apply failCore_kept | apply foldl_kept)

theorem targetDone_kept {s0 s : State} {a0 : State → State} (h0 : ∀ {s0 s : State} , Kept s0 s → Kept s0 (a0  s)) (h : Kept s0 s) : Kept s0 (targetDone a0 s) := by
  unfold targetDone
  with_reducible repeat' (first | assumption | refine kept_fst (by assumption) ?_ | exact fun _ _ h => h | refine h0  ?_ | intro _ | split | apply retarget_kept | refine kept_mk ?_ rfl)

theorem endLbist_kept {s0 s : State} (h : Kept s0 s) : Kept s0 (endLbist s) := by
  unfold endLbist
  with_reducible repeat' (first | assumption | refine kept_fst (by assumption) ?_ | exact fun _ _ h => h | intro _ | split | apply setStep_kept | apply failAll_kept | refine kept_mk ?_ rfl)

theorem testCounts_kept {s0 s : State} {a0} {a1} {a2} (h : Kept s0 s) : Kept s0 (testCounts a0 a1 a2 s) := by
  unfold testCounts
  with_reducible repeat' (first | assumption | refine kept_fst (by assumption) ?_ | exact fun _ _ h => h | refine foldl_wf (fun _ _ _ => ?_) ?_ | intro _ | split | apply countAt_kept | apply foldl_kept | refine kept_mk ?_ rfl)

theorem cornerCounts_kept {s0 s : State} (h : Kept s0 s) : Kept s0 (cornerCounts s) := by
  unfold cornerCounts
  with_reducible repeat' (first | assumption | refine kept_fst (by assumption) ?_ | exact fun _ _ h => h | refine foldl_wf (fun _ _ _ => ?_) ?_ | intro _ | split | apply testCounts_kept | apply foldl_kept | refine kept_mk ?_ rfl)

theorem lbistCorner_kept {s0 s : State} {a0} (h : Kept s0 s) : Kept s0 (lbistCorner a0 s) := by
  unfold lbistCorner
  dsimp only
  with_reducible repeat' (first | assumption | refine kept_fst (by assumption) ?_ | exact fun _ _ h => h | intro _ | split | apply targetDone_kept | apply endLbist_kept | apply cornerCounts_kept | refine kept_mk ?_ rfl)

theorem endSram_kept {s0 s : State} (h : Kept s0 s) : Kept s0 (endSram s) := by
  unfold endSram
  with_reducible repeat' (first | assumption | refine kept_fst (by assumption) ?_ | exact fun _ _ h => h | intro _ | split | apply setStep_kept | apply failAll_kept | refine kept_mk ?_ rfl)

theorem sramCorner_kept {s0 s : State} {a0} (h : Kept s0 s) : Kept s0 (sramCorner a0 s) := by
  unfold sramCorner
  dsimp only
  with_reducible repeat' (first | assumption | refine kept_fst (by assumption) ?_ | exact fun _ _ h => h | intro _ | split | apply bringFail_kept | apply targetDone_kept | apply cornerCounts_kept | apply endSram_kept | refine kept_mk ?_ rfl)

theorem characterise_kept {s0 s : State} {a0} {a1} {a2} {a3} (h : Kept s0 s) : Kept s0 (characterise a0 a1 a2 a3 s) := by
  unfold characterise
  with_reducible repeat' (first | assumption | refine kept_fst (by assumption) ?_ | exact fun _ _ h => h | intro _ | split | apply testCounts_kept | refine kept_mk ?_ rfl)

theorem execCharacterisationRun_kept {s t : State} {a0} {a1} {a2} {a3} (h : execCharacterisationRun a0 a1 a2 a3 s = .next t) : Kept s t := by
  unfold execCharacterisationRun at h
  refine whenAwake_kept (fun {s0 s} h => ?_) h
  with_reducible repeat' (first | assumption | refine kept_fst (by assumption) ?_ | exact fun _ _ h => h | intro _ | split | apply characterise_kept | refine kept_mk ?_ rfl)

theorem endChar_kept {s0 s : State} (h : Kept s0 s) : Kept s0 (endChar s) := by
  unfold endChar
  with_reducible repeat' (first | assumption | intro _ | split | apply modCore_kept | apply failAll_kept | apply setStep_kept | apply foldl_kept | refine kept_mk ?_ rfl)

theorem repairClus_kept {s0 s : State} {a0} {a1} (h : Kept s0 s) : Kept s0 (repairClus a0 a1 s) := by
  unfold repairClus
  with_reducible repeat' (first | assumption | refine kept_fst (by assumption) ?_ | exact fun _ _ h => h | refine foldl_wf (fun _ _ _ => ?_) ?_ | intro _ | split | apply countFill_kept | apply gateClus_kept | apply modCore_kept | apply modClus_kept | apply foldl_kept | refine kept_mk ?_ rfl)

theorem recordLanes_kept {s0 s : State} (h : Kept s0 s) : Kept s0 (recordLanes s) := by
  unfold recordLanes
  with_reducible repeat' (first | assumption | refine kept_fst (by assumption) ?_ | exact fun _ _ h => h | refine foldl_wf (fun _ _ _ => ?_) ?_ | apply setLane_wf | apply setLane_lim | intro _ | split | apply modCore_kept | apply foldl_kept | refine kept_mk ?_ rfl)

theorem endRepair_kept {s0 s : State} (h : Kept s0 s) : Kept s0 (endRepair s) := by
  unfold endRepair
  try dsimp only
  repeat' (first | with_reducible assumption | with_reducible refine kept_fst (by assumption) ?_ | with_reducible exact fun _ _ h => h | with_reducible exact fun _ h => h | with_reducible refine foldl_wf (fun _ _ _ => ?_) ?_ | with_reducible refine foldl_wf (fun _ _ _ => ?_) ?_ | with_reducible exact State.Canon.ledge (Kept.canon h (by with_reducible assumption)) _ | intro _ | split | with_reducible apply retarget_kept | with_reducible apply repairClus_kept | with_reducible apply recordLanes_kept | with_reducible apply raiseEvt_kept | with_reducible apply foldl_kept | with_reducible apply getD_kept | with_reducible refine kept_mk ?_ rfl | exact (rfl : Core.ledge (id _) = _) | (show CoreLim (id _); assumption) | with_reducible refine kept_words ?_ (smWf_smSet _ _ _) | with_reducible refine kept_words ?_ (smWf_filter _) | with_reducible refine kept_words ?_ (fun _ => rfl) | with_reducible refine kept_evts ?_ rfl (smWf_smSet _ _ _))

theorem bringupStep_kept {s0 s : State} {a0} (h : Kept s0 s) : Kept s0 (bringupStep a0 s) := by
  unfold bringupStep
  with_reducible repeat' (first | assumption | refine kept_fst (by assumption) ?_ | exact fun _ _ h => h | intro _ | split | apply endRails_kept | apply endFuse_kept | apply endSpine_kept | apply endDiscovery_kept | apply endWaves_kept | apply targetDone_kept | apply lbistCorner_kept | apply sramCorner_kept | apply endChar_kept | apply endRepair_kept | refine kept_mk ?_ rfl)

theorem execBringupStep_kept {s t : State} {a0} (h : execBringupStep a0 s = .next t) : Kept s t := by
  unfold execBringupStep at h
  refine whenAwake_kept (fun {s0 s} h => ?_) h
  with_reducible repeat' (first | assumption | apply bringupStep_kept)

theorem rebring_kept {s0 s : State} (h : Kept s0 s) : Kept s0 (rebring s) := by
  unfold rebring
  with_reducible repeat' (first | assumption | intro _ | split | apply gateAll_kept | apply compReset_kept | apply modClus_kept | apply setStep_kept | apply foldl_kept | refine kept_mk ?_ rfl)

theorem execRebring_kept {s t : State} (h : execRebring s = .next t) : Kept s t := by
  unfold execRebring at h
  refine whenAwake_kept (fun {s0 s} h => ?_) h
  with_reducible repeat' (first | assumption | apply rebring_kept | apply foldl_kept | apply getD_kept | refine kept_mk ?_ rfl | exact (rfl : Core.ledge (id _) = _))

end Sys2Proof.Machine
end

