-- ==== Sys2Proof/Laws/KeptRegWrites.lean ====
section
/-! SUPPORT. What the definitions of Machine/RegWrites.lean keep (Safety: Kept), one lemma each. -/
set_option linter.all false
namespace Sys2Proof.Machine

theorem hwmClear_kept {s0 s : State} {a0} (h : Kept s0 s) : Kept s0 (hwmClear a0 s) := by
  unfold hwmClear
  with_reducible repeat' (first | assumption | apply modClus_kept)

theorem execHwmClear_kept {s t : State} {a0} (h : execHwmClear a0 s = .next t) : Kept s t := by
  unfold execHwmClear at h
  refine whenAwake_kept (fun {s0 s} h => ?_) h
  with_reducible repeat' (first | assumption | apply hwmClear_kept)

theorem countClear_kept {s0 s : State} (h : Kept s0 s) : Kept s0 (countClear s) := by
  unfold countClear
  with_reducible repeat' (first | assumption | refine kept_mk ?_ rfl)

theorem execCountClear_kept {s t : State} (h : execCountClear s = .next t) : Kept s t := by
  unfold execCountClear at h
  refine whenAwake_kept (fun {s0 s} h => ?_) h
  with_reducible repeat' (first | assumption | apply countClear_kept)

theorem colErrClear_kept {s0 s : State} {a0} (h : Kept s0 s) : Kept s0 (colErrClear a0 s) := by
  unfold colErrClear
  with_reducible repeat' (first | assumption | apply modCol_kept)

theorem execColErrClear_kept {s t : State} {a0} (h : execColErrClear a0 s = .next t) : Kept s t := by
  unfold execColErrClear at h
  refine whenAwake_kept (fun {s0 s} h => ?_) h
  with_reducible repeat' (first | assumption | apply colErrClear_kept)

theorem regStatClear_kept {s0 s : State} (h : Kept s0 s) : Kept s0 (regStatClear s) := by
  unfold regStatClear
  with_reducible repeat' (first | assumption | refine kept_mk ?_ rfl)

theorem execRegStatClear_kept {s t : State} (h : execRegStatClear s = .next t) : Kept s t := by
  unfold execRegStatClear at h
  refine whenAwake_kept (fun {s0 s} h => ?_) h
  with_reducible repeat' (first | assumption | apply regStatClear_kept)

theorem regStatFirstClear_kept {s0 s : State} (h : Kept s0 s) : Kept s0 (regStatFirstClear s) := by
  unfold regStatFirstClear
  with_reducible repeat' (first | assumption | refine kept_mk ?_ rfl)

theorem execRegStatFirstClear_kept {s t : State} (h : execRegStatFirstClear s = .next t) : Kept s t := by
  unfold execRegStatFirstClear at h
  refine whenAwake_kept (fun {s0 s} h => ?_) h
  with_reducible repeat' (first | assumption | apply regStatFirstClear_kept)

theorem clusTrapSumClear_kept {s0 s : State} {a0} (h : Kept s0 s) : Kept s0 (clusTrapSumClear a0 s) := by
  unfold clusTrapSumClear
  with_reducible repeat' (first | assumption | apply modClus_kept)

theorem execClusTrapSumClear_kept {s t : State} {a0} (h : execClusTrapSumClear a0 s = .next t) : Kept s t := by
  unfold execClusTrapSumClear at h
  refine whenAwake_kept (fun {s0 s} h => ?_) h
  with_reducible repeat' (first | assumption | apply clusTrapSumClear_kept)

theorem dieTrapSumClear_kept {s0 s : State} (h : Kept s0 s) : Kept s0 (dieTrapSumClear s) := by
  unfold dieTrapSumClear
  with_reducible repeat' (first | assumption | refine kept_mk ?_ rfl)

theorem execDieTrapSumClear_kept {s t : State} (h : execDieTrapSumClear s = .next t) : Kept s t := by
  unfold execDieTrapSumClear at h
  refine whenAwake_kept (fun {s0 s} h => ?_) h
  with_reducible repeat' (first | assumption | apply dieTrapSumClear_kept)

theorem errPartnerClear_kept {s0 s : State} (h : Kept s0 s) : Kept s0 (errPartnerClear s) := by
  unfold errPartnerClear
  with_reducible repeat' (first | assumption | refine kept_mk ?_ rfl)

theorem execErrPartnerClear_kept {s t : State} (h : execErrPartnerClear s = .next t) : Kept s t := by
  unfold execErrPartnerClear at h
  refine whenAwake_kept (fun {s0 s} h => ?_) h
  with_reducible repeat' (first | assumption | apply errPartnerClear_kept)

theorem bringupDisClear_kept {s0 s : State} (h : Kept s0 s) : Kept s0 (bringupDisClear s) := by
  unfold bringupDisClear
  with_reducible repeat' (first | assumption | refine kept_mk ?_ rfl)

theorem execBringupDisClear_kept {s t : State} (h : execBringupDisClear s = .next t) : Kept s t := by
  unfold execBringupDisClear at h
  refine whenAwake_kept (fun {s0 s} h => ?_) h
  with_reducible repeat' (first | assumption | apply bringupDisClear_kept)

theorem elecStatBoClear_kept {s0 s : State} (h : Kept s0 s) : Kept s0 (elecStatBoClear s) := by
  unfold elecStatBoClear
  with_reducible repeat' (first | assumption | refine kept_mk ?_ rfl)

theorem execElecStatBoClear_kept {s t : State} (h : execElecStatBoClear s = .next t) : Kept s t := by
  unfold execElecStatBoClear at h
  refine whenAwake_kept (fun {s0 s} h => ?_) h
  with_reducible repeat' (first | assumption | apply elecStatBoClear_kept)

theorem errNotify_kept {s0 s : State} {a0} {a1} (h : Kept s0 s) : Kept s0 (errNotify a0 a1 s) := by
  unfold errNotify
  with_reducible repeat' (first | assumption | split | apply raiseEvt_kept | refine kept_mk ?_ rfl)

theorem execErrNotify_kept {s t : State} {a0} {a1} (h : execErrNotify a0 a1 s = .next t) : Kept s t := by
  unfold execErrNotify at h
  refine whenAwake_kept (fun {s0 s} h => ?_) h
  with_reducible repeat' (first | assumption | apply errNotify_kept)

theorem psAdvance_kept {s0 s : State} (h : Kept s0 s) : Kept s0 (psAdvance s) := by
  unfold psAdvance
  with_reducible repeat' (first | assumption | refine kept_mk ?_ rfl)

theorem psRead_kept {s0 s : State} {a0} (h : Kept s0 s) : Kept s0 (psRead a0 s) := by
  unfold psRead
  with_reducible repeat' (first | assumption | apply psAdvance_kept | refine kept_mk ?_ rfl)

theorem execPsDataRead_kept {s t : State} {a0} (h : execPsDataRead a0 s = .next t) : Kept s t := by
  unfold execPsDataRead at h
  refine whenAwake_kept (fun {s0 s} h => ?_) h
  with_reducible repeat' (first | assumption | apply psRead_kept)

theorem psWrite_kept {s0 s : State} {a0} (h : Kept s0 s) : Kept s0 (psWrite a0 s) := by
  unfold psWrite
  with_reducible repeat' (first | assumption | split | apply psAdvance_kept | apply storeWrite_kept | refine kept_mk ?_ rfl)

theorem execPsDataWrite_kept {s t : State} {a0} (h : execPsDataWrite a0 s = .next t) : Kept s t := by
  unfold execPsDataWrite at h
  refine whenAwake_kept (fun {s0 s} h => ?_) h
  with_reducible repeat' (first | assumption | apply psWrite_kept | apply foldl_kept)

theorem itestStart_kept {s0 s : State} (h : Kept s0 s) : Kept s0 (itestStart s) := by
  unfold itestStart
  with_reducible repeat' (first | assumption | refine kept_mk ?_ rfl)

theorem execItestStart_kept {s t : State} (h : execItestStart s = .next t) : Kept s t := by
  unfold execItestStart at h
  refine whenAwake_kept (fun {s0 s} h => ?_) h
  with_reducible repeat' (first | assumption | apply itestStart_kept)

theorem itestSee_kept {s0 s : State} {a0} (h : Kept s0 s) : Kept s0 (itestSee a0 s) := by
  unfold itestSee
  with_reducible repeat' (first | assumption | refine kept_fst (by assumption) ?_ | exact fun _ _ h => h | intro _ | split | refine kept_mk ?_ rfl)

theorem itestStop_kept {s0 s : State} {a0} (h : Kept s0 s) : Kept s0 (itestStop a0 s) := by
  unfold itestStop
  with_reducible repeat' (first | assumption | refine kept_fst (by assumption) ?_ | exact fun _ _ h => h | intro _ | split | apply itestSee_kept | refine kept_mk ?_ rfl)

theorem execItestStop_kept {s t : State} {a0} (h : execItestStop a0 s = .next t) : Kept s t := by
  unfold execItestStop at h
  refine whenAwake_kept (fun {s0 s} h => ?_) h
  with_reducible repeat' (first | assumption | refine kept_fst (by assumption) ?_ | exact fun _ _ h => h | intro _ | split | apply itestStop_kept | refine kept_mk ?_ rfl)

theorem did_kept {s0 s : State} {o} (ho : ∀ t, o = .next t → Kept s t) (h : Kept s0 s) : Kept s0 (did s o) := by
  cases o with
  | next t => exact h.trans' (ho t rfl)
  | fault _ => exact h
  | refused _ => exact h

theorem onBit_kept {s0 s : State} {a0} {a1} {a2 : Sys2Proof.Machine.State → Sys2Proof.Machine.State} (h2 : ∀ {s0 s : State} , Kept s0 s → Kept s0 (a2  s)) (h : Kept s0 s) : Kept s0 (onBit a0 a1 a2 s) := by
  unfold onBit
  with_reducible repeat' (first | assumption | refine h2  ?_ | split)

theorem evtWrite_kept {s0 s : State} {a0} {a1} {a2} (h : Kept s0 s) : Kept s0 (evtWrite a0 a1 a2 s) := by
  unfold evtWrite
  with_reducible repeat' (first | assumption | refine kept_evts ?_ rfl (smWf_smSet _ _ _))

theorem coreAWrite_kept {s0 s : State} {a0} {a1} {a2} (h : Kept s0 s) : Kept s0 (coreAWrite a0 a1 a2 s) := by
  unfold coreAWrite
  with_reducible repeat' (first | assumption | exact fun _ _ h => h | split | apply modCore_kept)

theorem coreBWrite_kept {s0 s : State} {a0} {a1} {a2} (h : Kept s0 s) : Kept s0 (coreBWrite a0 a1 a2 s) := by
  unfold coreBWrite
  with_reducible repeat' (first | assumption | intro _ | split | apply modCore_kept | apply onBit_kept | refine did_kept (fun _ h => execLedgePerrLogClear_kept h) ?_ | apply modLedge_kept | refine did_kept (fun _ h => execLedgeBgStatClear_kept h) ?_ | refine did_kept (fun _ h => execTxResume_kept h) ?_)

theorem clusWrite_kept {s0 s : State} {a0} {a1} {a2} (h : Kept s0 s) : Kept s0 (clusWrite a0 a1 a2 s) := by
  unfold clusWrite
  with_reducible repeat' (first | assumption | intro _ | split | apply onBit_kept | apply hwmClear_kept | apply clusTrapSumClear_kept | refine did_kept (fun _ h => execHwStoreStatClear_kept h) ?_)

theorem routerWrite_kept {s0 s : State} {a0} {a1} {a2} (h : Kept s0 s) : Kept s0 (routerWrite a0 a1 a2 s) := by
  unfold routerWrite
  with_reducible repeat' (first | assumption | intro _ | split | apply onBit_kept | refine did_kept (fun _ h => execClusAbsentClear_kept h) ?_)

theorem colWrite_kept {s0 s : State} {a0} {a1} {a2} (h : Kept s0 s) : Kept s0 (colWrite a0 a1 a2 s) := by
  unfold colWrite
  with_reducible repeat' (first | assumption | intro _ | split | apply modCol_kept | apply onBit_kept | apply colRetrain_kept | apply colReset_kept | apply colDisable_kept | apply colErrClear_kept)

theorem ridgeWrite_kept {s0 s : State} {a0} {a1} (h : Kept s0 s) : Kept s0 (ridgeWrite a0 a1 s) := by
  unfold ridgeWrite
  with_reducible repeat' (first | assumption | split | refine kept_mk ?_ rfl)

theorem seqCommand_kept {s0 s : State} {a0} {a1} (h : Kept s0 s) : Kept s0 (seqCommand a0 a1 s) := by
  unfold seqCommand
  with_reducible repeat' (first | assumption | split | apply seqLoad_kept | apply seqCheck_kept | apply seqStart_kept | apply seqStop_kept | apply seqAbort_kept | apply seqResult_kept)

theorem seqWrite_kept {s0 s : State} {a0} {a1} {a2} (h : Kept s0 s) : Kept s0 (seqWrite a0 a1 a2 s) := by
  unfold seqWrite
  with_reducible repeat' (first | assumption | split | apply modSeq_kept | apply seqCommand_kept)

theorem massifCommand_kept {s0 s : State} {a0} {a1} (h : Kept s0 s) : Kept s0 (massifCommand a0 a1 s) := by
  unfold massifCommand
  with_reducible repeat' (first | assumption | split | apply massifCreate_kept | apply massifReset_kept | apply massifTeardown_kept | apply massifResult_kept)

theorem massifWrite_kept {s0 s : State} {a0} {a1} {a2} (h : Kept s0 s) : Kept s0 (massifWrite a0 a1 a2 s) := by
  unfold massifWrite
  with_reducible repeat' (first | assumption | intro _ | split | apply modMassif_kept | apply onBit_kept | refine did_kept (fun _ h => execInvalidate_kept h) ?_ | apply tcInvalidate_kept | refine did_kept (fun _ h => execResumeAll_kept h) ?_ | apply retarget_kept | apply massifCommand_kept)

theorem summitWrite_kept {s0 s : State} {a0} {a1} {a2} (h : Kept s0 s) : Kept s0 (summitWrite a0 a1 a2 s) := by
  unfold summitWrite
  with_reducible repeat' (first | assumption | refine kept_fst (by assumption) ?_ | exact fun _ _ h => h | intro _ | split | apply treeCheckAll_kept | apply modMassif_kept | apply modSummit_kept | refine kept_mk ?_ rfl)

theorem seqPageWrite_kept {s0 s : State} {a0} {a1} {a2} (h : Kept s0 s) : Kept s0 (seqPageWrite a0 a1 a2 s) := by
  unfold seqPageWrite
  with_reducible repeat' (first | assumption | split | apply seqWrite_kept | apply summitWrite_kept | apply massifWrite_kept)

theorem notifyWrite_kept {s0 s : State} {a0} (h : Kept s0 s) : Kept s0 (notifyWrite a0 s) := by
  unfold notifyWrite
  with_reducible repeat' (first | assumption | refine kept_mk ?_ rfl)

theorem smallWrite_kept {s0 s : State} {a0} {a1} {a2} (h : Kept s0 s) : Kept s0 (smallWrite a0 a1 a2 s) := by
  unfold smallWrite
  with_reducible repeat' (first | assumption | intro _ | split | apply onBit_kept | apply regStatClear_kept | apply regStatFirstClear_kept | apply notifyWrite_kept | apply dieTrapSumClear_kept | apply errNotify_kept | apply errPartnerClear_kept | apply psWrite_kept | apply countClear_kept | refine did_kept (fun _ h => execTcInval_kept h) ?_ | refine did_kept (fun _ h => execStreamTrkStatClear_kept h) ?_ | refine kept_mk ?_ rfl)

theorem rerouteItem_kept {s0 s : State} {a0} {a1} (h : Kept s0 s) : Kept s0 (rerouteItem a0 a1 s) := by
  unfold rerouteItem
  with_reducible repeat' (first | assumption | refine kept_fst (by assumption) ?_ | exact fun _ _ h => h | intro _ | split | apply toCol_kept | apply egressDrop_kept | apply modCol_kept | apply getD_kept | refine kept_mk ?_ rfl)

theorem reroute_kept {s0 s : State} {a0} (h : Kept s0 s) : Kept s0 (reroute a0 s) := by
  unfold reroute
  with_reducible repeat' (first | assumption | refine kept_fst (by assumption) ?_ | exact fun _ _ h => h | refine foldl_wf (fun _ _ _ => ?_) ?_ | intro _ | split | apply pumpAll_kept | apply rerouteItem_kept | apply modCol_kept | apply foldl_kept | refine kept_mk ?_ rfl)

theorem routeWrite_kept {s0 s : State} {a0} {a1} (h : Kept s0 s) : Kept s0 (routeWrite a0 a1 s) := by
  unfold routeWrite
  with_reducible repeat' (first | assumption | refine kept_fst (by assumption) ?_ | exact fun _ _ h => h | intro _ | split | apply reroute_kept | refine kept_mk ?_ rfl)

theorem itestWrite_kept {s0 s : State} {a0} {a1} {a2} (h : Kept s0 s) : Kept s0 (itestWrite a0 a1 a2 s) := by
  unfold itestWrite
  with_reducible repeat' (first | assumption | refine kept_fst (by assumption) ?_ | exact fun _ _ h => h | intro _ | split | apply itestStart_kept | apply itestStop_kept | apply onBit_kept | refine kept_mk ?_ rfl)

theorem pmWrite_kept {s0 s : State} {a0} {a1} (h : Kept s0 s) : Kept s0 (pmWrite a0 a1 s) := by
  unfold pmWrite
  with_reducible repeat' (first | assumption | intro _ | split | apply retarget_kept | apply onBit_kept | apply elecStatBoClear_kept | refine kept_mk ?_ rfl)

theorem thermWrite_kept {s0 s : State} {a0} {a1} (h : Kept s0 s) : Kept s0 (thermWrite a0 a1 s) := by
  unfold thermWrite
  with_reducible repeat' (first | assumption | split | apply onBit_kept | apply tripClear_kept | apply warnUpdate_kept | refine kept_mk ?_ rfl)

theorem bringWrite_kept {s0 s : State} {a0} {a1} (h : Kept s0 s) : Kept s0 (bringWrite a0 a1 s) := by
  unfold bringWrite
  with_reducible repeat' (first | assumption | split | apply onBit_kept | apply rebring_kept | apply bringupDisClear_kept | apply compReset_kept | refine kept_mk ?_ rfl)

theorem diePageWrite_kept {s0 s : State} {a0} {a1} {a2} {a3} (h : Kept s0 s) : Kept s0 (diePageWrite a0 a1 a2 a3 s) := by
  unfold diePageWrite
  with_reducible repeat' (first | assumption | refine kept_fst (by assumption) ?_ | exact fun _ _ h => h | intro _ | split | apply seqPageWrite_kept | apply smallWrite_kept | apply routeWrite_kept | apply itestWrite_kept | apply pmWrite_kept | apply thermWrite_kept | apply bringWrite_kept | refine kept_mk ?_ rfl)

theorem noteFirst_kept {s0 s : State} {a0} {a1} (h : Kept s0 s) : Kept s0 (noteFirst a0 a1 s) := by
  unfold noteFirst
  with_reducible repeat' (first | assumption | split | refine kept_mk ?_ rfl)

theorem noteIgnored_kept {s0 s : State} {a0} {a1} (h : Kept s0 s) : Kept s0 (noteIgnored a0 a1 s) := by
  unfold noteIgnored
  with_reducible repeat' (first | assumption | apply noteFirst_kept | refine kept_mk ?_ rfl)

theorem noteRefused_kept {s0 s : State} {a0} (h : Kept s0 s) : Kept s0 (noteRefused a0 s) := by
  unfold noteRefused
  with_reducible repeat' (first | assumption | apply noteFirst_kept | refine kept_mk ?_ rfl)

theorem evtSettle_kept {s0 s : State} (h : Kept s0 s) : Kept s0 (evtSettle s) := by
  unfold evtSettle
  with_reducible repeat' (first | assumption | split | refine kept_mk ?_ rfl)

theorem regStore_kept {s0 s : State} {a0} {a1} {a2} (h : Kept s0 s) : Kept s0 (regStore a0 a1 a2 s) := by
  unfold regStore
  dsimp only
  with_reducible repeat' (first | assumption | split | apply noteIgnored_kept | apply evtSettle_kept | apply evtWrite_kept | apply diePageWrite_kept | apply colWrite_kept | apply ridgeWrite_kept | apply clusWrite_kept | apply routerWrite_kept | apply coreAWrite_kept | apply coreBWrite_kept)

theorem regLoad_kept {s0 s : State} {a0} {a1} {a2} (h : Kept s0 s) : Kept s0 (regLoad a0 a1 a2 s).1 := by
  unfold regLoad
  have k : Kept s0 (if a0 / 4096 = 0xC then itestSee a2 s else s) := by
    split
    · exact itestSee_kept h
    · exact h
  dsimp only
  split
  · exact noteIgnored_kept k
  · split
    · exact psRead_kept k
    · exact k

theorem regRequest_kept {s0 s : State} {a0} {a1} {a2} {a3} (h : Kept s0 s) : Kept s0 (regRequest a0 a1 a2 a3 s) := by
  unfold regRequest
  with_reducible repeat' (first | assumption | split | apply regStore_kept | apply noteRefused_kept)

theorem regReply_kept {s0 s : State} {a0} {a1} {a2} {a3} {a4} (h : Kept s0 s) : Kept s0 (regReply a0 a1 a2 a3 a4 s) := by
  unfold regReply
  with_reducible repeat' (first | assumption | refine kept_fst (by assumption) ?_ | exact fun _ _ h => h | intro _ | split | apply replyFrom_kept | refine kept_mk ?_ rfl)

theorem regAct_kept {s0 s : State} {a0} (h : Kept s0 s) : Kept s0 (regAct a0 s) := by
  unfold regAct
  split
  · exact regReply_kept h
  · dsimp only
    split
    · exact regReply_kept (regLoad_kept (ridgeDie_kept h))
    · exact regReply_kept (regRequest_kept (ridgeDie_kept h))
    · exact ridgeDie_kept h

theorem regDrain_kept {s0 s : State} {n : Nat} (h : Kept s0 s) : Kept s0 (regDrain n s) := by
  induction n generalizing s with
  | zero => exact h
  | succ n ih =>
    unfold regDrain
    split
    · exact h
    · split
      · exact h
      · refine ih (regAct_kept ?_)
        split
        · exact returnCredit_kept (modCol_kept h)
        · exact modCol_kept h

theorem portSettle_kept {s0 s : State} (h : Kept s0 s) : Kept s0 (portSettle s) := discPump_kept (regDrain_kept h)

theorem portAct_kept {s t : State} {f : State → State} (hf : ∀ {s0 s : State}, Kept s0 s → Kept s0 (f s)) (h : portAct s f = .next t) :
    Kept s t := by
  unfold portAct at h
  exact whenAwake_kept (fun h => portSettle_kept (hf h)) h

theorem regIn_kept {s0 s : State} {a0} (h : Kept s0 s) : Kept s0 (regIn a0 s) := by
  unfold regIn
  with_reducible repeat' (first | assumption | refine kept_fst (by assumption) ?_ | exact fun _ _ h => h | intro _ | split | apply regAct_kept | apply modCol_kept | refine kept_mk ?_ rfl)

theorem regReceive_kept {s0 s : State} {a0} (h : Kept s0 s) : Kept s0 (regReceive a0 s) := by
  unfold regReceive
  refine arrive_kept (fun {s0 s} h => ?_) h
  split
  · exact regIn_kept h
  · exact forward_kept h

theorem execRegRd_kept {s t : State} {a0} {a1} {a2} {a3} {a4} (h : execRegRd a0 a1 a2 a3 s a4 = .next t) : Kept s t := portAct_kept (fun h => regReceive_kept h) h

theorem execRegWr_kept {s t : State} {a0} {a1} {a2} {a3} {a4} (h : execRegWr a0 a1 a2 a3 a4 s = .next t) : Kept s t := portAct_kept (fun h => regReceive_kept h) h

theorem execCredit_kept {s t : State} {a0} {a1} {a2} (h : execCredit a0 a1 a2 s = .next t) : Kept s t := portAct_kept (fun h => linkReceive_kept (fun h => creditReceive_kept h) h) h

theorem execLinkDown_kept {s t : State} {a0} {a1} {a2} (h : execLinkDown a0 a1 a2 s = .next t) : Kept s t := portAct_kept (fun h => linkReceive_kept (fun h => linkDownReceive_kept h) h) h

theorem execFlitCrcFail_kept {s t : State} {a0} (h : execFlitCrcFail a0 s = .next t) : Kept s t := portAct_kept (fun h => flitCrcFail_kept h) h

theorem execPartnerLoss_kept {s t : State} {a0} (h : execPartnerLoss a0 s = .next t) : Kept s t := portAct_kept (fun h => partnerLoss_kept h) h

theorem execRetrain_kept {s t : State} {a0} (h : execRetrain a0 s = .next t) : Kept s t := portAct_kept (fun h => colRetrain_kept h) h

theorem execPortReset_kept {s t : State} {a0} (h : execPortReset a0 s = .next t) : Kept s t := portAct_kept (fun h => colReset_kept h) h

theorem execColDisable_kept {s t : State} {a0} (h : execColDisable a0 s = .next t) : Kept s t := portAct_kept (fun h => colDisable_kept h) h

theorem eventNotification_kept {s0 s : State} (h : Kept s0 s) : Kept s0 (eventNotification s) := by
  unfold eventNotification
  have k : Kept s0 { s with ident := { s.ident with any := evtAny s } } := kept_mk h rfl
  dsimp only
  split
  · split
    · next e => exact kept_mk (kept_fst e (sendTo_kept k)) rfl
    · next e => exact kept_fst e (sendTo_kept k)
  · exact k

theorem execEventNotification_kept {s t : State} (h : execEventNotification s = .next t) : Kept s t := by
  unfold execEventNotification at h
  refine whenAwake_kept (fun {s0 s} h => ?_) h
  with_reducible repeat' (first | assumption | apply eventNotification_kept)

end Sys2Proof.Machine
end

