-- ==== Sys2Proof/Laws/KeptPackageTest.lean ====
section
/-! SUPPORT. What the definitions of Machine/PackageTest.lean keep (Safety: Kept), one lemma each. -/
set_option linter.all false
namespace Sys2Proof.Machine

theorem tapAct_kept {s t : State} {a1 : Sys2Proof.Machine.State → Sys2Proof.Machine.State} (h1 : ∀ {s0 s : State} , Kept s0 s → Kept s0 (a1  s)) (h : tapAct s a1 = .next t) : Kept s t := by
  unfold tapAct at h
  injection h with h; subst h; have h := Kept.rfl' s
  with_reducible repeat' (first | assumption | refine h1  ?_ | split)

theorem tapSelect_kept {s0 s : State} {a0} (h : Kept s0 s) : Kept s0 (tapSelect a0 s) := by
  unfold tapSelect
  with_reducible repeat' (first | assumption | refine kept_fst (by assumption) ?_ | exact fun _ _ h => h | refine foldl_wf (fun _ _ _ => ?_) ?_ | intro _ | split | apply enterDown_kept | apply portSettle_kept | apply foldl_kept | refine kept_mk ?_ rfl)

theorem boundarySee_kept {s0 s : State} {a0} {a1} (h : Kept s0 s) : Kept s0 (boundarySee a0 a1 s) := by
  unfold boundarySee
  with_reducible repeat' (first | assumption | refine kept_fst (by assumption) ?_ | exact fun _ _ h => h | intro _ | split | refine kept_mk ?_ rfl)

theorem boundaryLoad_kept {s0 s : State} {a0} (h : Kept s0 s) : Kept s0 (boundaryLoad a0 s) := by
  unfold boundaryLoad
  with_reducible repeat' (first | assumption | refine kept_fst (by assumption) ?_ | exact fun _ _ h => h | intro _ | split | refine kept_mk ?_ rfl)

theorem execTrstN_kept {s t : State} (h : execTrstN s = .next t) : Kept s t := by
  unfold execTrstN at h
  refine tapAct_kept (fun {s0 s} h => ?_) h
  with_reducible repeat' (first | assumption | refine kept_mk ?_ rfl)

theorem execExtest_kept {s t : State} {a0} (h : execExtest a0 s = .next t) : Kept s t := by
  unfold execExtest at h
  injection h with h; subst h
  have h := Kept.rfl' s
  with_reducible repeat' (first | assumption | refine kept_fst (by assumption) ?_ | exact fun _ _ h => h | intro _ | split | apply tapSelect_kept | apply boundarySee_kept | apply boundaryLoad_kept | refine kept_mk ?_ rfl)

theorem execSamplePreload_kept {s t : State} {a0} (h : execSamplePreload a0 s = .next t) : Kept s t := by
  unfold execSamplePreload at h
  injection h with h; subst h
  have h := Kept.rfl' s
  with_reducible repeat' (first | assumption | refine kept_fst (by assumption) ?_ | exact fun _ _ h => h | intro _ | split | apply tapSelect_kept | apply boundarySee_kept | apply boundaryLoad_kept | refine kept_mk ?_ rfl)

theorem execIdcode_kept {s t : State} (h : execIdcode s = .next t) : Kept s t := by
  unfold execIdcode at h
  injection h with h; subst h
  have h := Kept.rfl' s
  with_reducible repeat' (first | assumption | refine kept_fst (by assumption) ?_ | exact fun _ _ h => h | intro _ | split | apply tapSelect_kept | refine kept_mk ?_ rfl)

theorem execClamp_kept {s t : State} (h : execClamp s = .next t) : Kept s t := by
  unfold execClamp at h
  injection h with h; subst h
  have h := Kept.rfl' s
  with_reducible repeat' (first | assumption | refine kept_fst (by assumption) ?_ | exact fun _ _ h => h | intro _ | split | apply tapSelect_kept | refine kept_mk ?_ rfl)

theorem execHighz_kept {s t : State} (h : execHighz s = .next t) : Kept s t := by
  unfold execHighz at h
  injection h with h; subst h
  have h := Kept.rfl' s
  with_reducible repeat' (first | assumption | refine kept_fst (by assumption) ?_ | exact fun _ _ h => h | intro _ | split | apply tapSelect_kept | refine kept_mk ?_ rfl)

theorem wrapperScan_kept {s0 s : State} {a0} (h : Kept s0 s) : Kept s0 (wrapperScan a0 s) := by
  unfold wrapperScan
  with_reducible repeat' (first | assumption | refine kept_fst (by assumption) ?_ | exact fun _ _ h => h | intro _ | split | refine kept_mk ?_ rfl)

theorem execWrapper_kept {s t : State} {a0} (h : execWrapper s a0 = .next t) : Kept s t := by
  unfold execWrapper at h
  injection h with h; subst h
  have h := Kept.rfl' s
  with_reducible repeat' (first | assumption | refine kept_fst (by assumption) ?_ | exact fun _ _ h => h | intro _ | split | apply tapSelect_kept | apply wrapperScan_kept | refine kept_mk ?_ rfl)

theorem execBypass_kept {s t : State} {a0} (h : execBypass s a0 = .next t) : Kept s t := by
  unfold execBypass at h
  injection h with h; subst h
  have h := Kept.rfl' s
  with_reducible repeat' (first | assumption | refine kept_fst (by assumption) ?_ | exact fun _ _ h => h | intro _ | split | apply tapSelect_kept | refine kept_mk ?_ rfl)

theorem debugRefuse_kept {s0 s : State} (h : Kept s0 s) : Kept s0 (debugRefuse s) := by
  unfold debugRefuse
  with_reducible repeat' (first | assumption | refine kept_mk ?_ rfl)

theorem bridgeTake_kept {s0 s : State} {a0} (h : Kept s0 s) : Kept s0 (bridgeTake a0 s) := by
  unfold bridgeTake
  with_reducible repeat' (first | assumption | refine kept_mk ?_ rfl)

theorem bistAccess_kept {s0 s : State} {a0} {a1 : State → State} (h1 : ∀ {s0 s : State} , Kept s0 s → Kept s0 (a1  s)) (h : Kept s0 s) : Kept s0 (bistAccess a0 a1 s) := by
  unfold bistAccess
  with_reducible repeat' (first | assumption | refine kept_fst (by assumption) ?_ | exact fun _ _ h => h | refine h1  ?_ | intro _ | split | refine kept_mk ?_ rfl)

theorem ijtagAccess_kept {s0 s : State} {a0} (h : Kept s0 s) : Kept s0 (ijtagAccess a0 s) := by
  unfold ijtagAccess
  split
  · exact bistAccess_kept (fun h => h) h
  · refine bistAccess_kept (fun h => ?_) h
    split
    · exact bridgeTake_kept (debugRefuse_kept h)
    · exact bridgeTake_kept h
  · exact bridgeTake_kept h
  · split
    · exact itestWrite_kept h
    · exact h

theorem execIjtag_kept {s t : State} {a0} (h : execIjtag a0 s = .next t) : Kept s t := by
  unfold execIjtag at h
  injection h with h; subst h
  have h := Kept.rfl' s
  with_reducible repeat' (first | assumption | refine kept_fst (by assumption) ?_ | exact fun _ _ h => h | intro _ | split | apply tapSelect_kept | apply ijtagAccess_kept | refine kept_mk ?_ rfl)

theorem bridgeRead_kept {s0 s : State} {a0} {a1} {a2} (h : Kept s0 s) : Kept s0 (bridgeRead a0 a1 a2 s) := by
  unfold bridgeRead
  with_reducible repeat' (first | assumption | refine kept_fst (by assumption) ?_ | exact fun _ _ h => h | intro _ | split | apply psAdvance_kept | apply regLoad_kept | apply debugRefuse_kept | apply bridgeTake_kept | refine kept_mk ?_ rfl)

theorem bridgeLedge_kept {s0 s : State} {a0} {a1} {a2} {a3} (h : Kept s0 s) : Kept s0 (bridgeLedge a0 a1 a2 a3 s) := by
  unfold bridgeLedge
  try dsimp only
  repeat' (first | with_reducible assumption | with_reducible refine kept_fst (by assumption) ?_ | with_reducible exact fun _ _ h => h | with_reducible exact fun _ h => h | with_reducible apply ledgeReadShape_wf | with_reducible refine foldl_wf (fun _ _ _ => ?_) ?_ | with_reducible exact State.Canon.ledge (Kept.canon h (by with_reducible assumption)) _ | intro _ | split | with_reducible apply modLedge_kept | with_reducible apply debugRefuse_kept | with_reducible apply bridgeTake_kept | with_reducible apply foldl_kept | with_reducible apply getD_kept | with_reducible refine kept_mk ?_ rfl | exact (rfl : Core.ledge (id _) = _) | (show CoreLim (id _); assumption) | with_reducible refine kept_words ?_ (smWf_smSet _ _ _) | with_reducible refine kept_words ?_ (smWf_filter _) | with_reducible refine kept_words ?_ (fun _ => rfl) | with_reducible refine kept_evts ?_ rfl (smWf_smSet _ _ _))

theorem bridgeAccess_kept {s0 s : State} {a0} (h : Kept s0 s) : Kept s0 (bridgeAccess a0 s) := by
  unfold bridgeAccess
  with_reducible repeat' (first | assumption | refine kept_fst (by assumption) ?_ | exact fun _ _ h => h | intro _ | split | apply regStore_kept | apply bridgeRead_kept | apply bridgeLedge_kept | refine kept_mk ?_ rfl)

theorem execRegisterBridgeAccess_kept {s t : State} {a0} (h : execRegisterBridgeAccess a0 s = .next t) : Kept s t := by
  unfold execRegisterBridgeAccess at h
  injection h with h; subst h
  have h := Kept.rfl' s
  with_reducible repeat' (first | assumption | refine kept_fst (by assumption) ?_ | exact fun _ _ h => h | intro _ | split | apply portSettle_kept | apply tapSelect_kept | apply bridgeAccess_kept | refine kept_mk ?_ rfl)

end Sys2Proof.Machine
end

