-- ==== Sys2Proof/Laws/KeptSlots.lean ====
section
/-! SUPPORT. What the definitions of Machine/Slots.lean keep (Safety: Kept), one lemma each. -/
set_option linter.all false
namespace Sys2Proof.Machine

theorem execMcfg_kept {s t : State} {a0} {a1} (h : execMcfg a0 a1 s = .next t) : Kept s t := by
  unfold execMcfg at h
  exact mxeAlone_kept h

theorem execMalat_kept {s t : State} {a0} {a1} (h : execMalat a0 a1 s = .next t) : Kept s t := by
  unfold execMalat at h
  exact mxeAlone_kept h

theorem execMwsp_kept {s t : State} {a0} {a1} (h : execMwsp a0 a1 s = .next t) : Kept s t := by
  unfold execMwsp at h
  exact mxeAlone_kept h

theorem execMtld_kept {s t : State} {a0} {a1} (h : execMtld a0 a1 s = .next t) : Kept s t := by
  unfold execMtld at h
  exact mxeAlone_kept h

theorem execMtp_kept {s t : State} {a0} {a1} (h : execMtp a0 a1 s = .next t) : Kept s t := by
  unfold execMtp at h
  exact mxeAlone_kept h

theorem execMclr_kept {s t : State} {a0} (h : execMclr a0 s = .next t) : Kept s t := by
  unfold execMclr at h
  exact mxeAlone_kept h

theorem execVld_kept {s t : State} {a0} {a1} (h : execVld a0 a1 s = .next t) : Kept s t := by
  unfold execVld at h
  exact vxeAlone_kept h

theorem execVst_kept {s t : State} {a0} {a1} (h : execVst a0 a1 s = .next t) : Kept s t := by
  unfold execVst at h
  exact vxeAlone_kept h

theorem execVldl_kept {s t : State} {a0} {a1} (h : execVldl a0 a1 s = .next t) : Kept s t := by
  unfold execVldl at h
  exact vxeAlone_kept h

theorem execVstl_kept {s t : State} {a0} {a1} (h : execVstl a0 a1 s = .next t) : Kept s t := by
  unfold execVstl at h
  exact vxeAlone_kept h

theorem execVadd_kept {s t : State} {a0} {a1} (h : execVadd a0 a1 s = .next t) : Kept s t := by
  unfold execVadd at h
  exact vxeAlone_kept h

theorem execVsub_kept {s t : State} {a0} {a1} (h : execVsub a0 a1 s = .next t) : Kept s t := by
  unfold execVsub at h
  exact vxeAlone_kept h

theorem execVmul_kept {s t : State} {a0} {a1} (h : execVmul a0 a1 s = .next t) : Kept s t := by
  unfold execVmul at h
  exact vxeAlone_kept h

theorem execVfma_kept {s t : State} {a0} {a1} (h : execVfma a0 a1 s = .next t) : Kept s t := by
  unfold execVfma at h
  exact vxeAlone_kept h

theorem execVmax_kept {s t : State} {a0} {a1} (h : execVmax a0 a1 s = .next t) : Kept s t := by
  unfold execVmax at h
  exact vxeAlone_kept h

theorem execVmin_kept {s t : State} {a0} {a1} (h : execVmin a0 a1 s = .next t) : Kept s t := by
  unfold execVmin at h
  exact vxeAlone_kept h

theorem execVexp_kept {s t : State} {a0} {a1} (h : execVexp a0 a1 s = .next t) : Kept s t := by
  unfold execVexp at h
  exact vxeAlone_kept h

theorem execVrcp_kept {s t : State} {a0} {a1} (h : execVrcp a0 a1 s = .next t) : Kept s t := by
  unfold execVrcp at h
  exact vxeAlone_kept h

theorem execVrsqrt_kept {s t : State} {a0} {a1} (h : execVrsqrt a0 a1 s = .next t) : Kept s t := by
  unfold execVrsqrt at h
  exact vxeAlone_kept h

theorem execVred_kept {s t : State} {a0} {a1} (h : execVred a0 a1 s = .next t) : Kept s t := by
  unfold execVred at h
  exact vxeAlone_kept h

theorem execVrot_kept {s t : State} {a0} {a1} (h : execVrot a0 a1 s = .next t) : Kept s t := by
  unfold execVrot at h
  exact vxeAlone_kept h

theorem execVcmp_kept {s t : State} {a0} {a1} (h : execVcmp a0 a1 s = .next t) : Kept s t := by
  unfold execVcmp at h
  exact vxeAlone_kept h

theorem execVcvt_kept {s t : State} {a0} {a1} (h : execVcvt a0 a1 s = .next t) : Kept s t := by
  unfold execVcvt at h
  exact vxeAlone_kept h

theorem execVbcast_kept {s t : State} {a0} {a1} (h : execVbcast a0 a1 s = .next t) : Kept s t := by
  unfold execVbcast at h
  exact vxeAlone_kept h

theorem execVtoof_kept {s t : State} {a0} {a1} (h : execVtoof a0 a1 s = .next t) : Kept s t := by
  unfold execVtoof at h
  exact vxeAlone_kept h

theorem execOcfg_kept {s t : State} {a0} {a1} (h : execOcfg a0 a1 s = .next t) : Kept s t := by
  unfold execOcfg at h
  exact ostAlone_kept h

theorem execOcvt_kept {s t : State} {a0} {a1} (h : execOcvt a0 a1 s = .next t) : Kept s t := by
  unfold execOcvt at h
  exact ostAlone_kept h

theorem execTxgo_kept {s t : State} {a0} {a1} {a2} (h : execTxgo a0 a1 a2 s = .next t) : Kept s t := by
  unfold execTxgo at h
  exact txAlone_kept h

theorem execTxcancel_kept {s t : State} {a0} {a1} {a2} (h : execTxcancel a0 a1 a2 s = .next t) : Kept s t := by
  unfold execTxcancel at h
  exact txAlone_kept h

theorem execTxput_kept {s t : State} {a0} {a1} {a2} (h : execTxput a0 a1 a2 s = .next t) : Kept s t := by
  unfold execTxput at h
  exact txAlone_kept h

theorem execCwait_kept {s t : State} {a0} {a1} (h : execCwait a0 a1 s = .next t) : Kept s t := by
  unfold execCwait at h
  exact synAlone_kept h

theorem execCsig_kept {s t : State} {a0} {a1} (h : execCsig a0 a1 s = .next t) : Kept s t := by
  unfold execCsig at h
  exact synAlone_kept h

theorem execCwin_kept {s t : State} {a0} {a1} (h : execCwin a0 a1 s = .next t) : Kept s t := by
  unfold execCwin at h
  exact synAlone_kept h

theorem execSarr_kept {s t : State} {a0} {a1} (h : execSarr a0 a1 s = .next t) : Kept s t := by
  unfold execSarr at h
  exact synAlone_kept h

theorem execSwait_kept {s t : State} {a0} {a1} (h : execSwait a0 a1 s = .next t) : Kept s t := by
  unfold execSwait at h
  exact synAlone_kept h

theorem execEopen_kept {s t : State} {a0} (h : execEopen a0 s = .next t) : Kept s t := by
  unfold execEopen at h
  exact synAlone_kept h

theorem execEcommit_kept {s t : State} {a0} (h : execEcommit a0 s = .next t) : Kept s t := by
  unfold execEcommit at h
  exact synAlone_kept h

theorem execEdiscard_kept {s t : State} {a0} (h : execEdiscard a0 s = .next t) : Kept s t := by
  unfold execEdiscard at h
  exact synAlone_kept h

theorem execPsel_kept {s t : State} {a0} {a1} (h : execPsel a0 a1 s = .next t) : Kept s t := by
  unfold execPsel at h
  exact extAlone_kept h

theorem execXimm_kept {s t : State} {a0} {a1} (h : execXimm a0 a1 s = .next t) : Kept s t := by
  unfold execXimm at h
  exact extAlone_kept h

theorem execPximm_kept {s t : State} {a0} {a1} (h : execPximm a0 a1 s = .next t) : Kept s t := by
  unfold execPximm at h
  exact extAlone_kept h

theorem execOfadd_kept {s t : State} {a0} {a1} (h : execOfadd a0 a1 s = .next t) : Kept s t := by
  unfold execOfadd at h
  exact extAlone_kept h

theorem execOfidx_kept {s t : State} {a0} {a1} (h : execOfidx a0 a1 s = .next t) : Kept s t := by
  unfold execOfidx at h
  exact extAlone_kept h

theorem execOfset_kept {s t : State} {a0} {a1} (h : execOfset a0 a1 s = .next t) : Kept s t := by
  unfold execOfset at h
  exact extAlone_kept h

theorem execPset_kept {s t : State} {a0} {a1} (h : execPset a0 a1 s = .next t) : Kept s t := by
  unfold execPset at h
  exact extAlone_kept h

theorem execPseti_kept {s t : State} {a0} {a1} (h : execPseti a0 a1 s = .next t) : Kept s t := by
  unfold execPseti at h
  exact extAlone_kept h

theorem execPlog_kept {s t : State} {a0} {a1} (h : execPlog a0 a1 s = .next t) : Kept s t := by
  unfold execPlog at h
  exact extAlone_kept h

end Sys2Proof.Machine
end

