-- ==== Sys2Proof/Laws/Slots.lean ====
section
/-! SUPPORT. The form of a step, and what starts an operation of a slot: the core acts, the unit is free, and with nothing gated the
effects leave the gate at once. -/
namespace Sys2Proof.Machine

theorem step_cons {s : State} {c : Instr} {l : List Instr} (h : s.pending = c :: l) : step s = exec c { s with pending := l } := by
  unfold step; rw [h]
theorem step_nil {s : State} (h : s.pending = []) : step s = .next (tick s) := by unfold step; rw [h]

/-- A halt under HALT_CORE leaves the core's reruns as they are. -/
@[simp] theorem trapStop_rerun (c : CoreId) (s : State) : (getCore (trapStop c s) c).err.rerun = (getCore s c).err.rerun := by
  unfold trapStop; split
  · simp [modIssue]
  · rfl
@[simp] theorem trapRaised_rerun (c : CoreId) (k : Core) (s : State) : (getCore (trapRaised c k s) c).err.rerun = (getCore s c).err.rerun := by
  unfold trapRaised; split
  · rfl
  · exact trapStop_rerun c s
/-- A halt comes only where the trap record has become valid. -/
theorem trapRaised_same {c : CoreId} {k : Core} {s : State} (h : (getCore s c).trap.valid = k.trap.valid) : trapRaised c k s = s := by
  unfold trapRaised; split
  · rfl
  · next n => simp [trapStop, h, n]

/-- An operation of a slot whose core acts and whose unit is free runs, and a trap that it raises may halt the core; if its read failed, the
core shows that a rerun waits. -/
theorem slotAct_acts {p : SlotAt} {s : State} (h : CoreActs s p.core) {free : Core → Bool} (hf : free (getCore s p.core) = true)
    (f : Env → Latched → State → State) : slotAct p free f s =
      (let t := trapRaised p.core (getCore s p.core) (f (slotEnv s p) (latchOf (getCore s p.core).issue p.addr) s)
       if rerunning t p.core then showRerun p.core t else t) := by
  simp [slotAct, h.on, h.goes, hf, rerunning, h.clear]
/-- An operation that leaves nothing to rerun: its effect, and the halt of a trap that it raises, are all that the slot does. -/
theorem slotAct_clean {p : SlotAt} {s : State} (h : CoreActs s p.core) {free : Core → Bool} (hf : free (getCore s p.core) = true)
    (f : Env → Latched → State → State)
    (hc : (getCore (f (slotEnv s p) (latchOf (getCore s p.core).issue p.addr) s) p.core).err.rerun = []) :
    slotAct p free f s = trapRaised p.core (getCore s p.core) (f (slotEnv s p) (latchOf (getCore s p.core).issue p.addr) s) := by
  rw [slotAct_acts h hf]; simp [rerunning, hc]

/-- Counting events leaves every core as it is. -/
@[simp] theorem getCore_countAt (c : CoreId) (pt code cls : Nat) (m : Option Massif) (n : Nat) (s : State) :
    getCore (countAt pt code cls m n s) c = getCore s c := by unfold countAt; split <;> rfl
@[simp] theorem getCore_countCore (c d : CoreId) (code n : Nat) (s : State) : getCore (countCore d code n s) c = getCore s c :=
  getCore_countAt c _ _ _ _ _ s
@[simp] theorem getCore_slotCount (c d : CoreId) (n : Nat × Nat) (s : State) : getCore (slotCount d n s) c = getCore s c := by
  simp [slotCount]
@[simp] theorem countCore_zero (c : CoreId) (code : Nat) (s : State) : countCore c code 0 s = s := by simp [countCore, countAt]
@[simp] theorem slotCount_zero (c : CoreId) (s : State) : slotCount c (0, 0) s = s := by simp [slotCount]

/-- Nothing gated: the gate does nothing. -/
theorem gateRun_empty {c : CoreId} {s : State} (h : (getCore s c).err.gate = []) : gateRun c s = s := by simp [gateRun, h, gateOpen]

/-- A change of one core leaves every other and all else. -/
theorem onlyCore_modCore (c : CoreId) (f : Core → Core) (s : State) : OnlyCore c s (modCore c f s) :=
  ⟨fun _ h => getCore_modCore_ne f s h, rfl⟩
theorem onlyCore_refl (c : CoreId) (s : State) : OnlyCore c s s := ⟨fun _ _ => rfl, rfl⟩
theorem OnlyCore.trans {c : CoreId} {s t u : State} (h : OnlyCore c s t) (h' : OnlyCore c t u) : OnlyCore c s u :=
  ⟨fun d hd => (h'.others d hd).trans (h.others d hd), by rw [h'.rest, h.rest]⟩

end Sys2Proof.Machine
end

