-- ==== Sys2Proof/Tests/Slice0.lean ====
section
/-! SUPPORT. Tests of one step each, with results taken from the spec's own examples, and, for the hypotheses of every statement,
states and operands that meet them together. -/
namespace Sys2Proof.Tests
open Sys2Proof Sys2Proof.Machine
-- The tests are checked one after another: as many threads as tests, each waiting for the kernel, would take too much memory.
set_option Elab.async false

/-! ## Small states -/

/-- Two cores of physical cluster 0. -/
def c0 : CoreId := ⟨0, 0⟩
def c1 : CoreId := ⟨0, 1⟩
/-- A core out of reset that runs, its characterised ceiling 1000 MHz at every voltage. -/
def coreOn : Core := { Core.reset with
  presence := .on, issue := { IssueSt.reset with halted := false, charCeil := Vector.replicate 4 1000 } }
/-- Cluster 0, logical cluster 0 with two active cores. -/
def clusOn : Cluster := { Cluster.reset with
  repair := { Cluster.reset.repair with powered := true, lclus := 0, state := .active, goodCores := 2, active := 3 } }
/-- A col that is UP with credits, and one in training. -/
def colUp0 : ColSt := { ColSt.reset with state := .up, linkUp := true, advertised := true, credits := Vector.replicate 6 4096 }
def colTrains : ColSt := { ColSt.reset with state := .training }
/-- Every endpoint is reached on col 0. -/
def routes0 : Vector RouteEntry 12 := Vector.replicate 12 ⟨0, 1, 1, 0, true⟩
/-- A READY die 1 of its module: massif 0 is ACTIVE over cluster 0, its sequencer runs, and col 0 is UP. -/
def die : State := { State.reset with
  cores := [(0, coreOn), (1, coreOn)]
  clusters := [(0, clusOn)]
  seqs := State.reset.seqs.set 0 ⟨{ SeqSt.reset with state := .running, base := 0, size := 1, loadCount := 4 },
    { MassifSt.reset with state := .active, members := 1, mask := 1, jobTag := 7 }⟩
  tb := { TimeSt.reset with locked := true, count := 100000 }
  disc := { DiscSt.reset false with id := 1, idValid := true, done := true, assigned := true, clockCol := some 0, routes := routes0 }
  bring := { BringSt.reset with step := 0xA, active := 1, lmap := BringSt.reset.lmap.set 0 0 }
  ridge := { RidgeSt.reset with en := BitVec.allOnes 42, routed := true }
  cols := State.reset.cols.set 0 colUp0 }
/-- Core 0 of it changed, its cluster, its sequencer, its massif, its col 0. -/
def withCore (f : Core → Core) : State := modCore c0 f die
def withClus (f : Cluster → Cluster) : State := modClus 0 f die
def withSeq (f : SeqSt → SeqSt) : State := modSeq 0 f die
def withMassif (f : MassifSt → MassifSt) : State := modMassif 0 f die
def withCol (f : ColSt → ColSt) : State := modCol 0 f die
/-- A slot operation of core 0. -/
def at0 : SlotAt := ⟨c0, 0, []⟩

/-! ## Hypotheses that are met: cores -/

/-- Core 0 acts, with every engine free, nothing gated and every slot guarded on: what ExtensionSlotOperations, VectorArithmetic and
the other statements about slots ask; its die is awake, as ClearsClear and most others ask. -/
theorem witness_core : CoreActs die c0 ∧ massifOf die c0 = some 0 ∧ effective die c0 = 1000 ∧ (getCore die c0).vxe.run = none ∧
    (getCore die c0).mxe.run = none ∧ (getCore die c0).ost.run = none ∧ (getCore die c0).err.gate = [] ∧
    (getCore die c0).err.spans = [] ∧ ∀ k : Fin 6, (getCore die c0).issue.guards.getLsbD k = true :=
  ⟨⟨by decide, by decide, by decide, by decide⟩, by decide, by decide, by decide, by decide, by decide, by decide, by decide, by decide⟩
theorem witness_StepRunsTheFrontCommand : ({ die with pending := [.wave, .go] } : State).pending = .wave :: [.go] := rfl
/-- The die in power-on reset. -/
def dieHeld : State := { die with pins := { die.pins with porst := true } }
theorem witness_EmptyQueueTicks : die.pending = [] ∧ awake die = true ∧ dieHeld.pending = [] ∧ awake dieHeld = false := by decide
theorem witness_SleepingDieStands : awake dieHeld = false ∧ actsAsleep .wave = false := by decide
theorem witness_StepKeepsCanonicalForm : die.Canon := by constructor <;> decide
theorem witness_StepKeepsCoreLimits : die.Limits := by
  have h : ∀ (p : PClus) (q : PCore), CoreLim (getCore die ⟨p, q⟩) := by decide +kernel
  exact ⟨fun c => h c.clus c.core⟩
/-- Operations of every slot, at the ends of their ranges. -/
theorem witness_SlotWordsRoundTrip :
    SeqOp.wf 0 (.loop ⟨3, false, 0xFFF, 1⟩) = true ∧ MxeOp.wf (.malat ⟨15, 0, true, 31, 127⟩) = true ∧
    VxeOp.wf (.vldl ⟨12, 31, 511, true⟩) = true ∧ OstOp.wf (.ocvt ⟨3, 15, 16, false, 31, 127, true⟩) = true ∧
    TxOp.wf (.txput ⟨31, 30, 15, 63, true, 2⟩) = true ∧ SynOp.wf 0 (.cwait ⟨63, 1, true⟩) = true ∧
    ExtOp.wf (.ofidx ⟨31, 30, 11, 15, 255⟩) = true := by decide
/-- VCVT's forms, and flags 0 and 7 as destinations. -/
theorem witness_VectorMoves : (⟨0, 1, 2, 0, false, 0⟩ : VarithArgs).sub = 0 ∧ (⟨0, 1, 0, 0, false, 2⟩ : VarithArgs).sub ≠ 0 := by decide
/-- A VRED, and a VEXP that is predicated off, between their beats. -/
def coreMid (op : VxeOp) (off : Bool) : Core := { coreOn with vxe := { coreOn.vxe with run := some (⟨0, 0, 1, off⟩, ⟨op, []⟩) } }
theorem witness_TwoBeatVectorOperations :
    (coreMid (.vred ⟨0, 1, 0, 0, true, 1⟩) false).vxe.run = some (⟨0, 0, 1, false⟩, ⟨.vred ⟨0, 1, 0, 0, true, 1⟩, []⟩) ∧
    (coreMid (.vexp ⟨0, 1, 0, 0, true, 0⟩) true).vxe.run = some (⟨0, 0, 1, true⟩, ⟨.vexp ⟨0, 1, 0, 0, true, 0⟩, []⟩) := by decide
/-- A slot operation of core 0 whose reads of line 0 fail in word 1. -/
def atBad : SlotAt := ⟨c0, 0, [2, 1, 3, 4, 5].map (fun q => ⟨⟨q, 0, 1, 1⟩, false⟩)⟩
/-- OF1 of core 0 beyond the ledge. -/
def dieFar : State := withCore (fun k => { k with issue := { k.issue with ofs := k.issue.ofs.set 1 393216 } })
theorem witness_VectorMemoryOperations :
    ReadsClean (slotEnv die at0) 2 0 1024 (getCore die c0).ledge ∧ ¬ReadsClean (slotEnv die atBad) 2 0 256 (getCore die c0).ledge ∧
    latRef (latchOf (getCore dieFar c0).issue 0) 2 (1 : BitVec 5) (0 : BitVec 9) 256 = 393216 ∧
    ledgeClass (dieLines die) (getCore die c0).ledge 393215 = 0 ∧ ledgeClass (dieLines dieFar) (getCore dieFar c0).ledge 393216 ≠ 0 := by
  unfold ReadsClean; decide
/-- Set 0 of core 0 asks for BF16 weights and activations (MXE), and for BF16 rows of accumulator cells with a pitch of 64 (OST). -/
def dieCfg : State := withCore (fun k => { k with
  mxe := { k.mxe with cfg := [(0, 2), (1, 2)], shadow := [(5, 7)], shadowValid := true }, ost := { k.ost with cfg := [(0, 0x23), (4, 1)] } })
theorem witness_MatrixConfigurationAndLoads :
    ReadsClean (slotEnv die at0) 1 0 1024 (getCore die c0).ledge ∧ (⟨0, 0, true, 0, 0⟩ : MalatArgs).n1 = 0 ∧
    (⟨15, 0, true, 0, 0⟩ : MalatArgs).n1 ≠ 0 ∧ (⟨1, 0, 0⟩ : MtldArgs).wcls = 1 ∧ (⟨0, 0, 0⟩ : MtldArgs).wcls ≠ 1 := by
  unfold ReadsClean; decide
/-- The second beat of a MALAT of two lines, and of an MTLD of two lines. -/
def coreLoad (r : MxeRun) : Core := { coreOn with mxe := { coreOn.mxe with run := some (⟨0, 0, 1, false⟩, r), wHeld := [(3, 9)] } }
theorem witness_MatrixLastBeat : (⟨0, 0, 1, false⟩ : Progress).step + 1 = 2 ∧ (coreLoad (.malat 2 14 0)).mxe.hits = [] ∧
    ReadsClean (slotEnv die at0) 1 (offAdd 0 1024) 1024 (coreLoad (.malat 2 14 0)).ledge ∧
    (coreLoad (.mtld 2 0)).mxe.run = some (⟨0, 0, 1, false⟩, .mtld 2 0) := by
  unfold ReadsClean; decide
/-- Set 0 passes the check of R160 and set 1, all zero, does not. -/
theorem witness_MatrixPassesIssue :
    mxeCheck (featMx6 dieCfg) (mwspPass (getCore dieCfg c0).issue.ofs (getCore dieCfg c0).mxe ⟨0, 1, 0, true, false, true, 1, 0, 0⟩ 0) = 0 ∧
    mxeCheck (featMx6 dieCfg) (mwspPass (getCore dieCfg c0).issue.ofs (getCore dieCfg c0).mxe ⟨1, 1, 0, true, false, true, 1, 0, 0⟩ 0) ≠ 0 ∧
    mxeCheck (featMx6 dieCfg) (mtpPass (getCore dieCfg c0).issue.ofs (getCore dieCfg c0).mxe ⟨0, 1, 0, true, false, 3, 1, 0⟩) = 0 ∧
    mxeCheck (featMx6 dieCfg) (mtpPass (getCore dieCfg c0).issue.ofs (getCore dieCfg c0).mxe ⟨1, 1, 0, true, false, 3, 1, 0⟩) ≠ 0 := by
  decide +kernel
theorem witness_OutputConversion : ReadsClean (slotEnv die at0) 3 0 1024 (getCore die c0).ledge ∧
    ostCheck (featMx6 dieCfg) false 2 (ostLatch (getCore dieCfg c0).ost 0) = 0 ∧
    ostCheck (featMx6 dieCfg) false 1 (ostLatch (getCore dieCfg c0).ost 1) ≠ 0 := by
  unfold ReadsClean; decide +kernel
/-- Stream 1 of core 0 runs, and stream 5 has faulted; both engines have room. -/
def dieTx : State := modStream c0 5 (fun q => { q with st := .faulted }) (modStream c0 1 (fun q => { q with st := .run }) die)
theorem witness_TransferListsStartAndCancel :
    (getStream dieTx c0 (streamOf false 0)).st = .idle ∧ (getStream dieTx c0 (streamOf false 1)).st = .run ∧
    (getStream dieTx c0 (streamOf true 1)).st = .faulted ∧ (getCore dieTx c0).xfer.decodeA = 0 ∧ (getCore dieTx c0).xfer.decodeB = 0 ∧
    ReadsClean (slotEnv dieTx at0) (txReq false) 0 1024 (getCore dieTx c0).ledge ∧
    ¬ReadsClean (slotEnv dieTx atBad) (txReq true) 0 1024 (getCore dieTx c0).ledge := by
  unfold ReadsClean; decide
/-- OF1 of core 0 names core 1; `open_` puts core 0 into epoch 0. -/
def diePut (open_ : Bool) : State := withCore (fun k => { k with
  issue := { k.issue with ofs := k.issue.ofs.set 1 0x100000000 }
  epoch := if open_ then { k.epoch with stack := [0], next := 1 } else k.epoch })
theorem witness_TransferPut :
    (getCore (diePut false) c0).epoch.stack = [] ∧ hasReleased (diePut false) c0 = false ∧ ownDie die (15 : BitVec 4).toNat = true ∧
    physCore die 0 1 = some c1 ∧ (putWrite (latchOf (getCore (diePut false) c0).issue 0) ⟨0, 1, 15, 3, true, 2⟩).lcore = 1 ∧
    ReadsClean (slotEnv die at0) (txReq true) 0 1024 (getCore die c0).ledge ∧
    (getCore (diePut true) c0).epoch.stack = [0] ∧ smGet .opened (getCore (diePut true) c0).epoch.fate 0 = .opened ∧
    putHeld (diePut true) c0 (putWrite (latchOf (getCore (diePut true) c0).issue 0) ⟨0, 1, 15, 3, true, 2⟩) = some 16 ∧
    storeFits (getClus die 0) 1 16 = true ∧ storeTurn (getClus die 0) (.put 0) = true := by
  unfold ReadsClean; decide
/-- Cairn 63 of core 0 holds 5. -/
def dieCairn : State := withCore (fun k => { k with cairn := { k.cairn with counts := [(63, 5)] } })
theorem witness_CairnOperations : (synCount (latchOf (getCore dieCairn c0).issue 0) 5).toNat ≤ smGet 0 (getCore dieCairn c0).cairn.counts 63 ∧
    smGet 0 (getCore dieCairn c0).cairn.counts 63 < (synCount (latchOf (getCore dieCairn c0).issue 0) 6).toNat := by decide
/-- Context 1 is a CLUSTER summit, 2 a MASSIF summit and 3 a TREE summit at the root; the others are disabled. -/
def withCtx (s : State) : State := modSummit 0 (fun k => { k with ctxs := ((k.ctxs.set 1 1).set 2 2).set 3 3 }) s
/-- Core 0 has been released at context 2. -/
def dieSummit : State := withCtx (withCore (fun k => { k with cairn := { k.cairn with released := 4 } }))
theorem witness_SummitOperations : ctxDisabled dieSummit c0 0 = true ∧ ctxDisabled dieSummit c0 1 = false ∧
    arrivalFree dieSummit c0 1 = true ∧ (getCore dieSummit c0).cairn.released.getLsbD 1 = false ∧
    (getCore dieSummit c0).cairn.released.getLsbD 2 = true ∧ ctxDisabled dieSummit c0 2 = false := by decide
/-- Core 0 with open epochs, and a held write of epoch 0 in the store. -/
def dieEpoch (stack : List Nat) : State := modClus 0 (fun k => { k with held := [⟨0, 0, none, false, 1, 64, .write (putWrite (latchOf coreOn.issue 0) ⟨0, 1, 15, 3, true, 0⟩), false, true, 0, none, false⟩] })
  (withCore (fun k => { k with epoch := { k.epoch with stack := stack, next := stack.length } }))
theorem witness_EpochOperations : (getCore (dieEpoch [6, 5, 4, 3, 2, 1, 0]) c0).epoch.stack.length < 8 ∧
    8 ≤ (getCore (dieEpoch [7, 6, 5, 4, 3, 2, 1, 0]) c0).epoch.stack.length ∧ (getCore die c0).epoch.stack = [] ∧
    (getCore (dieEpoch [1, 0]) c0).epoch.stack = [1, 0] ∧ (getCore (dieEpoch [0]) c0).epoch.stack = [0] ∧
    commitReady (dieEpoch [0]) c0 = true ∧ (getClus (dieEpoch [0]) 0).held.all (heldIn (dieEpoch [0]) c0 0) = true := by decide
/-! ## Hypotheses that are met: programs -/

theorem witness_SequencerSlotOperations : awake die = true ∧ fetching die 0 = true ∧
    loopCount (getSeq die 0).file ⟨0, false, 0, 5⟩ = 1 ∧ loopCount (getSeq die 0).file ⟨0, true, 7, 5⟩ = 0 ∧ (getSeq die 0).loops = [] ∧
    branchTaken (getSeq die 0).lcs (getSeq die 0).file ⟨0, 0, 0, 3⟩ 0 = true ∧
    branchTaken (getSeq die 0).lcs (getSeq die 0).file ⟨2, 0, 0, 3⟩ 0 = false := by decide
/-- A loop of two passes over addresses 4 to 6, at its end with its counter at 0, and at 1. -/
theorem witness_LoopEnds : (⟨1, 4, 6, 2⟩ : OpenLoop).end_ = 6 ∧
    (((Vector.replicate 4 (0 : BitVec 32)).set 1 0).get 1).toNat + 1 < (⟨1, 4, 6, 2⟩ : OpenLoop).count ∧
    (⟨1, 4, 6, 2⟩ : OpenLoop).count ≤ (((Vector.replicate 4 (0 : BitVec 32)).set 1 1).get 1).toNat + 1 := by decide
/-- R70: at the end of a loop of N = 2 the first pass returns to its start, the second leaves it. -/
theorem test_loop_ends : (endTests 6 [⟨1, 4, 6, 2⟩] (Vector.replicate 4 0)).1 = 4 ∧
    (endTests 6 [⟨1, 4, 6, 2⟩] ((Vector.replicate 4 0).set 1 1)).1 = 7 := by decide
def inState (st : SeqState) : State := withSeq (fun q => { q with state := st, checked := true })
theorem witness_SequencerCommands :
    seqReject (inState .idle) 0 (fun q => q.state == .idle || q.state == .halted) false = none ∧
    seqTests (inState .idle) 0 false true false = none ∧ seqTests (inState .idle) 0 true false false = none ∧
    seqReject die 0 (fun q => q.state == .running) false = none ∧ seqReject (inState .checking) 0 (fun _ => true) true = none ∧
    (getMassif (withMassif (fun k => { k with state := .resetting })) 0).state = .resetting ∧ (getMassif die 1).state ≠ .active ∧
    (getMassif die 1).state ≠ .resetting ∧ (getSeq (inState .checking) 0).state = .checking := by decide
theorem witness_LoadsAndChecksComplete :
    (getSeq (withSeq (fun q => { q with state := .loading, loaded := 4 })) 0).loaded =
      (getSeq (withSeq (fun q => { q with state := .loading, loaded := 4 })) 0).loadCount.toNat ∧
    (getSeq (withSeq (fun q => { q with state := .loading, loadFault := true })) 0).loadFault = true ∧
    (getSeq (inState .checking) 0).state = .checking := by decide
/-- Sequencer 0 has broadcast HALT and every core has issued its bundle; it has stopped at a clean point; core 0 has failed. -/
def dieEnd (st : SeqState) : State := withSeq (fun q => { q with state := st, sentHalt := true, atClean := true })
def dieFailed : State := withCore (fun k => { k with err := { k.err with failed := true }, issue := { k.issue with halted := true } })
theorem witness_RunsBeginAndEnd :
    seqReject (inState .idle) 0 startAccepts false = none ∧ seqTests (inState .idle) 0 true false true = none ∧
    putsAcked (inState .idle) 0 = true ∧ massifCores die 0 = [c0, c1] ∧
    runDrained (dieEnd .running) 0 = true ∧ running (dieEnd .running) 0 = true ∧ (getSeq (dieEnd .running) 0).sentHalt = true ∧
    runIssued (dieEnd .running) 0 = true ∧ (getSeq (dieEnd .stopping) 0).state = .stopping ∧ (getSeq (dieEnd .stopping) 0).atClean = true ∧
    runIssued (dieEnd .stopping) 0 = true ∧ runDrained (dieEnd .stopping) 0 = true := by decide
theorem witness_TrapHalt : (let s := modCore c1 (fun k => { k with issue := { k.issue with halted := true } }) dieFailed
    trapHalts s 0 = true ∧ running s 0 = true ∧ runDrained s 0 = true) := by decide
/-- LIMIT = 10: 1024 ticks, at the boundary and one tick before it. -/
def dieWatch (tick : BitVec 64) : State := withSeq (fun q => { q with wdogLimit := 10, wdogTick := tick })
theorem witness_Watchdog : running (dieWatch 98976) 0 = true ∧ (getSeq (dieWatch 98976) 0).wdogLimit ≠ 0 ∧
    wdogTicks (getSeq (dieWatch 98976) 0) = now (dieWatch 98976) - 98976 ∧
    now (dieWatch 98977) - 98977 < wdogTicks (getSeq (dieWatch 98977) 0) := by decide
/-- A FIFO entry of a bundle of NOPs, and of HALT alone, for beat 0. -/
def entry (seq : Slot) : FifoEntry := ⟨0, 0, (Vector.replicate 8 0).set 0 seq, Vector.replicate 4 0, false⟩
/-- Cluster 0's FIFO is full. -/
def dieFull : State := withClus (fun k => { k with fifo := List.replicate 2048 (entry 0) })
theorem witness_BundlesAreBroadcast : fetching die 0 = true ∧ zeroing die 0 = false ∧
    ((getSeq die 0).state == .stopping && (getSeq die 0).occ.toList.all (· == 0)) = false ∧ massifClus die 0 = [0] ∧
    (getClus die 0).fifo.length < 2048 ∧ fetching dieFull 0 = true ∧ (getClus dieFull 0).fifo.length = 2048 := by
  refine ⟨by decide, by decide, by decide, by decide, by decide, ?_⟩; decide +kernel
/-- HALT waits in the window of core 0. -/
def dieIssue : State := withClus (fun k => { k with fifo := [entry (encodeSeqOp .halt)] })
theorem witness_BundleIssue : CoreActs dieIssue c0 ∧ (massifOf dieIssue c0).isSome = true ∧ windowEntry dieIssue c0 = some (entry (encodeSeqOp .halt)) ∧
    (entry (encodeSeqOp .halt)).bad = false ∧ effective dieIssue c0 ≠ 0 ∧ (readBundle (entry (encodeSeqOp .halt)).slots).seq = .halt ∧
    (readBundle (entry (encodeSeqOp .halt)).slots).txa = .nop ∧ (readBundle (entry (encodeSeqOp .halt)).slots).txb = .nop ∧
    (readBundle (entry (encodeSeqOp .halt)).slots).syn = .nop ∧ insertDue (getCore dieIssue c0).ledge = false ∧
    (getCore dieIssue c0).err.rerun = [] ∧ (getCore dieIssue c0).err.gate = [] ∧ (getCore dieIssue c0).ledge.bg = [] := by
  refine ⟨⟨by decide, by decide, by decide, by decide⟩, ?_⟩; decide +kernel
theorem witness_BundleHeld : (getCore dieFailed c0).issue.halted = true ∧ windowEntry die c0 = none ∧ running die 0 = true ∧
    (getCore dieIssue c0).issue.halted = false ∧ (getCore dieIssue c0).err.failed = false := by decide
/-! ## Hypotheses that are met: ledges, landings, summits, transfers -/

/-- Core 0 has one background request, and a streak of 64 beats without a write slot. -/
def dieBg (b : BgReq) : State := withCore (fun k => { k with ledge := { k.ledge with bg := [(b, 1)], noWrite := 64, wrPending := 64 } })
/-- Both cores have read the die's present line. -/
def dieScrub (line : BitVec 9) : State :=
  let f (k : Core) : Core := { k with ledge := { k.ledge with scrubDone := true } }
  { modCore c1 f (withCore f) with scrub := { ScrubSt.reset with offered := true, line := line } }
theorem witness_LedgeCyclesAndScrub :
    (getCore (dieBg (.zero 383)) c0).ledge.bg = [(.zero 383, 1)] ∧ (getCore (dieBg (.zero 383)) c0).presence ≠ .off ∧
    effective (dieBg (.zero 383)) c0 ≠ 0 ∧ insertDue (getCore (dieBg (.zero 383)) c0).ledge = true ∧
    (dieScrub 383).scrub.en = true ∧ (dieScrub 383).scrub.offered = true ∧ scrubCores (dieScrub 383) = [c0, c1] ∧
    (∀ c ∈ scrubCores (dieScrub 383), (getCore (dieScrub 383) c).ledge.scrubDone = true) ∧
    (dieScrub 382).scrub.line.toNat + 1 < dieLines die ∧ dieLines die ≤ (dieScrub 383).scrub.line.toNat + 1 ∧
    (getCore (dieBg (.scrub 7)) c0).ledge.bg = [(.scrub 7, 1)] ∧ (getCore (dieBg (.scrub 7)) c0).ledge.scrubbed.getLsbD (7 / 4) = true ∧
    ledgeFails [] 0xE 7 0 16 (getCore (dieBg (.scrub 7)) c0).ledge = [] := by decide
/-- Core 0 waits for the rerun of a VLDL, or of an OCFG. -/
def dieRerun (op : RerunOp) : State := withCore (fun k => { k with err := { k.err with rerun := [⟨op, false, 2, 0, 0, 0, 0, 1, [0]⟩] } })
theorem witness_RerunsCommit : (getCore (dieRerun (.vload 12 1024 0)) c0).err.rerun = [⟨.vload 12 1024 0, false, 2, 0, 0, 0, 0, 1, [0]⟩] ∧
    effective (dieRerun (.vload 12 1024 0)) c0 ≠ 0 ∧ (getCore (dieRerun (.vload 12 1024 0)) c0).err.gate = [] ∧
    (getCore (dieRerun (.ocfg 3 0)) c0).err.suspect = [] ∧
    ReadsClean (coreEnv (dieRerun (.vload 12 1024 0)) c0 [] []) 2 0 1024 (getCore (dieRerun (.vload 12 1024 0)) c0).ledge ∧
    ReadsClean (coreEnv (dieRerun (.ocfg 3 0)) c0 [] []) 3 0 1024 (getCore (dieRerun (.ocfg 3 0)) c0).ledge := by
  unfold ReadsClean; decide
/-- A landing of two bytes at core 1, one of them outside the ledge. -/
def land (m : Option Massif) (sig : Option (BitVec 6)) : LandWrite :=
  ⟨c1, [(8, 1), (393216, 2)], [8, 393216], 1, m, 9, false, sig, .none, false⟩
/-- A packet that is at router 0, its target's. -/
def pkt (what : NetItem) : Packet := ⟨what, 2, none, [0], none, false, portCluster, 0, false, 1, 0⟩
def dieLand (m : Option Massif) (n : Nat) : State :=
  { modCore c1 (fun k => { k with ledge := { k.ledge with bg := List.replicate n (BgReq.land (land m none), 1) } }) die with net := [pkt (.land (land m none))] }
theorem witness_LandingsAndReadsArrive :
    (let s := dieLand (some 0) 7; let p := pkt (.land (land (some 0) none))
      s.net[0]? = some p ∧ fifoHead s.net p = p ∧ (∀ q ∈ s.net, q.arrival = p.arrival → q = p) ∧ portGrant s (netCan s) 0 portCluster = some p) ∧
    (let s := dieLand none 0; portGrant s (netCan s) 0 portCluster = some (pkt (.land (land none none)))) ∧
    present (dieLand (some 0) 7) c1 = true ∧ accepts (dieLand (some 0) 7) c1 (some 0) 9 false = true ∧
    landCount (getCore (dieLand (some 0) 7) c1).ledge = 7 ∧ landCount (getCore (dieLand (some 0) 8) c1).ledge = 8 ∧
    (land (some 0) none).waited = false ∧ accepts (dieLand none 0) c1 none 9 false = false ∧
    ledgeClass (dieLines die) (getCore die c1).ledge 8 = 0 ∧ ledgeClass (dieLines die) (getCore die c1).ledge 393216 ≠ 0 ∧
    cairnOpen (getCore die c1).cairn 63 = true ∧
    cairnOpen (getCore (modCore c1 (fun k => { k with cairn := { k.cairn with closed := [(63, true)] } }) die) c1).cairn 63 = false := by decide
def readC1 : ReadReq := ⟨c1, 0, 64, 0, 0, some 0, .col 2 5 none, 0, false⟩
def dieRead : State := { die with net := [pkt (.read readC1)] }
theorem witness_RemoteRead : dieRead.net = [pkt (.read readC1)] ∧ (pkt (.read readC1)).path = [0] ∧ fifoHead dieRead.net (pkt (.read readC1)) = pkt (.read readC1) ∧
    portGrant dieRead (netCan dieRead) 0 portCluster = some (pkt (.read readC1)) ∧ present dieRead c1 = true ∧
    readAllowed dieRead readC1 = true ∧ shapeBad readC1.shape readC1.stride false = false := by decide +kernel
/-- Core 0's arrival at context 2 covers the writes numbered below 4. -/
def dieArrive : State := withCtx (withCore (fun k => { k with
  cairn := { k.cairn with arrivals := [(2, some ⟨false, 4, false, false, false⟩)] }
  xfer := { k.xfer with nextWrite := 5, outWrites := [4] } }))
/-- Both cores have arrived at a context. -/
def dieAll (ctx : BitVec 4) (scope : Nat) : State :=
  modInst 0 (instKey scope ctx 0) (fun i => { i with arrived := [c1, c0] }) (withCtx die)
/-- The release of context 2 is on its way to cluster 0. -/
def dieStair : State := modSummit 0 (fun k => { k with stair := [⟨2, 0, 100000, [c0, c1]⟩] }) (withCtx die)
/-- Core 0 has waited 64 ticks at context 2, its scree load at 4. -/
def dieScree : State := withCtx (withCore (fun k => { k with cairn := { k.cairn with waitKind := 2, waitIdx := 2, scree := 4, screeSince := 99936 } }))
theorem witness_SummitsAreReleased : massifOf dieArrive c0 = some 0 ∧
    smGet none (getCore dieArrive c0).cairn.arrivals 2 = some ⟨false, 4, false, false, false⟩ ∧
    arrivalReady dieArrive c0 ⟨false, 4, false, false, false⟩ = true ∧
    (∀ p ∈ [((1 : BitVec 4), 1), (2, 2), (3, 3)], let s := dieAll p.1 p.2; let i := getInst s 0 (instKey (ctxScope s 0 p.1) p.1 0)
      ctxScope s 0 p.1 = p.2 ∧ massifHolds (getMassif s 0) = true ∧ i.trap = false ∧ allArrived s 0 p.2 0 i = true ∧
      summitParts s 0 p.2 0 = [c0, c1] ∧ ∀ c ∈ summitParts s 0 p.2 0, (getCore s c).err.failed = false) ∧
    (let k := (getMassif (dieAll 3 3) 0).summit; treeBad (dieAll 3 3) k = false ∧ k.broken.getLsbD 3 = false ∧ k.held.getLsbD 3 = false ∧
      treeParent k = none ∧ k.children &&& ~~~(getInst (dieAll 3 3) 0 (instKey 3 3 0)).childArr = 0) ∧
    (getMassif dieStair 0).summit.stair.find? (fun i => i.ctx == 2 && i.lclus == 0) = some ⟨2, 0, 100000, [c0, c1]⟩ ∧
    100000 ≤ now dieStair ∧ now { dieStair with tb := { dieStair.tb with count := 99999 } } < 100000 ∧
    massifOf dieScree c0 = some 0 ∧ 2 ^ (ctxHold dieScree 0 2 + 6) = now dieScree - 99936 ∧ (getCore (withCore (fun k => { k with cairn := { k.cairn with rampQuarter := 3 } })) c0).cairn.rampQuarter = 3 := by
  decide
def dieTrap : State := withCore (fun k => { k with trap := { k.trap with valid := true, cause := 3, toForward := true } })
theorem witness_TrapsAreForwarded : (getCore dieTrap c0).trap.valid = true ∧ (getCore dieTrap c0).trap.toForward = true ∧
    (getClus dieTrap 0).trapValid = false ∧ (getClus (modClus 0 (fun k => { k with trapValid := true }) dieTrap) 0).trapValid = true ∧
    dieTrap.err.trapValid = false := by decide
/-- A COPY of one line of the core's own ledge to another. -/
def copyDesc : List Byte := leBytes (1 + 7 * 2 ^ 7 + (2 ^ 60 + 15 * 2 ^ 48) * 2 ^ 64 + (2 ^ 60 + 15 * 2 ^ 48 + 2 ^ 16) * 2 ^ 128) 64
def chunk0 : ChunkRun := ⟨0, 0, copyDesc, 0, 0, [], [], 0, 0, false, none, none, none, 0, [], 0⟩
def chunkRead : ChunkRun := { chunk0 with rdNext := 1, rdDone := [0] }
/-- Stream 1 of core 0 runs with these chunks and requests. -/
def dieRun (f : Stream → Stream) : State := modStream c0 1 (fun q => f { q with st := .run }) die
def dieChunk (k : ChunkRun) : State := dieRun (fun q => { q with chunks := [k] })
/-- The one read and the one write of it. -/
def spec (write : Bool) : ReqSpec := (chunkRequests copyDesc 0 write).1.headD ⟨.mem 0, []⟩
theorem witness_TransferRequests : nextChunkOf (getStream (dieChunk chunk0) c0 1) false = some chunk0 ∧ chunkNext chunk0 false = .spec (spec false) ∧
    nextChunkOf (getStream (dieChunk chunkRead) c0 1) true = some chunkRead ∧ chunkNext chunkRead true = .spec (spec true) ∧
    (getStream (dieChunk chunk0) c0 1).st = .run ∧ (getStream (dieChunk chunk0) c0 1).gated = false ∧ (getStream (dieChunk chunk0) c0 1).reqs = [] ∧
    (getClus (dieChunk chunk0) 0).heldWait = [] ∧ unitOwn (dieChunk chunk0) c0 (spec false).u = true ∧ unitOwn (dieChunk chunk0) c0 (spec true).u = true ∧
    shapeBad (chunkShape chunk0) (chunkStride chunk0) false = false ∧ writeReady chunkRead (spec true) = true := by decide +kernel
/-- Stream 1 reads the rest of a line from offset 512 while a descriptor is in execution; its burst holds a COPY. -/
def dieBurst : State := modLedge c0 (fun l => { l with bg := [(.txrBurst 1 512 0, 1)] })
  (dieRun (fun q => { q with fetching := true, cur := some ⟨copyDesc, 0, 0, 1, none, 0, none⟩ }))
def dieList : State := dieRun (fun q => { q with burst := copyDesc })
theorem witness_DescriptorBursts : (getCore dieBurst c0).ledge.bg = [(.txrBurst 1 512 0, 1)] ∧ (getStream dieBurst c0 1).fetching = true ∧
    (getStream dieBurst c0 1).cur.isSome = true ∧ ReadsClean (coreEnv dieBurst c0 [] []) 0xA 512 (1024 - 512 % 1024) (getCore dieBurst c0).ledge ∧
    (getCore dieList c0).ledge.bg = [] ∧ (getStream dieList c0 1).cur = none ∧ (getStream dieList c0 1).ended = false ∧
    (getStream dieList c0 1).listErr = none ∧ (getStream dieList c0 1).chunks = [] ∧ (getStream dieList c0 1).burst.length = 64 ∧
    descKind ((getStream dieList c0 1).burst.take 64) = 1 ∧ copyOk ((getStream dieList c0 1).burst.take 64) = true := by
  unfold ReadsClean; decide +kernel
/-- Stream 1 stops at a chunk with fault code 5; stream 2 has FAULTED. -/
def dieStop : State := modStream c0 2 (fun q => { q with st := .faulted }) (dieChunk { chunk0 with fault := some (5, true, 2, 0x1234) })
theorem witness_StreamsFaultAndResume : stopChunk (getStream dieStop c0 1) = some { chunk0 with fault := some (5, true, 2, 0x1234) } ∧
    (getStream dieStop c0 1).st = .run ∧ (getStream dieStop c0 1).reqs = [] ∧ (getStream dieStop c0 1).nextSignal = 0 ∧
    (getStream dieStop c0 2).st = .faulted := by decide +kernel
/-- Stream 1 of core 0 waits for a tracker entry; its one request of module memory waits for a tag. -/
def memDesc : List Byte := leBytes (1 + 7 * 2 ^ 7 + (2 ^ 60 + 15 * 2 ^ 48) * 2 ^ 128) 64
def chunkMem : ChunkRun := { chunk0 with desc := memDesc, rdNext := 1 }
def reqMem : TxReq := ⟨9, 0, false, 0, 0, some 0, 1, false, false, 0, false, 0, false, 0⟩
def dieTag : State := { dieRun (fun q => { q with chunks := [chunkMem], reqs := [reqMem] }) with trk := { TrkSt.reset with queue := [(c0, 1)] } }
theorem witness_DeadlineService : dieTag.trk.queue = [(c0, 1)] ∧ dieTag.trk.tracked < 16384 ∧ tagsInUse dieTag < 8192 ∧
    (tagChoice dieTag).map (fun w => (w.core, w.x, w.id)) = some (c0, 1, 9) ∧ findReq (getStream dieTag c0 1) 9 = some reqMem ∧
    reqChunk (getStream dieTag c0 1) reqMem = some chunkMem ∧ (egressCol dieTag (mpaHub 0) 2 0 0).isSome = true := by decide +kernel
/-- A write of stream 1 to core 1 waits for store space in epoch 0. -/
def putDesc : List Byte := leBytes (1 + 7 * 2 ^ 7 + (2 ^ 60 + 15 * 2 ^ 48) * 2 ^ 64 + (2 ^ 60 + 15 * 2 ^ 48 + 2 ^ 32) * 2 ^ 128) 64
def chunkPut : ChunkRun := { chunkRead with desc := putDesc, wrNext := 1 }
def reqPut : TxReq := ⟨9, 0, true, 0, 0, none, 2, false, false, 0, false, 0, false, 0⟩
def specPut : ReqSpec := (chunkRequests putDesc 0 true).1.headD ⟨.mem 0, []⟩
def dieWait : State := modClus 0 (fun k => { k with heldWait := [HeldWaiter.req 0 1 9] })
  (modCore c0 (fun k => { k with epoch := { k.epoch with stack := [0], next := 1 } })
    (dieRun (fun q => { q with epoch := some 0, chunks := [chunkPut], reqs := [reqPut] })))
theorem witness_StoreSpaceGrant : (getClus dieWait 0).heldWait = [.req 0 1 9] ∧ findReq (getStream dieWait c0 1) 9 = some reqPut ∧
    reqChunk (getStream dieWait c0 1) reqPut = some chunkPut ∧ reqSpec (getStream dieWait c0 1) reqPut = some specPut ∧
    unitOwn dieWait c0 specPut.u = false ∧ (getStream dieWait c0 1).epoch = some 0 ∧
    smGet .opened (getCore dieWait c0).epoch.fate 0 = .opened ∧ stopChunk (getStream dieWait c0 1) = none ∧
    storeFits (getClus dieWait 0) 1 (maskWords (specMask specPut)) = true := by decide +kernel
/-- A released write of core 0 for core 1. -/
def heldOut : HeldItem := ⟨0, 0, none, false, 1, 64, .write ⟨15, 0, 1, 0, 64, [], List.range 64, none, .release c0 1 true, none⟩, true, true, 1, none, false⟩
def dieRelease : State := withClus (fun k => { k with held := [heldOut] })
theorem witness_ReleaseItemLeaves : releasedHead dieRelease c0 = some heldOut ∧ 0 < heldOut.slots ∧ ownDie dieRelease (15 : BitVec 4).toNat = true ∧
    physCore dieRelease 0 1 = some c1 ∧ massifOf dieRelease c0 = some 0 ∧ (getSeq dieRelease 0).startPend = false ∧
    (getCore dieRelease c0).err.failed = false := by decide
/-! ## Hypotheses that are met: massifs, power, bring-up -/

/-- Massif 1 asks for a mask; massif 0 holds logical cluster 0 of the two that are active. -/
def dieMask (mask : BitVec 40) : State := modMassif 1 (fun k => { k with mask := mask, tenantKey := 5 })
  { die with bring := { die.bring with active := 2, lmap := die.bring.lmap.set 1 1 }
             clusters := [(0, clusOn), (1, { clusOn with repair := { clusOn.repair with lclus := 1 } })] }
/-- Massif 0 in another state. -/
def dieMassif (st : MassifState) : State := withMassif (fun k => { k with state := st, filling := true })
/-- Bring-up at a step. -/
def dieStep (n : BitVec 4) : State := { die with bring := { die.bring with step := n } }
theorem witness_MassifsAreCreated : isReady (dieMask 2) = true ∧ (getMassif (dieMask 2) 1).state = .none ∧ (getMassif (dieMask 2) 1).mask ≠ 0 ∧
    (getMassif (dieMask 2) 1).mask >>> (dieMask 2).bring.active.toNat = 0 ∧
    (∀ n : Massif, n ≠ 1 → massifHolds (getMassif (dieMask 2) n) = true → (getMassif (dieMask 2) n).members &&& (getMassif (dieMask 2) 1).mask = 0) ∧
    (getMassif (dieMassif .creating) 0).state = .creating ∧ (getMassif (dieMassif .tearingDown) 0).state = .tearingDown ∧
    (getMassif (dieStep 9) 1).state = .none ∧ isReady (dieStep 9) = false ∧ (getMassif (dieMask 0) 1).mask = 0 ∧
    (getMassif (dieMask 4) 1).mask >>> (dieMask 4).bring.active.toNat ≠ 0 ∧
    (getMassif (dieMask 3) 1).mask >>> (dieMask 3).bring.active.toNat = 0 ∧
    (∃ n : Massif, n ≠ 1 ∧ massifHolds (getMassif (dieMask 3) n) = true ∧ (getMassif (dieMask 3) n).members &&& (getMassif (dieMask 3) 1).mask ≠ 0) ∧
    (dieMask 3).err.fatal = false := by decide
theorem witness_MassifCommandsComplete : (getMassif (dieMassif .creating) 0).state = .creating ∧
    (getMassif (dieMassif .resetting) 0).state = .resetting ∧ massifDrained (dieMassif .resetting) 0 = true ∧
    (getMassif (dieMassif .resetting) 0).tearAfter = false ∧ (getMassif (dieMassif .tearingDown) 0).state = .tearingDown ∧
    (getMassif (dieMassif .tearingDown) 0).filling = true ∧ massifCores die 0 = [c0, c1] := by decide
/-- A READY die with no massif. -/
def dieFree : State := { die with seqs := State.reset.seqs }
theorem witness_ResetsStopMassifs : (getMassif die 0).state = .active ∧ die.err.fatal = false ∧ bringingUp die = false ∧ isReady die = true ∧
    die.bring.compBusy = false ∧ (∀ m, (getMassif dieFree m).state = .none) ∧ bringingUp (dieStep 9) = true := by decide
def diePins (p : PinSt) : State := { die with pins := p }
theorem witness_PowerPins : takesLanes die.jtag.ir = false ∧ (diePins ⟨true, true, true, false, false, true⟩).pins.porst = true ∧ (diePins ⟨false, false, false, false, false, false⟩).pins.aon = false ∧
    awake (diePins ⟨true, true, false, false, false, true⟩) = true ∧ (diePins ⟨true, true, false, false, false, true⟩).pins.pwrgd = true ∧
    (diePins ⟨true, true, false, false, false, false⟩).pins.pwrgd = false ∧ (diePins ⟨true, true, false, true, false, false⟩).pins.brownOut = true := by decide
/-- Every readback at a voltage, under a target. -/
def dieRails (target mv : BitVec 10) (n : BitVec 4) : State :=
  { dieStep n with pm := { die.pm with quads := Vector.ofFn (fun q => { die.pm.quads.get q with target := target, latest := mv, readback := 750 }) } }
/-- The last frame of quadrant 3 has failed. -/
def dieUnread : State :=
  { dieRails 750 750 1 with pm := { (dieRails 750 750 1).pm with quads := (dieRails 750 750 1).pm.quads.set 3 { die.pm.quads.get 3 with target := 750, latest := 750, failed := 1 } } }
def noFinding : StepFindings := ⟨false, false, false, 0, [], [], [], false⟩
theorem witness_Bringup : (let s (mv : BitVec 10) := dieRails 750 mv 1
      bringPaused (s 700) = false ∧ (s 700).bring.step = 1 ∧ readbackUnknown (s 700) = false ∧ (retarget (s 700)).pm.writes = [] ∧
      (retarget (s 699)).pm.writes = [] ∧ railsGood (s 700) = true ∧ railsGood (s 800) = true ∧ railsGood (s 699) = false ∧ railsGood (s 801) = false) ∧
    noFinding.railBad = false ∧ (retarget (dieRails 760 750 1)).pm.writes ≠ [] ∧ readbackUnknown (dieRails 760 750 1) = false ∧
    readbackUnknown dieUnread = true ∧
    (dieStep 2).bring.step = 2 ∧ noFinding.fuseBad = false ∧ (dieStep 4).disc.done = true ∧ discFailed (dieStep 4) = false ∧
    (candidates (dieStep 5)).length = 42 ∧ (candidates { dieStep 5 with bring := { (dieStep 5).bring with waves := 11 } }).length ≤ 4 * 11 ∧
    (dieStep 9).bring.step = 9 ∧ (dieStep 3).err.fatal = false := by decide +kernel
/-- Every pair of routers has a route when all are enabled (R376); with router 1 and 7 off, router 0 is cut off. -/
theorem witness_Routable : routable (routersEnabled (dieStep 3) 0) = true ∧ routable (routersEnabled (dieStep 3) 0x82) = false := by decide +kernel
theorem witness_Repair : (activeClusters (dieStep 9))[0]? = some 0 := by decide +kernel
theorem witness_WavesRunsAndRebring : (dieStep 5).bring.waves = 0 ∧ bringPaused (dieStep 5) = false ∧
    ((candidates (dieStep 5)).drop (4 * 0)).take 4 = [0, 1, 2, 3] ∧ readbacksNear (dieRails 750 750 5) = true ∧
    underTest (dieStep 8) c0 = true ∧ (dieStep 8).bring.step = 8 ∧ isReady dieFree = true ∧ (∀ m, (getMassif dieFree m).state = .none) ∧
    (getMassif die 0).state ≠ .none ∧ isReady (dieStep 5) = false := by decide +kernel
/-- A run that passes for the third time, and one at another rate. -/
def dieChar : State := { dieStep 8 with bring := { (dieStep 8).bring with points := [(pointKey c0 1, { CharPoint.reset with passes := 2 })] } }
theorem witness_CharacterisationRun : (let k := smGet CharPoint.reset dieChar.bring.points (pointKey c0 1)
    charRate k = 1425 ∧ 2 ≤ k.passes) := by decide +kernel
/-- Point 5 has not seen the present window, point 6 has. -/
def dieStamps : State := { die with pm := { die.pm with stamps := [(6, { StampSt.reset with window := 24 })] } }
theorem witness_PacingWindowsAndRails : windowNow dieStamps = 24 ∧ (smGet StampSt.reset dieStamps.pm.stamps 5).window ≠ windowNow dieStamps ∧
    (smGet StampSt.reset dieStamps.pm.stamps 6).window = windowNow dieStamps := by decide
/-- Every point has reported window 23, and every sensor of quadrant 0 reads a temperature. -/
def diePublish (code : BitVec 10) : State := { die with
  pm := { die.pm with stamps := (List.range 101).map (fun n => (n, { StampSt.reset with window := 24 })) }
  therm := { die.therm with temps := Vector.replicate 64 code } }
theorem witness_WindowsArePublished : canPublish dieStamps = false ∧ canPublish (diePublish 676) = true ∧ bringingUp (diePublish 676) = false ∧
    tempCode (throtAct (diePublish 676)) = quadTemp (diePublish 676) 0 ∧
    quadTemp (diePublish 663) 0 < tempCode (throtAct (diePublish 663) - hystAct (diePublish 663)) ∧
    quadTemp (diePublish 664) 0 < tempCode (throtAct (diePublish 664)) ∧
    tempCode (throtAct (diePublish 664) - hystAct (diePublish 664)) = quadTemp (diePublish 664) 0 := by decide +kernel
/-- Sensor 63 was at TRIP in the sample before. -/
def dieHot (codes : BitVec 10) (tripped : Bool) : State := { die with therm := { die.therm with
  temps := Vector.replicate 64 codes, atTrip := 1 <<< 63, tripped := tripped } }
theorem witness_TripsAct : (dieHot 600 false).therm.atTrip.getLsbD 63 = true ∧ (dieHot 600 false).therm.failed.getLsbD 63 = false ∧
    ((Vector.replicate 64 (736 : BitVec 10)).get 63).toNat ≤ 856 ∧ 96 ≤ ((Vector.replicate 64 (736 : BitVec 10)).get 63).toNat ∧
    tempCode (tripAct (dieHot 600 false)) = ((Vector.replicate 64 (736 : BitVec 10)).get 63).toNat ∧ (dieHot 600 false).therm.tripped = false ∧
    (∀ i : Fin 64, die.therm.atTrip.getLsbD i = false) ∧ warnNow (dieHot 635 true) = false ∧ warnNow (dieHot 636 true) = true ∧
    (dieHot 635 true).therm.tripped = true := by decide +kernel
/-- Two frames of quadrant 0 have failed; a target change waits. -/
def dieAvs (slot : BitVec 3) : State := { die with pm := { die.pm with
  slot := slot, writes := [(0, 700)], quads := Vector.ofFn (fun q => { die.pm.quads.get q with target := BitVec.ofNat 10 (quadTarget die q), failed := 2 }) } }
theorem witness_HintsAvsFramesAndDroop : (dieAvs 2).pm.slot.toNat % 2 = 0 ∧ (dieAvs 1).pm.slot.toNat % 2 ≠ 0 ∧
    (retarget (dieAvs 1)).pm.writes = [(0, 700)] ∧ ((dieAvs 1).pm.quads.get (avsQuad (avsNow (retarget (dieAvs 1))))).failed = 2 ∧
    (getClus die 0).repair.powered = true ∧ (getClus die 1).repair.powered = false ∧ (getClus die 0).droopActive = false ∧
    (getClus (withClus (fun k => { k with droopActive := true, droopStep := 3 })) 0).droopActive = true ∧
    3 ≤ (getClus (withClus (fun k => { k with droopActive := true, droopStep := 3 })) 0).droopStep.toNat ∧
    (getClus (withClus (fun k => { k with droopActive := true, droopStep := 2 })) 0).droopStep.toNat < 3 := by decide +kernel
/-- A translation of massif 0 is cached; an event is pending and enabled, and its summary goes to die 8. -/
def dieTc : State := { die with tc := { die.tc with entries := [⟨0, 0, 0, 0, true⟩, ⟨1, 0, 0, 0, true⟩] } }
def dieEvt : State := { die with
  evts := [(2, { Evt.reset with pending := true, enable := true })], ident := { die.ident with notifyEn := true, notifyDst := 8 } }
theorem witness_ErrorsAreReported : dieTc.tc.entries.any (fun e => tcCovers e 0 (0xFFFF : BitVec 48).toNat) = true ∧ die.err.fatal = false ∧
    die.err.partnerValid = false ∧ ({ die with err := { die.err with partnerValid := true } } : State).err.partnerValid = true ∧ evtAny die = false ∧ evtAny dieEvt = true ∧
    dieEvt.ident.any = false ∧ dieEvt.ident.notifyEn = true ∧ dieEvt.ident.notifyDst.toNat < 12 ∧
    (egressCol dieEvt dieEvt.ident.notifyDst 4 diePort 0).isSome = true := by decide +kernel
/-! ## Hypotheses that are met: the clock tree, discovery, ports, messages -/

/-- A die that has not locked: it awaits an offer, or its window is open with offers of hop counts 3 and 2 held. -/
def dieNew : State := { die with tb := TimeSt.reset, disc := DiscSt.reset false }
def dieOffers : State := { dieNew with
  disc := { dieNew.disc with window := true }
  cols := (dieNew.cols.set 0 { colUp0 with offer := some (3, 77) }).set 5 { ColSt.reset with offer := some (2, 77) } }
theorem witness_ClockTreeCommands : colOn dieNew 0 = true ∧ twoCrowns dieNew 77 = false ∧ parentCol die = some 0 ∧ die.tb.locked = true ∧
    parentCol die ≠ some 1 ∧ dieOffers.disc.window = true ∧ bestOffer dieOffers = some (5, 2, 77) ∧
    (let s : State := { dieNew with disc := { dieNew.disc with holdover := true, oldCol := none, hop := 15 } };
      s.disc.holdover = true ∧ s.tb.locked = false) ∧
    (let s : State := { dieNew with disc := { DiscSt.reset true with oldCol := none } };
      s.tb.locked = false ∧ s.disc.window = false ∧ s.disc.crown = true) ∧
    (let s : State := { dieNew with disc := { dieNew.disc with oldCol := none, clockCol := some 0, hop := 14 } };
      s.tb.locked = false ∧ s.disc.window = false ∧ s.disc.crown = false ∧ s.disc.clockCol ≠ none ∧ s.disc.hop ≠ 15) := by decide
/-- R414: of the offers held the least hop count is chosen, whatever the order of the cols. -/
theorem test_best_offer : bestOffer dieOffers = some (5, 2, 77) := by decide
/-- A header for this die (endpoint 1), and one for endpoint 2, of a body. -/
def hdr (dst : BitVec 4) (b : MsgBody) : MsgHdr :=
  ⟨BitVec.ofNat 3 ((bodyVc b).getD 0), BitVec.ofNat 7 (bodyLen b), false, 2, dst, 5, 0, 0, true, 7, false, false⟩
/-- A DISC header, from the link partner. -/
def hdrD (op : DiscOp) : MsgHdr := { hdr 0xF (.disc op) with src := 0xF }
theorem arrives_of (s : State) (c : Col) (h : MsgHdr) (b : MsgBody) (hs : (getCol s c).state = .up) (hm : malformed .up ⟨h, b⟩ = false) :
    Arrives s c h b := ⟨Or.inl hs, by rw [hs]; exact hm⟩
theorem witness_DiscoveryFailures : discFailed dieNew = false ∧ dieNew.err.fatal = false ∧ dieNew.disc.crown = false ∧ dieNew.tb.locked = false ∧
    dieNew.disc.window = false ∧ bestOffer dieNew = none ∧ dieNew.disc.holdover = false ∧ dieNew.disc.clockCol = none ∧
    ({ dieNew with disc := { dieNew.disc with holdover := true } } : State).disc.holdover = true ∧
    twoCrowns { dieNew with disc := DiscSt.reset true } 77 = true ∧ dieNew.disc.done = false ∧ die.disc.done = true := by decide
theorem witness_Fail : Arrives dieNew 0 (hdrD (.fail 8)) (.disc (.fail 8)) ∧ 3 ≤ (3 : BitVec 4).toNat ∧ (8 : BitVec 4).toNat ≤ 8 :=
  ⟨arrives_of _ _ _ _ (by decide) (by decide), by decide, by decide⟩
def position0 : PositionArgs := ⟨9, 0, 3, 0, true, 1, 0, 0xB0, 3, 77⟩
def report0 : ReportArgs := ⟨9, 1, 0xB0, 3, 0, 1, Vector.replicate 16 ⟨0, 0, false, false, false, false⟩⟩
def assign0 (serial : BitVec 56) : AssignArgs := ⟨serial, 4, 5, 1, 3, 0xF⟩
/-- A crown die, a child that has started, and one that is aligning. -/
def dieCrown : State := { die with disc := { die.disc with crown := true } }
def dieAlign (n : Nat) : State := { die with disc := { die.disc with t1 := some 99000, exchanges := n } }
theorem witness_DiscoveryMessages : die.disc.started = false ∧ (∀ c, (getCol die c).state ≠ .training) ∧
    Arrives die 0 (hdrD (.position position0)) (.disc (.position position0)) ∧ Arrives die 0 (hdrD (.end_ 3)) (.disc (.end_ 3)) ∧
    Arrives dieCrown 0 (hdrD (.report report0)) (.disc (.report report0)) ∧ dieCrown.disc.crown = true ∧ parentCol die = some 0 ∧
    Arrives die 0 (hdrD (.assign (assign0 0))) (.disc (.assign (assign0 0))) ∧ (assign0 die.fuse.serial).serial = die.fuse.serial ∧
    (assign0 (die.fuse.serial + 1)).serial ≠ die.fuse.serial ∧ Arrives die 0 (hdrD (.routes 1 routes0)) (.disc (.routes 1 routes0)) ∧
    die.disc.assigned = true ∧ (1 : BitVec 4) = die.disc.id ∧ (2 : BitVec 4) ≠ die.disc.id ∧
    Arrives die 0 (hdrD (.alignReq 5)) (.disc (.alignReq 5)) ∧ Arrives (dieAlign 6) 0 (hdrD (.alignRsp 5 6)) (.disc (.alignRsp 5 6)) ∧
    (dieAlign 6).disc.t1 = some 99000 ∧ (dieAlign 6).disc.exchanges + 1 < 8 ∧ 8 ≤ (dieAlign 7).disc.exchanges + 1 ∧
    Arrives die 0 (hdrD .done) (.disc .done) := by
  refine ⟨by decide, by decide, ?_, ?_, ?_, by decide, by decide, ?_, by decide, by decide, ?_, by decide, by decide, by decide, ?_, ?_,
    by decide, by decide, by decide, ?_⟩ <;> exact arrives_of _ _ _ _ (by decide) (by decide)
/-- DONE is waited for: discovery is assigned and not complete. -/
theorem witness_Done : ({ die with disc := { die.disc with done := false } } : State).disc.assigned = true ∧
    ({ die with disc := { die.disc with done := false } } : State).disc.done = false ∧ discFailed die = false := by decide
/-- Col 1 trains, before and after its physical link is up. -/
def dieTrain (up : Bool) (old : List Nat) : State :=
  { die with cols := die.cols.set 1 { colTrains with linkUp := up, usable := 3, rate := 0, mismatches := old } }
def hello0 (x32 : Bool) (major : BitVec 8) : HelloArgs := ⟨major, 0, 3, 0, x32, false, 3, 0⟩
theorem witness_PortsTrain : (getCol (dieTrain false []) 1).state = .training ∧ (getCol (dieTrain false []) 1).linkUp = false ∧
    (getCol (dieTrain false []) 1).widthLimit = false ∧ (getCol (dieTrain false []) 1).usable ≠ 0 ∧
    halfUsable 0x7 false = false ∧ halfUsable 0x3 false = true ∧ halfUsable 0x0000000700000003 true = false ∧
    halfUsable 0x0000000700000007 false = false ∧ halfUsable 0x0000000700000007 true = false ∧
    (getCol (dieTrain true []) 1).linkUp = true ∧ (getCol (dieTrain true []) 1).x32 = (hello0 false 1).x32 ∧
    (getCol (dieTrain true []) 1).x32 ≠ (hello0 true 1).x32 ∧ (getCol (dieTrain true []) 1).usable &&& (hello0 true 1).usable ≠ 0 ∧
    ((getCol (dieTrain true [1]) 1).mismatches.filter (fun m => now (dieTrain true [1]) < m + 100000000)).length < 2 ∧
    2 ≤ ((getCol (dieTrain true [1, 2]) 1).mismatches.filter (fun m => now (dieTrain true [1, 2]) < m + 100000000)).length := by decide
/-- Col 1 in another state. -/
def diePort1 (f : ColSt → ColSt) : State := { die with cols := die.cols.set 1 (f ColSt.reset) }
theorem witness_PortsGoDownAndRetrain : (getCol die 0).state = .up ∧ (getCol die 0).egress = [] ∧ (getCol die 0).advertised = true ∧
    (getCol (diePort1 (fun k => { k with state := .up })) 1).advertised = false ∧
    (∀ v : Fin 6, minCredits.get v ≤ ((#v[2, 66, 2, 74, 32, 16] : CreditArgs).get v).toNat) ∧
    ((#v[2, 65, 2, 74, 32, 16] : CreditArgs).get 1).toNat < minCredits.get 1 ∧ (getCol die 0).linkUp = true ∧
    (getCol die 0).failedReplays < 8 ∧ 8 ≤ (getCol (withCol (fun k => { k with failedReplays := 8 })) 0).failedReplays ∧
    (getCol (dieTrain true []) 1).state = .training ∧ (getCol die 1).state = .down ∧ portHeld die 1 = false ∧
    portHeld (diePort1 (fun k => { k with disable := true })) 1 = true ∧ (getCol die 1).autoRetrain = true ∧ (getCol die 1).downCause ≠ 8 ∧
    (getCol (diePort1 (fun k => { k with downCause := 8 })) 1).downCause = 8 := by decide
def csig0 (lcore : BitVec 7) : CsigMsgArgs := ⟨0, lcore, 63⟩
def lread0 (lcore : BitVec 7) : LreadArgs := ⟨0, lcore, 0, 63, 0, 0⟩
def lwrite0 (lcore : BitVec 7) : LwriteArgs := ⟨0, lcore, 4, 1, true, 3, [1, 2], some [true, false]⟩
def telem0 : TelemArgs := ⟨0, 0, 0, 0, 0, List.replicate 16 0⟩
theorem witness_CoreMessagesArrive : forMe die (hdr 1 (.csig (csig0 1))) = true ∧ Arrives die 0 (hdr 1 (.csig (csig0 1))) (.csig (csig0 1)) ∧
    physCore die 0 1 = some c1 ∧ present die c1 = true ∧ accepts die c1 none (hdr 1 (.csig (csig0 1))).job false = true ∧
    cairnOpen (getCore die c1).cairn 63 = true ∧ Arrives die 0 (hdr 1 (.csig (csig0 2))) (.csig (csig0 2)) ∧ physCore die 0 2 = none ∧
    Arrives die 0 (hdr 1 (.lread (lread0 1))) (.lread (lread0 1)) ∧ Arrives die 0 (hdr 1 (.lread (lread0 2))) (.lread (lread0 2)) ∧
    egressCol die 2 1 (colRouter 0) 0 = some 0 ∧ Arrives die 0 (hdr 1 (.lwrite (lwrite0 1))) (.lwrite (lwrite0 1)) ∧
    Arrives die 0 (hdr 1 (.lwrite (lwrite0 2))) (.lwrite (lwrite0 2)) ∧ Arrives die 0 (hdr 1 (.telem telem0)) (.telem telem0) := by
  refine ⟨by decide, ?_, by decide, by decide, by decide, by decide, ?_, by decide, ?_, ?_, by decide, ?_, ?_, ?_⟩ <;>
    exact arrives_of _ _ _ _ (by decide) (by decide)
def mwrite0 : MwriteArgs := ⟨0, List.replicate 256 0, none⟩
/-- Massif 0's context 3 is a TREE summit with children on cols 0 and 2. -/
def dieTree : State := modSummit 0 (fun k => { k with ctxs := k.ctxs.set 3 3, children := 5 }) die
def summit0 (gen : BitVec 32) : SummitArgs := ⟨3, false, false, false, gen, 9, 1000, 9, 0⟩
theorem witness_OtherMessagesArrive : forMe die (hdr 1 (.mread 0)) = true ∧ Arrives die 0 (hdr 1 (.mread 0)) (.mread 0) ∧
    Arrives die 0 (hdr 1 (.mwrite mwrite0)) (.mwrite mwrite0) ∧ Arrives die 0 (hdr 1 (.walkRd 0)) (.walkRd 0) ∧
    egressCol die 2 1 (colRouter 0) 0 = some 0 ∧ egressCol die 2 4 (colRouter 0) 0 = some 0 ∧ forMe die (hdr 2 (.mread 0)) = false ∧
    Arrives die 0 (hdr 2 (.mread 0)) (.mread 0) ∧ egressCol die 2 2 (colRouter 0) 0 = some 0 ∧ die.err.fatal = false ∧
    egressCol (withCol (fun k => { k with state := .mgmtOnly })) 2 2 (colRouter 0) 0 = none := by
  refine ⟨by decide, ?_, ?_, ?_, by decide, by decide, by decide, ?_, by decide, by decide, by decide⟩ <;>
    exact arrives_of _ _ _ _ (by decide) (by decide +kernel)
theorem witness_SummitMessages : Arrives dieTree 0 (hdr 1 (.summit (summit0 0))) (.summit (summit0 0)) ∧ summitMassif dieTree 0 7 = some 0 ∧
    summitMassif dieTree 1 7 = none ∧ ctxScope dieTree 0 3 = 3 ∧ (summit0 0).gen = (getInst dieTree 0 (instKey 3 3 0)).gen ∧
    (summit0 1).gen ≠ (getInst dieTree 0 (instKey 3 3 0)).gen ∧ (getMassif dieTree 0).summit.children.getLsbD 0 = true ∧
    treeBad dieTree (getMassif dieTree 0).summit = false ∧ allArrived dieTree 0 3 0 (getInst dieTree 0 (instKey 3 3 0)) = false :=
  ⟨arrives_of _ _ _ _ (by decide) (by decide), by decide, by decide, by decide, by decide, by decide, by decide, by decide, by decide⟩
/-- Col 0 owes a response to TAG 5; the sequencer loads, with one bundle left of four. -/
def dieOwed (w : Waiting) : State := modSeq 0 (fun q => { q with state := .loading, loadBusy := true, loadBlock := 1, loaded := 3 })
  (modCore c0 (fun k => { k with xfer := { k.xfer with outWrites := [4] } }) (withCol (fun k => { k with owed := [(5, some w)] })))
theorem witness_ResponsesArrive : forMe die (hdr 1 .wack) = true ∧ Arrives die 0 (hdr 1 .wack) .wack ∧ owing die 0 5 .wack = none ∧
    owing (dieOwed (.write (.put c0 true 4) 1 0 1)) 0 5 .wack = some (0, .write (.put c0 true 4) 1 0 1) ∧
    owing (dieOwed (.load 0 1 0)) 0 5 (.rdata (List.replicate 256 1)) = some (0, .load 0 1 0) ∧
    Arrives (dieOwed (.load 0 1 0)) 0 (hdr 1 (.rdata (List.replicate 256 1))) (.rdata (List.replicate 256 1)) ∧
    (getSeq (dieOwed (.load 0 1 0)) 0).state = .loading ∧ (getSeq (dieOwed (.load 0 1 0)) 0).loadBlock = 1 ∧
    (getSeq (dieOwed (.load 0 1 0)) 0).loadCount.toNat ≤ (getSeq (dieOwed (.load 0 1 0)) 0).loaded + (256 - loadAddr (getSeq (dieOwed (.load 0 1 0)) 0) % 256) / 32 ∧
    (getSeq (dieOwed (.load 0 1 0)) 0).loaded ≤ (getSeq (dieOwed (.load 0 1 0)) 0).loadCount.toNat ∧
    (4 : BitVec 3).toNat < 5 ∧ 5 ≤ (5 : BitVec 3).toNat := by
  refine ⟨by decide, arrives_of _ _ _ _ (by decide) (by decide), by decide, by decide, by decide, arrives_of _ _ _ _ (by decide) (by decide +kernel),
    by decide, by decide, by decide, by decide, by decide, by decide⟩
theorem witness_RegisterRequestsArrive : forMe die (hdr 1 (.regRd 0)) = true ∧ die.err.fatal = false ∧
    Arrives die 0 (hdr 1 (.regRd 0)) (.regRd 0) ∧ die.disc.done = true ∧ (hdr 1 (.regRd 0)).dst ≠ 0xF ∧ dieNew.disc.done = false ∧
    egressCol die 2 4 diePort 0 = some 0 ∧ Arrives die 0 (hdr 1 (.regWr 1 2)) (.regWr 1 2) ∧ (hdr 1 (.regWr 1 2)).host = false ∧
    8 * (1 : BitVec 23).toNat ≠ 0x2190 ∧ Arrives die 0 { hdr 1 (.regWr 1 2) with host := true } (.regWr 1 2) := by
  refine ⟨by decide, by decide, ?_, by decide, by decide, by decide, by decide, ?_, by decide, by decide, ?_⟩ <;>
    exact arrives_of _ _ _ _ (by decide) (by decide)
/-- Sequencer 0's region is in use while it runs: words 0 to 511 of the store. -/
def dieStore (addr : BitVec 20) : State := { die with store := { die.store with addr := addr } }
theorem witness_StoreWindowAndInterconnectTest : psBlocked (dieStore 511) = true ∧ psBlocked (dieStore 512) = false ∧
    (let s := { diePort1 (fun k => { k with disable := true }) with itest := { ItestSt.reset with col := 1, pattern := 3 } };
      (getCol s s.itest.col.toFin).state = .down ∧ (getCol s s.itest.col.toFin).disable = true ∧ s.itest.pattern.toNat ≤ 3) ∧
    (getCol die die.itest.col.toFin).state ≠ .down ∧ ({ ItestSt.reset with state := 1, rx := true } : ItestSt).rx = true ∧
    ({ ItestSt.reset with state := 1 } : ItestSt).rx = false := by decide
theorem witness_TapAndDebugAccess : die.pins.aon = true ∧ takesLanes die.jtag.ir = false ∧ awake die = true ∧ (getCol die 0).state ≠ .off ∧
    takesLanes ({ die.jtag with ir := 3 } : JtagSt).ir = true ∧ (diePins ⟨false, false, false, false, false, false⟩).pins.aon = false ∧
    die.fuse.debugLock = false ∧ ({ die.fuse with debugLock := true } : FuseSt).debugLock = true ∧ physCore die 0 1 = some c1 ∧
    (getCore die c1).presence = .on ∧ physCore die 0 2 = none := by decide
/-- A walk of massif 0 is under way, begun under the old mapping. -/
def dieInval (stale : Bool) : State := { dieTc with tc := { dieTc.tc with walks := [⟨0, 0, 0, false, 0, 0, [], stale, []⟩], inval := [(0, none)] } }
theorem witness_CachesAreInvalidated : (∀ i ∈ (dieInval false).tc.inval, tcQuiet (dieInval false) i.1 = true) ∧
    (∃ i ∈ (dieInval true).tc.inval, tcQuiet (dieInval true) i.1 = false) ∧ massifCores die 0 = [c0, c1] := by decide
/-! ## The other clauses: their conditions are met too -/

/-- Sequencer 0 runs and fetches; it has broadcast HALT; it waits for a reread; it is at its clean point; core 1 is zeroed. -/
def dieZero : State := modCore c1 (fun k => { k with ledge := { k.ledge with bg := [(.zero 3, 1)] } }) die
theorem witness_SequencerFetches : (getSeq die 0).state = .running ∧ (getSeq die 0).sentHalt = false ∧ (getSeq die 0).atClean = false ∧
    (getSeq (dieEnd .running) 0).sentHalt = true ∧ (getSeq die 0).hold ≠ .fetch ∧
    (getSeq (withSeq (fun q => { q with hold := .fetch })) 0).hold = .fetch ∧ fetching (withSeq (fun q => { q with hold := .fetch })) 0 = true ∧
    fetching (inState .stopping) 0 = true ∧ (getSeq (inState .stopping) 0).state = .stopping ∧
    (getSeq (inState .stopping) 0).occ.toList.all (· == 0) = true ∧ fetching dieZero 0 = true ∧ zeroing dieZero 0 = true := by decide
/-- A core's window is empty, its entry is bad, its pacing circuit does not let it go; the ledge's idle cycle. -/
theorem witness_IssueAndIdle : (getCore (dieBg (.zero 383)) c0).issue.waitCause ≠ .none ∧ 64 ≤ (getCore (dieBg (.zero 383)) c0).ledge.wrPending ∧
    ¬64 ≤ (getCore die c0).ledge.rdPending ∧ ¬64 ≤ (getCore die c0).ledge.wrPending ∧
    (getCore (withCore (fun k => { k with issue := { k.issue with waitCause := .none } })) c0).issue.waitCause = .none ∧
    (getCore dieFailed c0).err.rerun = [] ∧ (getCore dieIssue c0).mxe.second = false ∧ (dieScrub 383).bring.step.toNat = 10 ∧
    isReady (dieScrub 383) = true ∧ ¬(dieStep 6).bring.step.toNat < 5 ∧ isReady (dieStep 6) = false ∧
    die.scrub.offered = false ∧ die.scrub.en = true := by decide
/-- A rerun alone in its core. -/
theorem witness_RerunAlone : (getCore (dieRerun (.ocfg 3 0)) c0).err.rest = none ∧ awake (dieRerun (.ocfg 3 0)) = true := by decide
/-- The one packet in transit: a landing that core 1 takes, at router 5 on its way to router 0. -/
def dieTransit : State := { die with net := [{ pkt (.land (land (some 0) none)) with path := [1, 0] }] }
theorem witness_PacketInTransit : dieTransit.net.length = 1 ∧ present dieTransit c1 = true ∧ accepts dieTransit c1 (some 0) 9 false = true ∧
    landCount (getCore dieTransit c1).ledge < 8 ∧ present die ⟨3, 0⟩ = false ∧
    (let w : LandWrite := { land none none with dst := ⟨3, 0⟩ }
     let s : State := { die with net := [pkt (.land w)] }
     portGrant s (netCan s) 0 portCluster = some (pkt (.land w)) ∧ present s w.dst = false ∧ w.ack = .none) ∧
    ({ land (some 0) none with waited := true } : LandWrite).waited = true := by decide +kernel
/-- Core 0 does not wait; it waits at context 5, and its scree load is 4. -/
theorem witness_StairAndScree : (getCore die c0).cairn.waitKind ≠ 2 ∧ (getMassif die 0).summit.stair.find? (fun i => i.ctx == 2 && i.lclus == 0) = none ∧
    (getCore die c0).cairn.rampQuarter.toNat = 4 ∧ ctxScope die 0 2 = 0 ∧ (getInst (modInst 0 (instKey 2 2 0) (fun i => { i with trap := true }) (withCtx die)) 0 (instKey 2 2 0)).trap = true ∧
    summitParts (dieAll 2 2) 0 2 0 ≠ [] := by decide
/-- A stream that reads core 1's ledge, and one that writes it, in no epoch. -/
def farDesc : List Byte := leBytes (1 + 7 * 2 ^ 7 + (2 ^ 60 + 15 * 2 ^ 48 + 2 ^ 32) * 2 ^ 64 + (2 ^ 60 + 15 * 2 ^ 48) * 2 ^ 128) 64
def chunkFar : ChunkRun := { chunk0 with desc := farDesc }
def chunkOut : ChunkRun := { chunkRead with desc := putDesc }
def specFar : ReqSpec := (chunkRequests farDesc 0 false).1.headD ⟨.mem 0, []⟩
theorem witness_FarRequests : nextChunkOf (getStream (dieChunk chunkFar) c0 1) false = some chunkFar ∧ chunkNext chunkFar false = .spec specFar ∧
    unitOwn (dieChunk chunkFar) c0 specFar.u = false ∧ specFar.u = .led 15 0 1 0 ∧ ownDie die 15 = true ∧ physCore die 0 1 = some c1 ∧
    nextChunkOf (getStream (dieChunk chunkOut) c0 1) true = some chunkOut ∧ chunkNext chunkOut true = .spec specPut ∧
    unitOwn (dieChunk chunkOut) c0 specPut.u = false ∧ specPut.u = .led 15 0 1 0 ∧ writeReady chunkOut specPut = true ∧
    (getStream (dieChunk chunkOut) c0 1).epoch = none ∧ hasReleased (dieChunk chunkOut) c0 = false ∧
    physCore die (specOut die chunkOut specPut none .none none).lclus.toNat (specOut die chunkOut specPut none .none none).lcore.toNat = some c1 ∧
    (getStream (dieChunk chunkOut) c0 1).chunks.find? (fun r => r.num = chunkOut.num) = some chunkOut := by decide +kernel
/-- A list at LINK, at END, and at a COPY that is no descriptor. -/
def dieList' (d : Nat) : State := dieRun (fun q => { q with burst := leBytes d 64 })
theorem witness_ListEnds : descKind (getStream (dieList' 3) c0 1).burst = 3 ∧ descKind (getStream (dieList' 0) c0 1).burst = 0 ∧
    descKind (getStream (dieList' 9) c0 1).burst = 9 ∧ (getStream (dieList' 9) c0 1).chunks = [] ∧ (getStream (dieList' 9) c0 1).reqs = [] ∧
    (getCore dieBurst c0).presence ≠ .off ∧ (getCore dieBurst c0).issue.waitCause ≠ .none ∧ effective dieBurst c0 ≠ 0 ∧
    (getStream die c0 1).st ≠ .run ∧ stopChunk (getStream die c0 1) = none ∧ (5 : BitVec 4).toNat < 8 := by decide +kernel
/-- The tag's block has a col, and has none when the col carries management alone. -/
def mgmtOnly (s : State) : State := modCol 0 (fun k => { k with state := .mgmtOnly }) s
theorem witness_TagWays : reqMem.mpa = some 0 ∧
    ((egressCol dieTag (mpaHub 0) 2 0 0).filter (fun c => !crossesFailed dieTag 0 (colRouter c))).isSome = true ∧
    ((egressCol (mgmtOnly dieTag) (mpaHub 0) 2 0 0).filter (fun c => !crossesFailed (mgmtOnly dieTag) 0 (colRouter c))) = none ∧
    (tagChoice (mgmtOnly dieTag)).isSome = true ∧ tagChoice die = none ∧ die.trk.queue = [] := by decide +kernel
/-- A held chunk's signal at the head of the queue, for core 1; a stale request; a TXPUT. -/
def sigDesc : List Byte := leBytes (1 + 7 * 2 ^ 7 + 2 ^ 36 + 63 * 2 ^ 38 + (2 ^ 60 + 15 * 2 ^ 48) * 2 ^ 64 + (2 ^ 60 + 15 * 2 ^ 48 + 2 ^ 32) * 2 ^ 128) 64
def chunkSig : ChunkRun := { chunkRead with desc := sigDesc, wrNext := 1, wrDone := 1, landed := true }
def dieSig : State := modClus 0 (fun k => { k with heldWait := [.signal 0 1] })
  (modCore c0 (fun k => { k with epoch := { k.epoch with stack := [0], next := 1 } }) (dieRun (fun q => { q with epoch := some 0, chunks := [chunkSig] })))
theorem witness_SignalAtTheHead : (getClus dieSig 0).heldWait = [.signal 0 1] ∧ (getStream dieSig c0 1).st = .run ∧
    (getStream dieSig c0 1).chunks = [chunkSig] ∧ chunkSig.num = (getStream dieSig c0 1).nextSignal ∧ chunkSig.landed = true ∧ chunkSig.fault = none ∧
    chunkHeld dieSig c0 (getStream dieSig c0 1) chunkSig = true ∧ (getStream dieSig c0 1).epoch = some 0 ∧
    smGet .opened (getCore dieSig c0).epoch.fate 0 = .opened ∧ chunkTargets dieSig c0 chunkSig.desc = [(15, 0, 1)] ∧
    storeFits (getClus dieSig 0) 1 0 = true ∧ findReq (getStream die c0 1) 9 = none := by decide +kernel
/-- A released signal of core 0 for core 1, with an earlier write unacknowledged, and with none. -/
def heldSig : HeldItem := ⟨0, 0, none, false, 0, 0, .signal 15 0 1 63, true, true, 3, none, false⟩
def dieRelSig (out : List Nat) : State := modCore c0 (fun k => { k with xfer := { k.xfer with outWrites := out } }) (withClus (fun k => { k with held := [heldSig] }))
theorem witness_ReleasedSignal : releasedHead (dieRelSig [2]) c0 = some heldSig ∧ (∃ n ∈ (getCore (dieRelSig [2]) c0).xfer.outWrites, n < heldSig.num) ∧
    releasedHead (dieRelSig []) c0 = some heldSig ∧ (∀ n ∈ (getCore (dieRelSig []) c0).xfer.outWrites, heldSig.num ≤ n) ∧
    ownDie (dieRelSig []) (15 : BitVec 4).toNat = true ∧ physCore (dieRelSig []) 0 1 = some c1 ∧ present (dieRelSig []) c1 = true ∧
    massifOf (dieRelSig []) c1 = massifOf (dieRelSig []) c0 ∧ cairnOpen (getCore (dieRelSig []) c1).cairn 63 = true ∧
    (getCore dieRelease c0).err.rest = none ∧ (true && decide (0 < heldSig.slots)) = false ∧ releasedHead die c0 = none ∧
    12 ≤ (15 : BitVec 4).toNat := by decide
/-- A massif of which a reset waits for a teardown. -/
theorem witness_MassifsDone : (getMassif (withMassif (fun k => { k with state := .resetting, tearAfter := true })) 0).tearAfter = true ∧
    massifDrained (withMassif (fun k => { k with state := .resetting, tearAfter := true })) 0 = true ∧ die.err.fatal = false ∧
    ({ die with err := { die.err with fatal := true } } : State).err.fatal = true ∧ (getMassif die 0).state ≠ .creating ∧ (getMassif die 0).state ≠ .resetting ∧
    (getMassif die 0).state ≠ .tearingDown ∧ bringingUp die = false := by decide
/-- PORST_N stands asserted; a brown-out; VDD_AON is gone; a die of twelve cols, and one whose lanes the TAP has. -/
theorem witness_PinsStand : (diePins ⟨true, true, true, false, false, true⟩).pins.porst = true ∧ (diePins ⟨true, true, false, false, false, true⟩).pins.porst = false ∧
    (diePins ⟨true, true, false, true, false, true⟩).pins.brownOut = true ∧ (diePins ⟨true, true, false, true, false, true⟩).pins.aon = true ∧
    (diePins ⟨true, true, false, false, false, true⟩).pins.brownOut = false ∧
    (colMask { die with fuse := { die.fuse with variant := 3 } }).getLsbD 12 = false ∧ (colMask die).getLsbD 12 = true := by decide
/-- Bring-up's LBIST, memory test and characterisation at their first and at their last target, each reached. -/
def dieTest (step : BitVec 4) (place : Nat) (mv : Nat) : State :=
  let s := dieStep step
  { s with
    bring := { s.bring with place := place }
    pm := { s.pm with quads := Vector.ofFn (fun q => { s.pm.quads.get q with target := BitVec.ofNat 10 mv, readback := BitVec.ofNat 10 mv }) } }
/-- Readbacks 11 mV off their targets. -/
def dieFarRail (step : BitVec 4) : State :=
  { dieStep step with pm := { die.pm with quads := Vector.ofFn (fun q => { die.pm.quads.get q with target := 550, readback := 561 }) } }
/-- Every core of cluster 0 has one rate left to search at 550 mV, or at 850 mV, or none. -/
def dieChars (place mv worst : Nat) : State := let s := dieTest 8 place mv
  { s with bring := { s.bring with points := allPCores.map (fun q => (pointKey ⟨0, q⟩ place, ⟨1000, worst, 0, 0, 12, 700⟩)) } }
theorem witness_CharacterisationDone : charsDone (dieChars 0 550 2000) = true ∧ charsDone (dieChars 3 850 2000) = true ∧
    charsDone (dieTest 8 0 550) = false ∧ atTarget (dieChars 0 550 2000) = true ∧ atTarget (dieChars 3 850 2000) = true ∧
    underTest (dieChars 3 850 2000) c0 = true := by decide +kernel
theorem witness_TestTargets : bringPaused (dieTest 6 0 550) = false ∧ (dieTest 6 0 550).bring.step = 6 ∧ atTarget (dieTest 6 0 550) = true ∧
    ((stepTargets 0 6)[0 + 1]?).isSome = true ∧ atTarget (dieTest 6 1 850) = true ∧ (stepTargets 0 6)[1 + 1]? = none ∧
    (dieTest 6 1 850).bring.place = 1 ∧ (dieTest 7 6 550).bring.step = 7 ∧ atTarget (dieTest 7 6 550) = true ∧ (stepTargets 0 7)[6 + 1]? = none ∧
    ((stepTargets 0 7)[5 + 1]?).isSome = true ∧ (stepTargets 1 7)[2 + 1]? = none ∧ atTarget (dieTest 9 0 750) = true ∧ atTarget (dieFarRail 9) = false ∧
    bringPaused (dieTest 9 0 750) = false ∧ (dieTest 8 3 850).bring.step = 8 ∧ (stepTargets 0 8)[3 + 1]? = none ∧ ((stepTargets 0 8)[0 + 1]?).isSome = true ∧
    noFinding.spineSram = false ∧ ({ noFinding with spineSram := true } : StepFindings).spineSram = true ∧ (dieTest 7 0 550).bring.level = 0 ∧
    underTest (dieTest 8 0 550) c0 = true ∧ (getClus (dieTest 6 1 850) 0).repair.powered = true ∧
    atTarget (dieFarRail 6) = false ∧ bringPaused (dieFarRail 6) = false ∧
    bringPaused { dieTest 6 0 550 with therm := { die.therm with tripped := true } } = true := by decide +kernel
/-- A run of characterisation in the search, at its seventh discard, and of a rate outside of it. -/
def dieSearch (k : CharPoint) : State := let s := dieTest 8 0 550; { s with bring := { s.bring with points := [(pointKey c0 0, k)] } }
theorem witness_CharacterisationSearch : (dieSearch ⟨1000, 2000, 2, 7, 3, 700⟩).bring.place = 0 ∧ atTarget (dieSearch CharPoint.reset) = true ∧
    underTest (dieSearch CharPoint.reset) c0 = true ∧ bringPaused (dieSearch CharPoint.reset) = false ∧
    (let k := smGet CharPoint.reset (dieSearch ⟨1000, 2000, 2, 7, 3, 700⟩).bring.points (pointKey c0 0);
      charRate k = 1500 ∧ 2 ≤ k.passes ∧ 7 ≤ k.discards) ∧
    (let k := smGet CharPoint.reset (dieSearch CharPoint.reset).bring.points (pointKey c0 0);
      charRate k = 1425 ∧ k.steps < 12 ∧ k.passes < 2 ∧ k.discards < 7) ∧
    ((candidates (dieStep 5)).drop (4 * 11)).take 4 = [] ∧ readbacksNear (dieFarRail 5) = false := by decide +kernel
/-- A window of an enabled cap in which no target changed; quadrants whose notches may move either way. -/
theorem witness_OverTheCap : (diePublish 676).pm.capEn = true ∧ (∀ q, ((diePublish 676).pm.quads.get q).changedLast = false) ∧
    canPublish { diePublish 676 with bring := { die.bring with step := 9 } } = true ∧ bringingUp { diePublish 676 with bring := { die.bring with step := 9 } } = true ∧
    ((diePublish 663).pm.quads.get 0).thermPace = 32 ∧ quadDemand die 1 - 5 * ((die.pm.quads.get 1).thermV : Int) ≤ 550 ∧
    550 < quadDemand (withMassif (fun k => { k with vReq := 850 })) 0 - 5 * ((die.pm.quads.get 0).thermV : Int) ∧
    (let s := { die with pm := { die.pm with quads := Vector.ofFn (fun q => { die.pm.quads.get q with thermPace := 31 }) } }; (s.pm.quads.get 0).thermPace < 32) := by
  decide +kernel
/-- Links in which so many flits moved that the window lies above the cap. -/
def dieHeavy : State := { diePublish 600 with pm := { (diePublish 600).pm with
  stamps := (List.range 101).map (fun n => (n, { StampSt.reset with window := 24, last := [(0x0B * 64, 2 ^ 34)] })) } }
theorem domain_le_total (s : State) : domainEnergy s 2 ≤ (estimate s).total := by
  show domainEnergy s 2 ≤ domainEnergy s 0 + domainEnergy s 1 + domainEnergy s 2 + staticEnergy s
  omega
theorem witness_OverCap : canPublish dieHeavy = true ∧ capWatts dieHeavy * wattUnits < (estimate dieHeavy).total :=
  have h : canPublish dieHeavy = true ∧ capWatts dieHeavy * wattUnits < domainEnergy dieHeavy 2 := by decide +kernel
  ⟨h.1, Nat.lt_of_lt_of_le h.2 (domain_le_total dieHeavy)⟩
/-- A trip in step 5, and after bring-up. -/
theorem witness_TripsStop : tripStops (dieStep 5) = true ∧ (dieStep 5).bring.step = 5 ∧ tripStops die = false ∧ effective die c0 ≠ 0 ∧ massifCores die 0 ≠ [] := by decide
/-- A notification's way out, and a die without one; a die whose translations do not cover an address; a failed die. -/
theorem witness_NotificationWays :
    ((egressCol dieEvt dieEvt.ident.notifyDst 4 diePort 0).filter (fun c => !crossesFailed dieEvt diePort (colRouter c))).isSome = true ∧
    (let s : State := { dieEvt with disc := { dieEvt.disc with routes := Vector.replicate 12 ⟨0, 1, 1, 0, false⟩ } };
      evtAny s = true ∧ s.ident.any = false ∧ s.ident.notifyEn = true ∧ s.ident.notifyDst.toNat < 12 ∧
      ((egressCol s s.ident.notifyDst 4 diePort 0).filter (fun c => !crossesFailed s diePort (colRouter c))) = none) ∧
    die.tc.entries.any (fun e => tcCovers e 0 0) = false ∧ ({ die with err := { die.err with fatal := true } } : State).err.fatal = true ∧
    die.ident.notifyEn = false := by decide +kernel
/-- A locked die in holdover, at hop count 15, that completed discovery; one with its clock col on col 5. -/
theorem witness_ClockTreeStands :
    (let s : State := { dieNew with disc := { dieNew.disc with holdover := true, done := true, oldCol := none, clockCol := some 0, hop := 14 } };
      s.tb.locked = false ∧ s.disc.oldCol = none ∧ s.disc.window = false ∧ s.disc.crown = false ∧ s.disc.clockCol ≠ none ∧ s.disc.hop ≠ 15 ∧
      s.disc.holdover = true ∧ s.disc.done = true ∧ parentCol s = some 0) ∧
    (let s : State := { dieNew with disc := { dieNew.disc with holdover := true, oldCol := none, hop := 15 } };
      s.disc.holdover = true ∧ s.disc.oldCol = none ∧ s.tb.locked = false ∧ s.disc.hop = 15) ∧
    (let s : State := { dieNew with disc := { dieNew.disc with clockCol := some 0, hop := 15 } }; s.disc.crown = false ∧ s.disc.hop = 15) ∧
    colOn { die with cols := die.cols.set 1 { ColSt.reset with state := .off } } 1 = false ∧ parentCol dieNew = none ∧
    (0x1D7B : BitVec 16) ≠ 0x1D7A ∧ dieOffers.disc.oldCol = none ∧
    (let s : State := { dieOffers with disc := { dieOffers.disc with oldCol := some 2 } }; s.disc.window = true ∧ s.disc.oldCol ≠ none ∧ s.disc.oldCol = some 2) ∧
    bestOffer dieNew = none ∧ ({ dieNew with disc := { dieNew.disc with window := true } } : State).disc.window = true := by decide
/-- Discovery has failed. -/
theorem witness_DiscoveryFailed : discFailed { die with disc := { die.disc with result := 3 } } = true ∧ (2 : BitVec 4).toNat < 3 ∧ 8 < (9 : BitVec 4).toNat ∧
    twoCrowns { dieNew with cols := dieNew.cols.set 5 { ColSt.reset with offer := some (2, 78) } } 77 = true := by decide
/-- A die whose version is known from its REPORT. -/
theorem witness_KnownVersion : knownMajor { die with disc := { die.disc with reports := [report0] } } 9 = some 1 ∧ (4 : BitVec 4).toNat < 8 ∧
    (∃ c, (getCol (dieTrain false []) c).state = .training) ∧ (∀ c, colLive (getCol die c) = true → (getCol die c).position = none) ∧
    (∀ c, colLive (getCol (withCol (fun k => { k with position := some position0 })) c) = true →
      (getCol (withCol (fun k => { k with position := some position0 })) c).position ≠ none) := by decide
/-- An attempt under a width limit; halves that the two sides have in common, and none; two mismatches, of which one is old. -/
theorem witness_TrainingLimits : (getCol (diePort1 (fun _ => { colTrains with widthLimit := true, limitUpper := true })) 1).widthLimit = true ∧
    halfUsable 0x0000000700000000 true = false ∧ halfUsable 0x0000000700000000 false = true ∧ halfUsable 0x7 true = true ∧
    (getCol (dieTrain true []) 1).usable &&& (0 : BitVec 2) = 0 ∧
    (let s := { dieTrain true [1, 200000000] with tb := { die.tb with ranNs := 250000000 } };
      ((getCol s 1).mismatches.filter (fun m => s.tb.ranNs < m + 100000000)).length = 1) := by decide
/-- A message of one cell waits for its credits. -/
def waiting : EgressItem := ⟨⟨hdr 2 (.regRsp 0), .regRsp 0⟩, none, none, none, none, 0, false, none, none⟩
def dieWaits (n : BitVec 16) : State := withCol (fun k => { k with egress := [waiting], credits := Vector.replicate 6 n.toNat })
theorem witness_CreditsComing : (getCol (dieWaits 0) 0).egress = [waiting] ∧ (getCol (dieWaits 0) 0).state = .up ∧ waiting.wait = none ∧
    waiting.msg.hdr.vc.toNat = (4 : Fin 6).val ∧
    msgCells waiting.msg ≤ (getCol (dieWaits 0) 0).credits.get 4 + ((Vector.replicate 6 32 : CreditArgs).get 4).toNat ∧
    (getCol (dieWaits 0) 0).credits.get 4 + ((Vector.replicate 6 0 : CreditArgs).get 4).toNat < msgCells waiting.msg := by decide
/-- Ports that a command leaves as they are. -/
theorem witness_PortsStand : (getCol die 1).linkUp = false ∧ (getCol die 1).state = .down ∧
    (getCol { die with cols := die.cols.set 1 { ColSt.reset with state := .off } } 1).state = .off ∧
    (colMask { die with fuse := { die.fuse with variant := 3 } }).getLsbD 15 = false ∧
    (getCol (diePort1 (fun k => { k with autoRetrain := false })) 1).autoRetrain = false ∧ (colMask die).getLsbD 1 = true := by decide
/-- A held register request, and a die that owes 16 responses to that port; the REPORT, and the END, that can go. -/
def regHeld0 : Msg × Bool × ItestResult := (⟨hdr 1 (.regRd 0), .regRd 0⟩, false, .none)
def dieRegHeld (owes : Nat) : State := withCol (fun k => { k with
  egress := List.replicate owes { waiting with answers := some 0 }, regHeld := [regHeld0] })
def dieReports : State := withCol (fun k => { k with position := some position0 })
theorem witness_PortsSettle : (∀ c, regReady die c = false) ∧ (getCol (dieRegHeld 15) 0).regHeld = [regHeld0] ∧
    (∀ d, d ≠ (0 : Col) → (getCol (dieRegHeld 15) d).regHeld = []) ∧ regOwed (dieRegHeld 15) 0 = 15 ∧ regOwed (dieRegHeld 16) 0 = 16 ∧
    regReady (dieRegHeld 16) 0 = false ∧ colLive (getCol (dieRegHeld 16) 0) = true ∧
    (let s := { dieReports with disc := { dieReports.disc with started := true } };
      s.disc.started = true ∧ s.disc.sentReport = false ∧ discFailed s = false ∧ (∀ c, regReady s c = false) ∧ parentCol s = some 0 ∧
      ∀ c, colLive (getCol s c) = true → (getCol s c).position.isSome = true) ∧
    (let s := { withCol (fun k => { k with position := some position0, childEnd := some 3 }) with disc := { die.disc with started := true, sentReport := true } };
      childCols s = [0] ∧
      s.disc.sentReport = true ∧ s.disc.sentEnd = false ∧ discFailed s = false ∧ ∀ c ∈ childCols s, (getCol s c).childEnd.isSome = true) ∧
    die.disc.started = false ∧ die.disc.sentReport = false := by decide
/-- A closed cairn, a sender of another job, a core that is not present. -/
theorem witness_CoreMessagesStand : accepts die c1 none 8 false = false ∧
    (let s := modCore c1 (fun k => { k with cairn := { k.cairn with closed := [(63, true)] } }) die;
      present s c1 = true ∧ cairnOpen (getCore s c1).cairn 63 = false ∧ (getCore s c1).cairn.lateAny = false) ∧
    present (modCore c1 (fun k => { k with presence := .reset }) die) c1 = false ∧ (getCore die c1).cairn.dropValid = false ∧
    crossesFailed die (colRouter 0) (colRouter 0) = false ∧ (lwrite0 1).mask = some [true, false] := by decide
/-- SUMMIT messages of a die with a parent on col 1: the last child's arrival, its release, its hold; a failed summit unit. -/
def dieNode (arrived : List CoreId) (children : BitVec 16) : State := modInst 0 (instKey 3 3 0) (fun i => { i with arrived := arrived })
  (modSummit 0 (fun k => { k with ctxs := k.ctxs.set 3 3, children := children, parent := 1 }) { die with cols := die.cols.set 1 colUp0 })
theorem witness_SummitTree : (let s := dieNode [c1, c0] 1; let k := (getMassif s 0).summit; let i := getInst s 0 (instKey 3 3 0)
      summitMassif s 0 7 = some 0 ∧ ctxScope s 0 3 = 3 ∧ k.children.getLsbD 0 = true ∧ massifCores s 0 ≠ [] ∧ allArrived s 0 3 0 i = true ∧
      i.sent = false ∧ k.children &&& ~~~(i.childArr ||| (1#16 <<< 0)) = 0 ∧ k.broken.getLsbD 3 = false ∧ treeBad s k = false ∧
      treeParent k = some 1 ∧ summitMassif s 1 7 = some 0 ∧ i.gen = 0 ∧ i.trap = false ∧ i.held = false ∧ k.children.getLsbD 1 = false) ∧
    failedUnit die 4 = false ∧ crossesFailed die (colRouter 0) diePort = false ∧
    failedUnit { die with err := { die.err with fatal := true, cause := 3, unit := 4 } } 4 = true ∧
    (massifHolds (getMassif dieTree 0) && (getMassif dieTree 0).state != .tearingDown && (getMassif dieTree 0).jobTag != 8 &&
      treeNames (getMassif dieTree 0).summit 0) = true ∧ summitMassif dieTree 0 8 = none := by decide
theorem witness_SummitArrives : Arrives (dieNode [c1, c0] 1) 0 (hdr 1 (.summit (summit0 0))) (.summit (summit0 0)) ∧
    Arrives (dieNode [] 1) 1 (hdr 1 (.summit { summit0 0 with release := true })) (.summit { summit0 0 with release := true }) ∧
    Arrives (dieNode [] 1) 1 (hdr 1 (.summit { summit0 0 with release := true, held := true })) (.summit { summit0 0 with release := true, held := true }) :=
  ⟨arrives_of _ _ _ _ (by decide) (by decide), arrives_of _ _ _ _ (by decide) (by decide), arrives_of _ _ _ _ (by decide) (by decide)⟩
/-- Register requests that this die holds, does not answer, or cannot answer; the link partner's. -/
theorem witness_RegisterRequestsStand : answersReg dieNew (hdr 1 (.regRd 0)) = false ∧ 16 ≤ regOwed (dieRegHeld 16) 0 ∧
    answersReg die (hdr 1 (.regRd 0)) = true ∧ regOwed die 0 < 16 ∧ (getCol die 0).regHeld = [] ∧ regLost die 0 = false ∧
    regLost { die with err := { die.err with fatal := true, cause := 3, unit := 3 } } 0 = true ∧ die.ident.firstValid = false ∧
    forMe die { hdr 0xF (.regRd 0) with src := 0xF } = true ∧ (0x2190 : Nat) = 8 * (0x432 : BitVec 23).toNat := by decide
/-- The TAP and the debug unit: no request waits at a port, a ledge of an active core, data of a massif, the debug lock. -/
theorem witness_DebugClauses : (∀ c, (getCol die c).regHeld = []) ∧ isVregData (8 * (0 : BitVec 23).toNat) = false ∧
    8 * (0x621 : BitVec 23).toNat = 0x3108 ∧ (5 ≤ (dieStep 5).bring.step.toNat ∧ (dieStep 5).bring.step.toNat ≤ 9) ∧
    ¬(5 ≤ die.bring.step.toNat ∧ die.bring.step.toNat ≤ 9) ∧ ItestSt.reset.state ≠ 1 ∧
    (getCore (modCore c1 (fun k => { k with presence := .reset }) die) c1).presence ≠ .on := by decide
/-- A load's read is under way, and a released write holds a translation, when a translation is dropped. -/
def dieOldReads : State := modSeq 0 (fun q => { q with loadBusy := true })
  (withClus (fun k => { k with held := [{ heldOut with va := some 0 }] }))
theorem witness_ReadsUnderWay : (getSeq dieOldReads 0).loadBusy = true ∧ massifClus dieOldReads 0 = [0] ∧
    (∃ h ∈ (getClus dieOldReads 0).held, h.va.isSome = true) ∧ (∀ k ∈ (dieInval false).tc.walks, k.massif = 0) := by decide
/-- The state after a command. -/
def after (i : Instr) (s : State) : State := match exec i s with | .next t => t | _ => s

/-! ## Conditions that bound what a command may do -/

/-- Scrub whose interval has passed at line 383, and has not; a die that failed after it was READY, and one that failed before. -/
def dieScrubbed (since : BitVec 64) : State := { dieScrub 383 with scrub := { (dieScrub 383).scrub with since := since } }
def dieAfterFatal (reached : Bool) : State := { dieScrub 383 with bring := { (dieScrub 383).bring with step := 0xB, reached := reached } }
theorem witness_ScrubMoves : scrubDue (dieScrubbed 34464) = true ∧ scrubDue (dieScrubbed 34465) = false ∧ scrubDue (dieAfterFatal true) = true ∧
    isReady (dieAfterFatal true) = false ∧ (dieAfterFatal true).bring.step = 0xB ∧ (dieAfterFatal true).bring.reached = true ∧
    ¬(dieAfterFatal false).bring.step.toNat < 5 ∧ isReady (dieAfterFatal false) = false ∧ (dieAfterFatal false).bring.reached = false ∧
    (getCore (dieBg (.scrub 7)) c0).err.rerun = [] ∧ (getCore (dieBg (.scrub 7)) c0).presence ≠ .off ∧
    (getCore (dieBg (.scrub 7)) c0).issue.waitCause ≠ .none ∧ effective (dieBg (.scrub 7)) c0 ≠ 0 ∧ (getCore die c0).xfer.decodeA = 0 ∧
    (getCore (dieRerun (.ocfg 3 0)) c0).err.cycles = [] ∧ (getCore (dieRerun (.ocfg 3 0)) c0).ledge.bg = [] := by decide
/-- Every packet in transit is for a core; the packet alone in transit has a path of routers, and flits. -/
theorem witness_OnlyForCores : OnlyForCores (dieLand (some 0) 7) ∧ OnlyForCores dieRead ∧
    (∃ p, dieTransit.net = [p] ∧ p.path ≠ [] ∧ (∀ r ∈ p.path, r < 42) ∧ 0 < p.flits) ∧ (pkt (.read readC1)).path = [0] := by
  refine ⟨?_, ?_, by exact ⟨_, rfl, by decide, by decide, by decide⟩, rfl⟩
  · intro p hp; simp [dieLand, die] at hp; subst hp; exact .inl ⟨_, rfl⟩
  · intro p hp; simp [dieRead, die] at hp; subst hp; exact .inr ⟨_, rfl⟩
/-- Router 3, of the die-level port, is off: nothing comes to it or goes from it. -/
def dieCut (s : State) : State := { s with ridge := { s.ridge with en := BitVec.allOnes 42 ^^^ 8 } }
/-- Core 0 has a further arrival withheld at context 2 behind the one that stands. -/
def dieWithheld (s : State) : State := modCore c0 (fun k => { k with cairn := { k.cairn with withheld := [(2, [(9, 6, false)])] } }) s
theorem witness_SummitWays : crossesFailed dieArrive 0 diePort = false ∧ crossesFailed (dieCut dieArrive) 0 diePort = true ∧
    physClus (dieAll 1 1) 0 = some 0 ∧ crossesFailed dieStair diePort 0 = false ∧ crossesFailed (dieCut dieStair) diePort 0 = true ∧
    physClus dieStair 1 = none ∧ [c0, c1].Nodup ∧ (∀ c ∈ [c0, c1], (getCore dieStair c).err.failed = false) ∧
    smGet [] (getCore dieStair c0).cairn.withheld 2 = [] ∧ smGet [] (getCore (dieWithheld dieArrive) c0).cairn.withheld 2 = [(9, 6, false)] ∧
    smGet none (getCore (dieWithheld dieArrive) c0).cairn.arrivals 2 ≠ none ∧ dieStair.net = [] ∧
    crossesFailed (dieCut dieTrap) 0 diePort = true ∧ crossesFailed dieTrap 0 diePort = false := by decide +kernel
/-- A released signal of core 0 for core 0 itself. -/
def dieOwnSig (s : State) : State := modClus 0 (fun k => { k with held := [{ heldOut with what := .signal 15 0 0 63, slots := 0 }] }) s
theorem witness_OwnWrites : ownBehind (dieChunk chunkRead) c0 = false ∧ ownBehind (dieOwnSig (dieChunk chunkRead)) c0 = true ∧
    HeldWaiter.signal 0 1 ∉ (getClus (dieChunk chunk0) 0).heldWait ∧ crossesFailed (dieChunk chunkFar) 0 0 = false ∧
    (getStream (dieChunk chunk0) c0 1).chunks.find? (fun r => r.num = chunk0.num) = some chunk0 ∧
    (∀ r ∈ (getStream (dieChunk chunk0) c0 1).reqs, r.stage ≠ 2) ∧
    (∀ e ∈ (getCore dieList c0).ledge.bg, bgKind e.1 ≠ 0xA) ∧ (getCore dieBurst c0).err.rerun = [] ∧
    ¬((getCore (modCore c0 (fun k => { k with issue := { k.issue with waitCause := .none } }) dieBurst) c0).issue.waitCause ≠ .none) ∧
    crossesFailed dieRelease 0 0 = false ∧ earlierOut (dieRelSig [2]) c0 heldSig.num = true ∧ earlierOut (dieRelSig []) c0 heldSig.num = false ∧
    (dieRelSig []).net = [] := by decide +kernel
/-- The clock col is col 15; the crown die has none; an unlocked die that has chosen col 0. -/
theorem witness_ClockCols : parentCol { die with disc := { die.disc with clockCol := some 15 } } = some 15 ∧
    parentCol { die with disc := { die.disc with clockCol := none } } = none ∧
    (let s : State := { dieNew with disc := { dieNew.disc with clockCol := some 0, hop := 2 } };
      parentCol s = some 0 ∧ s.tb.locked = false ∧ s.disc.hop ≠ 15 ∧ s.disc.oldCol = none ∧ s.disc.window = false ∧ s.disc.crown = false ∧ s.disc.done = false) ∧
    (let s : State := { dieNew with disc := { die.disc with clockCol := some 0, hop := 2 }, cols := die.cols };
      s.tb.locked = false ∧ s.disc.done = true ∧ colLive (getCol s 0) = true ∧ (getCol s 0).egress = [] ∧ 2 ≤ (getCol s 0).credits.get 4) ∧
    (getCol dieOffers 0).drivesRck = false := by decide
/-- R414, R418: a die that takes col 15 asks for its clock, and gives no clock there. -/
theorem test_clock_col_15 : (let t := after .clockColChoice { dieNew with
      disc := { dieNew.disc with window := true }, cols := dieNew.cols.set 15 { ColSt.reset with offer := some (2, 77) } }
    t.disc.clockCol = some 15 ∧ (getCol (after (.clockReq 15 0x1D7A true) t) 15).drivesRck = false ∧ (ownPosition t 15).child = true ∧
      (ownPosition die 15).child = false) := by decide
/-- Ports in bring-up before DISCOVERY, when every col is idle; a partner that is lost, with the sideband still there. -/
def dieEarly : State := { die with bring := { die.bring with step := 3 }, cols := State.reset.cols }
theorem witness_ColsIdle : colsIdle dieEarly = true ∧ colsIdle die = false ∧ mayTrain dieEarly 1 = false ∧ mayTrain die 1 = true ∧
    colHears (getCol die 0) = true ∧ colHears (getCol die 1) = false ∧
    (getCol (withCol (fun k => { k with reqHeld := true })) 0).reqHeld = true ∧ (getCol (withCol (fun k => { k with rxFill := 3 })) 0).rxFill = 3 := by decide
/-- Responses to a request of this die: who waits can be reached, or router 0 is off. -/
def dieCut0 (s : State) : State := { s with ridge := { s.ridge with en := BitVec.allOnes 42 ^^^ 1 } }
theorem witness_WaysBack : crossesFailed die (colRouter 0) (waitRouter (.load 0 1 0)) = false ∧
    crossesFailed (dieCut die) (colRouter 0) (waitRouter (.load 0 1 0)) = true ∧ crossesFailed die (colRouter 0) (waitRouter (.write (.put c0 true 4) 1 0 1)) = false ∧
    crossesFailed (dieCut0 die) (colRouter 0) (waitRouter (.write (.put c0 true 4) 1 0 1)) = true ∧
    (getSeq (dieOwed (.load 0 1 0)) 0).loadGen = 0 ∧ (getSeq (dieOwed (.load 0 1 0)) 0).loadBusy = true ∧ crossesFailed die (colRouter 0) c1.clus.val = false ∧
    crossesFailed (dieCut0 die) (colRouter 0) c1.clus.val = true ∧ crossesFailed (dieCut0 die) (colRouter 0) (colRouter 0) = false ∧
    regLost (dieCut die) 0 = true := by decide +kernel
/-- A tree that names col 0, of a massif whose JOB_TAG is another, and one whose JOB_TAG is the message's and whose tree does not. -/
theorem witness_SummitUnmatched : summitMassif dieTree 1 7 = none ∧ (getMassif dieTree 0).jobTag = 7 ∧ treeNames (getMassif dieTree 0).summit 1 = false ∧
    (massifHolds (getMassif dieTree 0) && (getMassif dieTree 0).state != .tearingDown && ((getMassif dieTree 0).jobTag == 7) != treeNames (getMassif dieTree 0).summit 1) = true ∧
    (massifHolds (getMassif dieTree 0) && (getMassif dieTree 0).state != .tearingDown && ((getMassif dieTree 0).jobTag == 8) != treeNames (getMassif dieTree 0).summit 0) = true := by decide
/-- The TAP has VDD_AON and VDD_IO, or lacks VDD_IO. -/
theorem witness_TapOn : tapOn die = true ∧ tapOn (diePins ⟨true, false, true, true, false, false⟩) = false ∧ (5 ≤ (dieStep 6).bring.step.toNat ∧ (dieStep 6).bring.step.toNat ≤ 9) ∧
    tapOn (dieStep 6) = true := by decide
/-! ## Slot words, from the tables and the worked example of chapter 03 -/

/-- The worked example: LOOP LC0 with P0 and D = 32. -/
theorem test_word_loop : decodeSeqOp 0 0x04800020 = some (.loop ⟨0, true, 0, 32⟩) := by decide
/-- MWSP with WCLS = 3, SC = 1, WINC, P = 32, OF4; VLD V3, OF6, d = 2, INC; TXGO h = 1, OF9, d = 3; CWAIT 5; PSEL of slot 2 by PF3. -/
theorem test_word_mwsp : decodeMxeOp 0x0CD23E40 = some (.mwsp ⟨0, 3, 1, false, false, true, 31, 4, 0⟩) := by decide
theorem test_word_vld : decodeVxeOp 0x04CC0280 = some (.vld ⟨3, 6, 2, true⟩) := by decide
theorem test_word_txgo : decodeTxOp 0x05483000 = some (.txgo ⟨1, 9, 3⟩) := by decide
theorem test_word_cwait : decodeSynOp 0 0x04500010 = some (.cwait ⟨5, 1, false⟩) := by decide
theorem test_word_psel : decodeExtOp 0x04000018 = some (.psel ⟨0, 0x18⟩) := by decide
/-- Words written out from the layouts: opcode, then the operand fields from bit 25 down. -/
theorem test_word_branch : decodeSeqOp 0 0b00001001010110010101011111111110#32 = some (.branch ⟨5, 3, 0x2A, 0x7FE⟩) ∧
    decodeSeqOp 0 0b00001100000000000000000000000000#32 = some .halt ∧
    decodeSeqOp 0 0b00010010100000000101000000000111#32 = some (.hint ⟨5, 10, 7⟩) ∧
    decodeSeqOp 0 0b00010100000000001010101111001101#32 = some (.mark ⟨0xABCD⟩) := by decide
theorem test_word_mxe : decodeMxeOp 0b00001001111000010000100000100000#32 = some (.malat ⟨15, 0, true, 1, 2⟩) ∧
    decodeMxeOp 0b00000110010110000101000000000000#32 = some (.mcfg ⟨2, 11, 5⟩) ∧
    decodeMxeOp 0b00010000011111100010010000000000#32 = some (.mtld ⟨1, 31, 9⟩) ∧
    decodeMxeOp 0b00010101101010001110001111100011#32 = some (.mtp ⟨1, 2, 2, true, false, 7, 31, 3⟩) ∧
    decodeMxeOp 0b00011000000000000000000000000000#32 = some .mclr := by decide
theorem test_word_vxe : decodeVxeOp 0b00101100010010001101001000000000#32 = some (.vfma ⟨1, 2, 3, 4, true, 0⟩) ∧
    decodeVxeOp 0b01100000100010001100001101100000#32 = some (.vcmp ⟨1, 2, 3, true, 5, 2⟩) ∧
    decodeVxeOp 0b01101000010010111111001000000000#32 = some (.vbcast ⟨1, 2, 126, true⟩) ∧
    decodeVxeOp 0b01101101011100100000000000000000#32 = some (.vtoof ⟨11, 9⟩) := by decide
theorem test_word_ost : decodeOstOp 0b00001001001000001110011100010011#32 = some (.ocvt ⟨1, 4, 3, true, 7, 9, true⟩) ∧
    decodeOstOp 0b00000110010110000101000000000000#32 = some (.ocfg ⟨2, 11, 5⟩) := by decide
theorem test_word_tx : decodeTxOp 0b00001100100001011111111111110000#32 = some (.txput ⟨4, 5, 15, 63, true, 2⟩) ∧
    decodeTxOp 0b00001011000000000000000000000000#32 = some (.txcancel ⟨3⟩) := by decide
theorem test_word_syn : decodeSynOp 0 0b00001000010100000000000001110000#32 = some (.csig ⟨5, 7⟩) ∧
    decodeSynOp 0 0b00001100001111000000000000000000#32 = some (.cwin ⟨3, true, true⟩) ∧
    decodeSynOp 0 0b00010000101000000000000000000000#32 = some (.sarr ⟨2, true⟩) ∧
    decodeSynOp 0 0b00010111110000000000000000000000#32 = some (.swait ⟨15⟩) ∧
    decodeSynOp 0 0b00011100000000000000000000000000#32 = some .ecommit := by decide
theorem test_word_ext : decodeExtOp 0b00010100010000111000010000000111#32 = some (.ofidx ⟨2, 3, 8, 4, 7⟩) ∧
    decodeExtOp 0b00010000010000111111111111111111#32 = some (.ofadd ⟨2, 3, 0xFFFF⟩) ∧
    decodeExtOp 0b00001100101111111110000000000001#32 = some (.pximm ⟨1, 3, true, 0x3F, 1⟩) ∧
    decodeExtOp 0b00011101000011000101010000000000#32 = some (.pset ⟨2, 3, 2, 5⟩) ∧
    decodeExtOp 0b00100101001110010000000000000000#32 = some (.plog ⟨2, 3, 4, 2⟩) := by decide

/-! ## Ill-formed operations: each check of WellFormed.lean refuses one, and so does its decoder -/

theorem test_illformed_loop : SeqOp.wf 0 (.loop ⟨0, true, 8, 5⟩) = false ∧ SeqOp.wf 0 (.loop ⟨0, false, 0, 0⟩) = false ∧
    SeqOp.wf 1 (.loop ⟨0, false, 0, 0⟩) = true := by decide
theorem test_illformed_branch : SeqOp.wf 0 (.branch ⟨0, 1, 0, 4⟩) = false ∧ SeqOp.wf 0 (.branch ⟨0, 0, 1, 4⟩) = false ∧
    SeqOp.wf 0 (.branch ⟨1, 4, 0, 4⟩) = false ∧ SeqOp.wf 0 (.branch ⟨5, 0, 64, 4⟩) = false ∧ SeqOp.wf 0 (.branch ⟨8, 0, 0, 4⟩) = false := by decide
theorem test_illformed_hint : SeqOp.wf 0 (.hint ⟨6, 0, 0⟩) = false := by decide
theorem test_illformed_mxe : MxeOp.wf (.malat ⟨15, 1, false, 0, 0⟩) = false ∧ MxeOp.wf (.mtp ⟨0, 0, 0, false, false, 31, 8, 0⟩) = false := by decide
theorem test_illformed_vxe : VxeOp.wf (.vldl ⟨1, 0, 0, false⟩) = false ∧ VxeOp.wf (.vadd ⟨0, 0, 0, 1, false, 0⟩) = false ∧
    VxeOp.wf (.vfma ⟨0, 0, 0, 0, false, 1⟩) = false ∧ VxeOp.wf (.vexp ⟨0, 0, 1, 0, false, 0⟩) = false ∧
    VxeOp.wf (.vred ⟨0, 0, 0, 0, false, 3⟩) = false ∧ VxeOp.wf (.vrot ⟨0, 0, 0, 0, false, 2⟩) = false ∧
    VxeOp.wf (.vcmp ⟨0, 0, 0, false, 6, 0⟩) = false ∧ VxeOp.wf (.vcvt ⟨0, 0, 0, 0, true, 0⟩) = false ∧
    VxeOp.wf (.vcvt ⟨0, 0, 1, 0, false, 1⟩) = false ∧ VxeOp.wf (.vbcast ⟨0, 0, 64, false⟩) = false := by decide
theorem test_illformed_ost : OstOp.wf (.ocvt ⟨0, 16, 0, true, 0, 0, false⟩) = false ∧ OstOp.wf (.ocvt ⟨0, 31, 1, false, 0, 0, false⟩) = false := by decide
theorem test_illformed_tx : TxOp.wf (.txput ⟨0, 0, 8, 0, false, 0⟩) = false ∧ TxOp.wf (.txput ⟨0, 0, 0, 0, false, 3⟩) = false := by decide
theorem test_illformed_syn : SynOp.wf 0 (.cwait ⟨0, 0, false⟩) = false ∧ SynOp.wf 0 (.csig ⟨0, 0⟩) = false := by decide
theorem test_illformed_ext : ExtOp.wf (.ximm ⟨7, 0⟩) = false ∧ ExtOp.wf (.pximm ⟨7, 0, false, 0, 0⟩) = false ∧
    ExtOp.wf (.ofidx ⟨0, 0, 7, 0, 0⟩) = false ∧ ExtOp.wf (.ofidx ⟨0, 0, 12, 0, 0⟩) = false ∧
    ExtOp.wf (.pset ⟨0, 0, 0, 6⟩) = false ∧ ExtOp.wf (.pseti ⟨0, 0, 6, 0⟩) = false := by decide
/-- Reserved opcodes and bits that must be 0 (R85). -/
theorem test_reserved_words : decodeSeqOp 0 0x18000000 = none ∧ decodeMxeOp 0x1C000000 = none ∧ decodeVxeOp 0x14000000 = none ∧
    decodeOstOp 0x0C000000 = none ∧ decodeTxOp 0x10000000 = none ∧ decodeSynOp 0 0x24000000 = none ∧ decodeExtOp 0x28000000 = none ∧
    decodeSeqOp 0 0x0C000001 = none ∧ decodeVxeOp 0x04000001 = none ∧ decodeSynOp 0 0x04000001 = none := by decide

/-! ## Worked examples of the other chapters -/

/-- Chapter 10: offset 0x1_2C00 with strides of 16, 48 and 32 bank words, and 0x1_2D40 with a stride of 1, takes 1, 1, 2 and 2 slots. -/
theorem test_gather_slots : shapeSlots 2 16 0x12C00 = 1 ∧ shapeSlots 2 48 0x12C00 = 1 ∧ shapeSlots 2 32 0x12C00 = 2 ∧ shapeSlots 2 1 0x12D40 = 2 := by
  decide
/-- Chapter 10: the block at VA 0x12_3456_7900 maps to set 121. -/
theorem test_cache_set : cacheSet 0x1234567900 = 121 := by decide
/-- Chapter 04: MXFP6_E2M3 codes 0x08, 0x21 and 0x1F are 1.0, -0.125 and 7.5. -/
theorem test_e2m3 : (match elemDecode 8 0x08, elemDecode 8 0x21, elemDecode 8 0x1F with
    | .fin a, .fin b, .fin c => dyEq a ⟨1, 0⟩ && dyEq b ⟨-1, -3⟩ && dyEq c ⟨15, -1⟩
    | _, _, _ => false) = true := by decide
/-- Chapter 15: with the example's router off, 22 to 25 goes via 15 and 25 to 22 via 18, each in 5 hops. -/
theorem test_detour : routeOf (~~~(1 <<< 24)) 22 25 = .via 15 5 ∧ routeOf (~~~(1 <<< 24)) 25 22 = .via 18 5 := by decide +kernel
/-- Chapter 17: P's route entries for dies 1, 2 and 3 and for hub 0. -/
theorem test_route_words : routeWord ⟨4, 1, 1, 4, true⟩ = 0x14110004 ∧ routeWord ⟨8, 1, 1, 8, true⟩ = 0x18110008 ∧
    routeWord ⟨0x84, 2, 2, 4, true⟩ = 0x14220084 ∧ routeWord ⟨1, 1, 1, 1, true⟩ = 0x11110001 := by decide
/-- Chapter 17: entry (17 + 6) mod 2 of cols 4 and 8 is col 8, and entry (17 + 3) mod 2 is col 4. -/
theorem test_spread : (let s := { die with
    cols := (die.cols.set 4 colUp0).set 8 colUp0, disc := { die.disc with routes := Vector.replicate 12 ⟨0x84, 2, 2, 4, true⟩ } }
    egressCol s 3 3 17 6 = some 8 ∧ egressCol s 9 2 17 3 = some 4) := by decide
/-- Chapter 17: t1 = 1,000,200, t2 = 5,000,236, t3 = 5,000,246 and t4 = 1,000,282 give a round trip of 72 and an offset of 4,000,000. -/
theorem test_alignment : (
    let s : State := { die with tb := { die.tb with count := 1000282 }, disc := { die.disc with t1 := some 1000200, exchanges := 7 } }
    let t := after (.alignRsp 0 (hdrD (.alignRsp 5000236 5000246)) 5000236 5000246) s
    t.tb.count = 5000282 ∧ t.disc.rtt = 72 ∧ t.disc.offset = 4000000 ∧ t.tb.aligned = true) := by decide +kernel
/-- Chapter 19: a core at 93 °C records 2,160 M beats/s as 2,004. -/
theorem test_char_point : charPoint 2160 (tempCode 93) = 2004 := by decide
/-- Chapter 20: STATE ACTIVE, RESULT OK, CLUSTERS 20, SURVIVED 48. -/
theorem test_massif_stat : regValue (withMassif (fun k => { k with members := 0xFFFFF, survived := 48 })) 0x4390 = some 0x00000000000C0A02 := by
  decide +kernel
/-- Chapter 19: REPAIR_STAT and BRINGUP_DIS of the worked example. -/
theorem test_repair_stat : (let s := { die with bring := { die.bring with
    active := 40, good := 41, failedCores := 6, spared := 1, disagree := 6, laneMaps := 1, disClus := 30, disCore := 8, disState := 3, disValid := true } }
    regValue s 0xF110 = some 0x0000000106106A68 ∧ regValue s 0xF130 = some 0x000000000013081E) := by decide +kernel
/-- Chapter 23: PWRGD 1, FAULTN 1, BO_RAIL 4, BO_VALID 1, BO_COUNT 1. -/
theorem test_elec_stat : regValue { die with
    pins := ⟨true, true, false, false, false, true⟩, err := { die.err with fatal := true }
    pm := { die.pm with boRail := 4, boValid := true, boCount := 1 } } 0xD1C8 = some 0x10143 := by decide +kernel
/-- Chapter 11: CODE 1, LEVEL 3, VALID 1, CHUNK 5. -/
theorem test_tx_fault : regValue (modXfer c0 (fun x => { x with sel := 1 }) (modStream c0 1 (fun q => { q with
    fcode := 1, flevel := 3, fvalid := true, fchunk := 5 }) die)) 0x411510 = some 0x5E1 := by decide +kernel
/-- Chapter 22: core 13 of cluster 8 of die 2 finds bad parity in block 17; EVT_NOTIFY names hub 0 and register 0x010_0040. -/
def core813 : CoreId := ⟨8, 13⟩
def dieParity : State := { State.reset with
  cores := [(coreKey core813, { coreOn with ledge := { coreOn.ledge with bg := [(.scrub 68, 1)], bad := [(1088, 1)] } })]
  clusters := [(8, { clusOn with repair := { clusOn.repair with active := 1 <<< 13 } })]
  disc := { die.disc with id := 2 }, cols := die.cols, ridge := die.ridge
  bring := { die.bring with lmap := BringSt.reset.lmap.set 0 8 }
  evts := [(pageCoreB core813, { Evt.reset with enable := true })]
  ident := { IdentSt.reset with notifyEn := true, notifyDst := 8, notifyAddr := 0x20008 } }
theorem test_event_of_a_core : (let t := after (.scrubRead core813 []) dieParity
    regValue t 0xC2B010 = some 0x0000000100830003 ∧ regValue t 0xC00018 = some 0x2000 ∧ regValue t 0x188 = some 0x100 ∧
      regValue t 0x180 = some 0x8000000000000000 ∧ regValue t 0x190 = some 0x0000000000400111) := by decide +kernel
theorem test_event_notified : (let t := after .eventNotification (after (.scrubRead core813 []) dieParity)
    (getCol t 0).wire.map (·.body) = [.regWr 0x20008 0x8200000200000000] ∧ t.ident.sent = 1) := by decide +kernel

end Sys2Proof.Tests
end

section
/-! The statements of chapter 00 (SCOPE): the state after reset (O3), and what the pins of power leave and show (O39). First what each part
of the reset state is and what a power-on reset leaves of any state, then the two statements. -/
namespace Sys2Proof.Machine

/-! ## The state after reset -/

/-- A table of equal entries, read at any place. -/
theorem vget_replicate {α : Type} (n : Nat) (a : α) (i : Fin n) : (Vector.replicate n a).get i = a :=
  Vector.getElem_replicate i.isLt
/-- A table given by a function, read at a place. -/
theorem vget_ofFn {α : Type} {n : Nat} (f : Fin n → α) (i : Fin n) : (Vector.ofFn f).get i = f i :=
  Vector.getElem_ofFn i.isLt

@[simp] theorem getCore_reset (c : CoreId) : getCore State.reset c = Core.reset := rfl
@[simp] theorem getClus_reset (p : PClus) : getClus State.reset p = Cluster.reset := rfl
@[simp] theorem getSeq_reset (m : Massif) : getSeq State.reset m = SeqSt.reset :=
  congrArg Seq.seq (vget_replicate 4 Seq.reset m)
@[simp] theorem getMassif_reset (m : Massif) : getMassif State.reset m = MassifSt.reset :=
  congrArg Seq.massif (vget_replicate 4 Seq.reset m)
@[simp] theorem getCol_reset (c : Col) : getCol State.reset c = ColSt.reset :=
  vget_replicate 16 ColSt.reset c
/-- After reset no logical cluster has a physical one (R476). -/
theorem lmap_reset (l : Fin 40) : State.reset.bring.lmap.get l = 63 := vget_replicate 40 63 l

/-- The tables of the reset state list nothing. -/
theorem reset_canon : State.reset.Canon where
  cores := rfl
  clusters := rfl
  evts := rfl
  words := rfl
  ledges := fun _ h => nomatch h

/-- A core after reset has PF0 at 1 and no epoch open (R73, R348). -/
theorem reset_limits : State.reset.Limits where
  core := fun c => by rw [getCore_reset]; exact ⟨rfl, Nat.zero_le 8⟩

/-! ## What a power-on reset leaves -/

/-- The state t is that of a power-on reset of s, but for the pins, for CROWN_N as sampled and for the brown-out fields, which the several
causes of a reset treat in their own ways (R535, R537). -/
def IsPowerReset (s t : State) : Prop :=
  t = { State.reset with
    pending := s.pending, fuse := s.fuse, jtag := s.jtag, pins := t.pins, disc := t.disc, cols := t.cols
    pm := { State.reset.pm with boRail := t.pm.boRail, boValid := t.pm.boValid, boCount := t.pm.boCount } } ∧
  ∀ c : Col, getCol t c = (if (colMask s).getLsbD c.val = false then { ColSt.reset with state := .off, downCause := 1 }
    else if takesLanes s.jtag.ir then { ColSt.reset with downCause := 3 } else ColSt.reset)

/-- The bumps of a die before the end of step RAILS, held in reset or released from it (R535, R544, R545): PWRGD_OUT is low, the AVSBus runs
only when released, and, unless the TAP has the lanes, FAULT_N tells whether the die is held and every lane is idle. -/
def ShowsHeld (t : State) (held : Bool) : Prop :=
  pwrgdOut t = false ∧ avsRuns t = !held ∧
    (takesLanes t.jtag.ir = false → faultAsserted t = held ∧ ∀ c, laneDrive t c = .idle)

theorem getCol_powerReset (s : State) (crown : Bool) (c : Col) : getCol (powerReset s crown) c = colPowerOn s c :=
  vget_ofFn (colPowerOn s) c

/-- A power-on reset with the pins and the power manager's fields as its cause sets them first. -/
theorem powerReset_isPowerReset (s : State) (p : PinSt) (m : PmSt) (crown : Bool) :
    IsPowerReset s (powerReset { s with pins := p, pm := m } crown) := by
  refine ⟨rfl, fun c => (getCol_powerReset _ crown c).trans ?_⟩
  simp only [colPowerOn, Bool.not_eq_true']
  rfl

/-! ## What the bumps show -/

/-- PORST_N low holds the die (R535). -/
theorem awake_of_porst {t : State} (h : t.pins.porst = true) : awake t = false := by simp [awake, h]
/-- A brown-out holds the die (R537). -/
theorem awake_of_brownOut {t : State} (h : t.pins.brownOut = true) : awake t = false := by simp [awake, h]

/-- FAULT_N of a die that has no error follows its reset, unless the TAP has the lanes (R510, R535). -/
theorem faultAsserted_of_faultless {t : State} (hj : takesLanes t.jtag.ir = false) (hf : faultN t = false) :
    faultAsserted t = !awake t := by
  cases ha : t.pins.aon <;> simp [faultAsserted, awake, ha, hj, hf]

/-- The lanes of a die that is held, or is in steps RAILS to SPINE, are idle, unless the TAP has them (R544). -/
theorem laneDrive_idle {t : State} (hj : takesLanes t.jtag.ir = false) (h : awake t = false ∨ colsIdle t = true) (c : Col) :
    laneDrive t c = .idle := by
  rcases h with h | h <;> simp [laneDrive, hj, h]

/-- What a die at step RAILS with PWRGD low and no error shows. -/
theorem showsHeld_of_rails {t : State} {held : Bool} (hp : t.pins.pwrgd = false) (hb : t.bring.step = 1) (hf : faultN t = false)
    (ha : awake t = !held) : ShowsHeld t held := by
  have hi : colsIdle t = true := by simp [colsIdle, hb]
  refine ⟨by simp [pwrgdOut, hp], ha, fun hj => ⟨?_, laneDrive_idle hj (.inr hi)⟩⟩
  rw [faultAsserted_of_faultless hj hf, ha, Bool.not_not]

/-- A power-on reset leaves a die that shows whether its pins hold it. -/
theorem powerReset_showsHeld {s : State} {held : Bool} (crown : Bool) (ha : awake s = !held) : ShowsHeld (powerReset s crown) held :=
  showsHeld_of_rails rfl rfl rfl ha

/-! ## The commands of the pins -/

theorem exec_porstNAssert_held (s : State) : exec (.porstNAssert true) s =
    .next (powerReset { s with pins := { s.pins with porst := true } } s.disc.crown) := rfl
/-- A pulse shorter than 1 µs is ignored (R535). -/
theorem exec_porstNAssert_short (s : State) : exec (.porstNAssert false) s = .next s := rfl

theorem exec_porstNRelease_asserted {s : State} (n : Bool) (h : s.pins.porst = true ∨ s.pins.aon = false) :
    exec (.porstNRelease n) s = .next (powerReset { s with
      pins := { s.pins with aon := true, io := s.pins.io || !s.pins.aon, porst := false, crownN := n } } (!n)) := by
  show execPorstNRelease n s = _
  rw [execPorstNRelease, if_pos (by simpa using h)]
theorem exec_porstNRelease_idle {s : State} (n : Bool) (hp : s.pins.porst = false) (ha : s.pins.aon = true) :
    exec (.porstNRelease n) s = .next s := by
  show execPorstNRelease n s = _
  rw [execPorstNRelease, if_neg (by simp [hp, ha])]

theorem exec_brownOut_powered {s : State} (rail : Fin 7) (ha : awake s = true) (hp : s.pins.pwrgd = true) :
    exec (.brownOut rail) s = .next (powerReset { s with
      pins := { s.pins with brownOut := true, io := rail.val != 6 }
      pm := { s.pm with boRail := BitVec.ofNat 4 rail.val, boValid := true, boCount := satInc 16 s.pm.boCount } } s.disc.crown) := by
  show execBrownOut rail s = _
  rw [execBrownOut, whenAwake_next ha, if_pos hp]
/-- Rails count as out of bounds from the end of step RAILS only (R537). -/
theorem exec_brownOut_unpowered {s : State} (rail : Fin 7) (hp : s.pins.pwrgd = false) : exec (.brownOut rail) s = .next s := by
  show execBrownOut rail s = _
  simp [execBrownOut, whenAwake, hp]

theorem exec_brownOutRecovery_held {s : State} (n : Bool) (ha : s.pins.aon = true) (hb : s.pins.brownOut = true) :
    exec (.brownOutRecovery n) s = .next (powerReset { s with
      pins := { s.pins with brownOut := false, io := true, crownN := n } } (!n)) := by
  show execBrownOutRecovery n s = _
  rw [execBrownOutRecovery, if_pos (by simp [ha, hb])]
theorem exec_brownOutRecovery_idle {s : State} (n : Bool) (h : s.pins.aon = false ∨ s.pins.brownOut = false) :
    exec (.brownOutRecovery n) s = .next s := by
  show execBrownOutRecovery n s = _
  rw [execBrownOutRecovery, if_neg (by rcases h with h | h <;> simp [h])]

theorem exec_vddAonLoss (s : State) : exec .vddAonLoss s = .next { State.reset with
    pending := s.pending, fuse := s.fuse
    pins := { s.pins with aon := false, brownOut := false, pwrgd := false } } := rfl

/-! ## The two statements -/

/-- Settles O3: each accessor of the reset state answers the reset value of its part, which holds the P: values written out. -/
theorem resetState : Obligations.ResetState := by
  unfold Obligations.ResetState
  simp only [getSeq_reset, getMassif_reset, getCol_reset, getClus_reset, getCore_reset]
  refine ⟨rfl, reset_canon, reset_limits, rfl, rfl, rfl, rfl, rfl, rfl, rfl, rfl, rfl, rfl, rfl, rfl, rfl, rfl, rfl, rfl, rfl, rfl, rfl, rfl,
    rfl, rfl, rfl, rfl, rfl, rfl, rfl, ?_⟩
  refine ⟨fun _ => ?massif, fun _ => ?col, fun _ => ?cluster, lmap_reset, fun _ => ?core⟩
  case massif => exact ⟨rfl, rfl, rfl, rfl, rfl, rfl, rfl⟩
  case col => exact ⟨rfl, rfl⟩
  case cluster => exact ⟨rfl, rfl, rfl⟩
  case core => exact ⟨rfl, rfl, rfl, rfl, rfl, rfl, fun _ => ⟨rfl, rfl⟩, rfl⟩

/-- Settles O39: every command of the pins but VDD_AON_LOSS leaves the state as it is or makes a power-on reset with new pins, and a die so
reset shows on its bumps whether it is awake. -/
theorem powerPins : Obligations.PowerPins := by
  unfold Obligations.PowerPins
  intro s isReset keepsBo shows
  refine ⟨exec_porstNAssert_short s, ?assert, fun n h => ?release, fun n => exec_porstNRelease_idle n,
    fun n => exec_brownOutRecovery_idle n, fun rail ha hp => ?brownOut, fun rail => exec_brownOut_unpowered rail, fun n ha hb => ?recovery,
    ?loss⟩
  case assert =>
    exact ⟨_, exec_porstNAssert_held s, powerReset_isPowerReset s _ s.pm _, ⟨rfl, rfl, rfl⟩, awake_of_porst rfl,
      powerReset_showsHeld _ (awake_of_porst rfl), rfl⟩
  case release =>
    refine ⟨_, exec_porstNRelease_asserted n h, powerReset_isPowerReset s _ s.pm _, ⟨rfl, rfl, rfl⟩, rfl, rfl, rfl, rfl, rfl, fun hb => ?_⟩
    exact powerReset_showsHeld _ (by simp [awake, hb])
  case brownOut =>
    exact ⟨_, exec_brownOut_powered rail ha hp, powerReset_isPowerReset s _ _ _, awake_of_brownOut rfl,
      powerReset_showsHeld _ (awake_of_brownOut rfl), rfl, rfl, rfl⟩
  case recovery =>
    refine ⟨_, exec_brownOutRecovery_held n ha hb, powerReset_isPowerReset s _ s.pm _, ⟨rfl, rfl, rfl⟩, rfl, rfl, rfl, rfl, fun hp => ?_⟩
    exact powerReset_showsHeld _ (by simp [awake, ha, hp])
  case loss => exact ⟨_, exec_vddAonLoss s, rfl, showsHeld_of_rails rfl rfl rfl rfl, rfl, rfl⟩

end Sys2Proof.Machine
end
section
/-! What every command keeps (O4), and with it every step (O31): one law of each command, put together over the table's rows. -/
namespace Sys2Proof.Machine

/-! ## Every command, every step -/

/-- A command that answers a next state keeps what no command may change: each has its own law (Laws/Kept*.lean). -/
theorem kept_of_exec {c : Instr} {s t : State} (h : exec c s = .next t) : Kept s t := by
  cases c with
  | porstNAssert => exact execPorstNAssert_kept h
  | porstNRelease => exact execPorstNRelease_kept h
  | brownOut => exact execBrownOut_kept h
  | brownOutRecovery => exact execBrownOutRecovery_kept h
  | vddAonLoss => exact execVddAonLoss_kept h
  | bringupStep => exact execBringupStep_kept h
  | wave => exact execWave_kept h
  | characterisationRun => exact execCharacterisationRun_kept h
  | rebring => exact execRebring_kept h
  | go => exact execGo_kept h
  | create => exact execCreate_kept h
  | createDone => exact execCreateDone_kept h
  | massifReset => exact execMassifReset_kept h
  | massifResetDone => exact execMassifResetDone_kept h
  | teardown => exact execTeardown_kept h
  | teardownFillDone => exact execTeardownFillDone_kept h
  | massifBadCmd => exact execMassifBadCmd_kept h
  | load => exact execLoad_kept h
  | loadComplete => exact execLoadComplete_kept h
  | check => exact execCheck_kept h
  | checkComplete => exact execCheckComplete_kept h
  | start => exact execStart_kept h
  | stop => exact execStop_kept h
  | abort => exact execAbort_kept h
  | badCmd => exact execBadCmd_kept h
  | broadcastBundle => exact execBroadcastBundle_kept h
  | programEnd => exact execProgramEnd_kept h
  | stopHalt => exact execStopHalt_kept h
  | trapHalt => exact execTrapHalt_kept h
  | watchdog => exact execWatchdog_kept h
  | issueBundle => exact execIssueBundle_kept h
  | loop => exact execLoop_kept h
  | branch => exact execBranch_kept h
  | halt => exact execHalt_kept h
  | hint => exact execHint_kept h
  | mark => exact execMark_kept h
  | mcfg => exact execMcfg_kept h
  | malat => exact execMalat_kept h
  | mwsp => exact execMwsp_kept h
  | mtld => exact execMtld_kept h
  | mtp => exact execMtp_kept h
  | mclr => exact execMclr_kept h
  | passRerun => exact execPassRerun_kept h
  | vld => exact execVld_kept h
  | vst => exact execVst_kept h
  | vldl => exact execVldl_kept h
  | vstl => exact execVstl_kept h
  | vadd => exact execVadd_kept h
  | vsub => exact execVsub_kept h
  | vmul => exact execVmul_kept h
  | vfma => exact execVfma_kept h
  | vmax => exact execVmax_kept h
  | vmin => exact execVmin_kept h
  | vexp => exact execVexp_kept h
  | vrcp => exact execVrcp_kept h
  | vrsqrt => exact execVrsqrt_kept h
  | vred => exact execVred_kept h
  | vrot => exact execVrot_kept h
  | vcmp => exact execVcmp_kept h
  | vcvt => exact execVcvt_kept h
  | vbcast => exact execVbcast_kept h
  | vtoof => exact execVtoof_kept h
  | ocfg => exact execOcfg_kept h
  | ocvt => exact execOcvt_kept h
  | txgo => exact execTxgo_kept h
  | txcancel => exact execTxcancel_kept h
  | txput => exact execTxput_kept h
  | cwait => exact execCwait_kept h
  | csig => exact execCsig_kept h
  | cwin => exact execCwin_kept h
  | sarr => exact execSarr_kept h
  | swait => exact execSwait_kept h
  | eopen => exact execEopen_kept h
  | ecommit => exact execEcommit_kept h
  | ediscard => exact execEdiscard_kept h
  | psel => exact execPsel_kept h
  | ximm => exact execXimm_kept h
  | pximm => exact execPximm_kept h
  | ofadd => exact execOfadd_kept h
  | ofidx => exact execOfidx_kept h
  | ofset => exact execOfset_kept h
  | pset => exact execPset_kept h
  | pseti => exact execPseti_kept h
  | plog => exact execPlog_kept h
  | idleCycle => exact execIdleCycle_kept h
  | insertedCycle => exact execInsertedCycle_kept h
  | landing => exact execLanding_kept h
  | remoteRead => exact execRemoteRead_kept h
  | descriptorBurst => exact execDescriptorBurst_kept h
  | transferRequest => exact execTransferRequest_kept h
  | tagGrant => exact execTagGrant_kept h
  | trackerAdmit => exact execTrackerAdmit_kept h
  | dueTimeRecompute => exact execDueTimeRecompute_kept h
  | agePromotion => exact execAgePromotion_kept h
  | streamFault => exact execStreamFault_kept h
  | storeSpaceGrant => exact execStoreSpaceGrant_kept h
  | releaseItemLeaves => exact execReleaseItemLeaves_kept h
  | arrivalDepart => exact execArrivalDepart_kept h
  | summitRelease => exact execSummitRelease_kept h
  | staircaseRelease => exact execStaircaseRelease_kept h
  | screeStepDown => exact execScreeStepDown_kept h
  | rampQuarter => exact execRampQuarter_kept h
  | trapForward => exact execTrapForward_kept h
  | paceRecalibrate => exact execPaceRecalibrate_kept h
  | ageDerateStep => exact execAgeDerateStep_kept h
  | windowMark => exact execWindowMark_kept h
  | publishWindow => exact execPublishWindow_kept h
  | railSample => exact execRailSample_kept h
  | hintRecompute => exact execHintRecompute_kept h
  | avsFrame => exact execAvsFrame_kept h
  | droopCrossing => exact execDroopCrossing_kept h
  | clampStep => exact execClampStep_kept h
  | sensorSample => exact execSensorSample_kept h
  | tripClear => exact execTripClear_kept h
  | scrubAdvance => exact execScrubAdvance_kept h
  | scrubRead => exact execScrubRead_kept h
  | spineParity => exact execSpineParity_kept h
  | eventNotification => exact execEventNotification_kept h
  | clockOfferSend => exact execClockOfferSend_kept h
  | clockOffer => exact execClockOffer_kept h
  | clockColChoice => exact execClockColChoice_kept h
  | clockReq => exact execClockReq_kept h
  | clockRelease => exact execClockRelease_kept h
  | clockFail => exact execClockFail_kept h
  | holdoverRechoose => exact execHoldoverRechoose_kept h
  | clockTimeout => exact execClockTimeout_kept h
  | discoveryStart => exact execDiscoveryStart_kept h
  | position => exact execPosition_kept h
  | report => exact execReport_kept h
  | endMsg => exact execEnd_kept h
  | assign => exact execAssign_kept h
  | routes => exact execRoutes_kept h
  | alignReq => exact execAlignReq_kept h
  | alignRsp => exact execAlignRsp_kept h
  | done => exact execDone_kept h
  | fail => exact execFail_kept h
  | discoveryTimeout => exact execDiscoveryTimeout_kept h
  | partnerDetectTimeout => exact execPartnerDetectTimeout_kept h
  | trainingAttempt => exact execTrainingAttempt_kept h
  | physicalLinkUp => exact execPhysicalLinkUp_kept h
  | hello => exact execHello_kept h
  | helloTimeout => exact execHelloTimeout_kept h
  | credit => exact execCredit_kept h
  | idle => exact execIdle_kept h
  | idleFlitSend => exact execIdleFlitSend_kept h
  | linkDown _ cause => exact execLinkDown_kept (a1 := cause) h
  | flitCrcFail => exact execFlitCrcFail_kept h
  | partnerLoss => exact portAct_kept partnerLoss_kept h
  | partnerTraining => exact execPartnerTraining_kept h
  | autoRetrain => exact execAutoRetrain_kept h
  | retrain => exact execRetrain_kept h
  | portReset => exact execPortReset_kept h
  | colDisable => exact execColDisable_kept h
  | summit => exact execSummit_kept h
  | csigMsg => exact execCsigMsg_kept h
  | lread => exact execLread_kept h
  | mread => exact execMread_kept h
  | lwrite => exact execLwrite_kept h
  | mwrite => exact execMwrite_kept h
  | rdata => exact execRdata_kept h
  | wack => exact execWack_kept h
  | walkRd => exact execWalkRd_kept h
  | walkRsp => exact execWalkRsp_kept h
  | regRd => exact execRegRd_kept h
  | regWr => exact execRegWr_kept h
  | regRsp => exact execRegRsp_kept h
  | forwardMessage => exact execForwardMessage_kept h
  | psDataRead => exact execPsDataRead_kept h
  | psDataWrite => exact execPsDataWrite_kept h
  | countClear => exact execCountClear_kept h
  | hwmClear => exact execHwmClear_kept h
  | ledgeBgStatClear => exact execLedgeBgStatClear_kept h
  | streamTrkStatClear => exact execStreamTrkStatClear_kept h
  | hwStoreStatClear => exact execHwStoreStatClear_kept h
  | colErrClear => exact execColErrClear_kept h
  | regStatClear => exact execRegStatClear_kept h
  | clusTrapSumClear => exact execClusTrapSumClear_kept h
  | dieTrapSumClear => exact execDieTrapSumClear_kept h
  | ledgePerrLogClear => exact execLedgePerrLogClear_kept h
  | invalidate => exact execInvalidate_kept h
  | txResume => exact execTxResume_kept h
  | resumeAll => exact execResumeAll_kept h
  | tcFlush => exact execTcFlush_kept h
  | tcInval => exact execTcInval_kept h
  | tcInvalDone => exact execTcInvalDone_kept h
  | errNotify => exact execErrNotify_kept h
  | itestStart => exact execItestStart_kept h
  | itestStop => exact execItestStop_kept h
  | trstN => exact execTrstN_kept h
  | extest => exact execExtest_kept h
  | samplePreload => exact execSamplePreload_kept h
  | idcode => exact execIdcode_kept h
  | clamp => exact execClamp_kept h
  | highz => exact execHighz_kept h
  | wrapper => exact execWrapper_kept h
  | ijtag => exact execIjtag_kept h
  | bypass => exact execBypass_kept h
  | registerBridgeAccess => exact execRegisterBridgeAccess_kept h
  | referenceLock => exact execReferenceLock_kept h
  | telemMessage => exact execTelemMessage_kept h
  | clusAbsentClear => exact execClusAbsentClear_kept h
  | errPartnerClear => exact execErrPartnerClear_kept h
  | bringupDisClear => exact execBringupDisClear_kept h
  | regStatFirstClear => exact execRegStatFirstClear_kept h
  | elecStatBoClear => exact execElecStatBoClear_kept h

/-- The meaning of every command ends in a next state, whatever its guards find. -/
theorem exec_answers (c : Instr) (s : State) : ∃ t, exec c s = .next t := by
  cases c <;> exact ⟨_, rfl⟩

/-- The front command leaves the queue before it runs; the limits do not look at the queue. -/
theorem limits_pending {s : State} {l : List Instr} (h : s.Limits) : State.Limits { s with pending := l } :=
  limits_same (s := s) rfl h

/-- Settles O31: a step on an empty queue is a tick, which keeps the limits; any other runs the front command, which keeps them too. -/
theorem stepKeepsCoreLimits : Obligations.StepKeepsCoreLimits := by
  unfold Obligations.StepKeepsCoreLimits
  intro s hs
  cases hq : s.pending with
  | nil => exact ⟨tick s, step_nil hq, (tick_kept (Kept.rfl' s)).limits hs⟩
  | cons c l =>
    obtain ⟨t, ht⟩ := exec_answers c { s with pending := l }
    exact ⟨t, (step_cons hq).trans ht, (kept_of_exec ht).limits (limits_pending hs)⟩

/-- Settles O4: every command answers, and each answer is one that the command's own law speaks of. -/
theorem everyCommandAnswers : Obligations.EveryCommandAnswers := by
  unfold Obligations.EveryCommandAnswers
  intro c s
  obtain ⟨t, ht⟩ := exec_answers c s
  exact ⟨t, ht, kept_of_exec ht⟩

end Sys2Proof.Machine
end
section
/-! The program store's words as its writers change them (R53, R54), the window of the registers and the interconnect test (O56). -/
namespace Sys2Proof.Machine

/-! ## A store word written -/

/-- From s to t every massif stands, and every sequencer but that its program may have lost CHECKED (R54). -/
structure Unchecked (s t : State) : Prop where
  seq : ∀ m, getSeq t m = { getSeq s m with checked := (getSeq t m).checked }
  fewer : ∀ m, (getSeq t m).checked = true → (getSeq s m).checked = true
  massif : ∀ m, getMassif t m = getMassif s m

theorem Unchecked.refl (s : State) : Unchecked s s := ⟨fun _ => rfl, fun _ => id, fun _ => rfl⟩
theorem Unchecked.trans {s t u : State} (h : Unchecked s t) (k : Unchecked t u) : Unchecked s u :=
  ⟨fun m => by rw [k.seq, h.seq], fun m c => h.fewer m (k.fewer m c), fun m => (k.massif m).trans (h.massif m)⟩
/-- One sequencer loses CHECKED. -/
theorem unchecked_modSeq (m : Massif) (s : State) : Unchecked s (modSeq m (fun q => { q with checked := false }) s) where
  seq k := by
    rw [getSeq_modSeq]
    split
    · next h => subst h; rfl
    · rfl
  fewer k h := by
    rw [getSeq_modSeq] at h
    split at h
    · cases h
    · exact h
  massif k := getMassif_modSeq m k _ s

/-- Every sequencer whose region holds a word loses CHECKED: nothing else than the sequencers changes. -/
def WordUnchecks (s t : State) : Prop := Unchecked s t ∧ t = { s with seqs := t.seqs }

/-- A word that changes takes CHECKED from the sequencers whose regions hold it. -/
theorem wordUnchecks_fold (w : Nat) (ms : List Massif) (s : State) : WordUnchecks s
    (ms.foldl (fun s m => if wordInRegion (getSeq s m) w then modSeq m (fun q => { q with checked := false }) s else s) s) := by
  refine foldl_inv (P := WordUnchecks s) (fun t m h => ?_) ⟨Unchecked.refl s, rfl⟩
  split
  · exact ⟨h.1.trans (unchecked_modSeq m t), by rw [h.2]; rfl⟩
  · exact h

/-- What a write of a store word leaves: the words change, and sequencers may lose CHECKED. -/
theorem storeWrite_rest (w : Nat) (v : BitVec 64) (s : State) :
    Unchecked s (storeWrite w v s) ∧
      storeWrite w v s = { s with store := { s.store with words := (storeWrite w v s).store.words }, seqs := (storeWrite w v s).seqs } := by
  unfold storeWrite
  split
  · exact ⟨Unchecked.refl s, rfl⟩
  · obtain ⟨h, e⟩ := wordUnchecks_fold w allMassifs { s with store := { s.store with words := smSet 0 s.store.words w v } }
    exact ⟨⟨h.seq, h.fewer, h.massif⟩, by rw [e]⟩

/-- A store word read after one is written. -/
theorem storeWrite_words (w j : Nat) (v : BitVec 64) (s : State) :
    smGet 0 (storeWrite w v s).store.words j = if j = w then v else smGet 0 s.store.words j := by
  unfold storeWrite
  split
  · next h =>
    split
    · next e => rw [e]; exact eq_of_beq h
    · rfl
  · rw [(wordUnchecks_fold w allMassifs _).2]
    exact smGet_smSet 0 s.store.words w j v

/-! ## The window (R53, R55) -/

theorem psRead_eq (bad : Bool) (s : State) : psRead bad s =
    { s with store := { s.store with addr := s.store.addr + 1, readParity := s.store.readParity || bad } } := rfl
/-- A write to a word of a region in use is dropped, and counted. -/
theorem psWrite_blocked {s : State} (v : BitVec 64) (h : psBlocked s = true) : psWrite v s =
    { s with store := { s.store with addr := s.store.addr + 1, blocked := satInc 16 s.store.blocked } } := by
  rw [psWrite, if_pos h]; rfl
theorem psWrite_free {s : State} (v : BitVec 64) (h : psBlocked s = false) :
    psWrite v s = psAdvance (storeWrite s.store.addr.toNat v s) := by
  rw [psWrite, if_neg (by simp [h])]

/-- A write outside the regions in use, in full. -/
theorem psWrite_stores {s : State} (v : BitVec 64) (h : psBlocked s = false) : let t := psWrite v s
    t.store.addr = s.store.addr + 1 ∧ (∀ w, smGet 0 t.store.words w = if w = s.store.addr.toNat then v else smGet 0 s.store.words w) ∧
      t.store.blocked = s.store.blocked ∧ t = { s with store := t.store, seqs := t.seqs } ∧ Unchecked s t := by
  obtain ⟨hu, he⟩ := storeWrite_rest s.store.addr.toNat v s
  have hw := fun w => storeWrite_words s.store.addr.toNat w v s
  rw [psWrite_free v h]
  generalize storeWrite s.store.addr.toNat v s = t at hu he hw ⊢
  refine ⟨?_, hw, ?_, ?_, hu.seq, hu.fewer, hu.massif⟩
  · show t.store.addr + 1 = _
    rw [he]
  · show t.store.blocked = _
    rw [he]
  · show ({ t with store := _ } : State) = _
    rw [he]; rfl

/-! ## The interconnect test (R433) -/

theorem itestStart_accepted {s : State} (hd : (getCol s s.itest.col.toFin).state = .down) (hs : (getCol s s.itest.col.toFin).disable = true)
    (hp : s.itest.pattern.toNat ≤ 3) :
    itestStart s = { s with itest := { s.itest with state := 1, errors := 0, lanes := 0, sync := false, sent := 0 } } := by
  have h : itestAccepts s = true := by simp [itestAccepts, hd, hs, hp]
  rw [itestStart, if_pos h]
theorem itestStart_refused {s : State} (h : (getCol s s.itest.col.toFin).state ≠ .down ∨ (getCol s s.itest.col.toFin).disable = false ∨
    3 < s.itest.pattern.toNat) : itestStart s = { s with itest := { s.itest with refused := true } } := by
  have h : ¬ itestAccepts s = true := by
    rcases h with h | h | h
    · simp [itestAccepts, h]
    · simp [itestAccepts, h]
    · simp [itestAccepts, h]
  rw [itestStart, if_neg h]
/-- What a running test with a receiver shows once the checker's counts are taken in (log entry 93). -/
theorem itestSee_rx {s : State} (r : ItestResult) (h1 : s.itest.state = 1) (hr : s.itest.rx = true) : itestSee r s =
    { s with itest := { s.itest with
      sync := r.sync, errors := max s.itest.errors r.errors.toNat
      lanes := s.itest.lanes ||| r.lanes, aux := s.itest.aux ||| r.aux } } := by
  rw [itestSee, if_pos (by simp [h1, hr])]
theorem itestSee_tx {s : State} (r : ItestResult) (hr : s.itest.rx = false) : itestSee r s = s := by
  rw [itestSee, if_neg (by simp [hr])]
theorem itestStop_running {s : State} (r : ItestResult) (h1 : s.itest.state = 1) :
    itestStop r s = { itestSee r s with itest := { (itestSee r s).itest with state := 2 } } := by
  rw [itestStop, if_neg (by simp [h1])]
theorem itestStop_idle {s : State} (r : ItestResult) (h1 : s.itest.state ≠ 1) : itestStop r s = s := by
  rw [itestStop, if_pos (by simpa using h1)]

/-- Settles O56: the window's reads and writes and the two commands of the test, each by the equation of its case. -/
theorem storeWindowAndInterconnectTest : Obligations.StoreWindowAndInterconnectTest := by
  unfold Obligations.StoreWindowAndInterconnectTest
  intro s ha
  refine ⟨fun bad => ⟨_, whenAwake_next ha _, psRead_eq bad s⟩, fun v hb => ⟨_, whenAwake_next ha _, ?write⟩,
    fun v hb => ⟨_, whenAwake_next ha _, psWrite_blocked v hb⟩, fun hd hs hp => ⟨_, whenAwake_next ha _, itestStart_accepted hd hs hp⟩,
    fun h => ⟨_, whenAwake_next ha _, itestStart_refused h⟩, fun r h1 => ⟨_, whenAwake_next ha _, ?stop⟩,
    fun r h1 => (whenAwake_next ha _).trans (congrArg _ (itestStop_idle r h1))⟩
  case write =>
    obtain ⟨haddr, hwords, hblocked, hrest, hu⟩ := psWrite_stores v hb
    exact ⟨haddr, hwords, hblocked, hrest, fun m => ⟨hu.massif m, hu.seq m, hu.fewer m⟩⟩
  case stop =>
    rw [itestStop_running r h1]
    cases hr : s.itest.rx with
    | true => rw [itestSee_rx r h1 hr]; exact ⟨rfl, rfl, fun _ => ⟨rfl, rfl, rfl, rfl⟩, nofun⟩
    | false => rw [itestSee_tx r hr]; exact ⟨rfl, rfl, nofun, fun _ => rfl⟩

end Sys2Proof.Machine
end
section
/-! How a load and a check end (O23), and the operations of the SEQ slot (O21). -/
namespace Sys2Proof.Machine

/-! ## The end of a load and of a check (R51, R81) -/

/-- What a change of one sequencer leaves: every other sequencer, and all of the die behind the sequencers. -/
theorem modSeq_leaves (m : Massif) (f : SeqSt → SeqSt) (s : State) :
    modSeq m f s = { s with seqs := (modSeq m f s).seqs } ∧ ∀ k, k ≠ m → getSeq (modSeq m f s) k = getSeq s k :=
  ⟨rfl, fun k h => by rw [getSeq_modSeq, if_neg h]⟩

/-- A program with no violation has no first one; the first of any other is one of its violations. -/
theorem firstViolation_mem {l : List Violation} (h : l ≠ []) : ∃ v ∈ l, firstViolation l = some v := by
  cases l with
  | nil => exact absurd rfl h
  | cons v l =>
    refine ⟨_, ?_, rfl⟩
    refine List.foldlRecOn (motive := fun w : Violation => w ∈ v :: l) l _ (List.mem_cons_self ..) (fun a ha b hb => ?_)
    split
    · exact List.mem_cons_of_mem v hb
    · exact ha

theorem checkReport_clean (q : SeqSt) : checkReport [] q = { q with
    state := q.prev, checked := true, result := .ok, violations := 0, checkCode := 0, checkAddr := 0, checkSlot := 0 } := rfl
/-- A check with violations fails, and reports one of them (R81). -/
theorem checkReport_violated {l : List Violation} (h : l ≠ []) (q : SeqSt) : ∃ v ∈ l, checkReport l q = { q with
    state := q.prev, checked := false, result := .checkFail, violations := min l.length 0xFFFF
    checkCode := BitVec.ofNat 4 v.code, checkAddr := BitVec.ofNat 18 v.addr, checkSlot := BitVec.ofNat 3 v.slot } := by
  obtain ⟨v, hv, hf⟩ := firstViolation_mem h
  have he : l.isEmpty = false := by simpa using h
  refine ⟨v, hv, ?_⟩
  simp only [checkReport, hf, he]
  rfl

/-- Settles O23: the two completions change their own sequencer alone, to what loadComplete's and the report's case gives. -/
theorem loadsAndChecksComplete : Obligations.LoadsAndChecksComplete := by
  unfold Obligations.LoadsAndChecksComplete
  intro m s ha z kept
  refine ⟨fun hz hend => ⟨_, whenAwake_next ha _, modSeq_leaves m _ s, ?load⟩, fun hz => ⟨_, whenAwake_next ha _, ?check⟩⟩
  case load =>
    have hz : (z.state == .loading) = true := beq_iff_eq.mpr hz
    have hend : (z.loadFault || z.loaded == z.loadCount.toNat) = true := by simpa using hend
    simp only [getSeq_modSeq_self]
    rw [if_pos (by rw [hz, hend]; rfl)]
    exact ⟨rfl, rfl, rfl⟩
  case check =>
    rw [if_pos (beq_iff_eq.mpr hz)]
    refine ⟨modSeq_leaves m _ s, ?_⟩
    rw [getSeq_modSeq_self]
    by_cases hl : loadCheck s m = []
    · rw [hl, checkReport_clean]
      exact ⟨rfl, by simp, by simp, fun h => absurd rfl h⟩
    · obtain ⟨v, hv, hr⟩ := checkReport_violated hl (getSeq s m)
      rw [hr]
      exact ⟨rfl, by simp [hl], by simp [hl], fun _ => ⟨rfl, rfl, v, hv, rfl, rfl, rfl⟩⟩

/-! ## The SEQ slot (R69..R72, R76, R77) -/

theorem endTests_elsewhere {e : Nat} {l : OpenLoop} {r : List OpenLoop} {lcs : Vector (BitVec 32) 4} (h : l.end_ ≠ e) :
    endTests e (l :: r) lcs = (e + 1, l :: r, lcs) := by
  rw [endTests, if_neg h]
theorem endTests_again {e : Nat} {l : OpenLoop} {r : List OpenLoop} {lcs : Vector (BitVec 32) 4} (h : l.end_ = e)
    (hn : (lcs.get l.n.toFin).toNat + 1 < l.count) : endTests e (l :: r) lcs =
      (l.start, l :: r, lcs.set l.n.toNat (BitVec.ofNat 32 ((lcs.get l.n.toFin).toNat + 1))) := by
  rw [endTests, if_pos h, if_pos hn]
theorem endTests_left {e : Nat} {l : OpenLoop} {r : List OpenLoop} {lcs : Vector (BitVec 32) 4} (h : l.end_ = e)
    (hn : l.count ≤ (lcs.get l.n.toFin).toNat + 1) :
    endTests e (l :: r) lcs = endTests e r (lcs.set l.n.toNat (BitVec.ofNat 32 l.count)) := by
  rw [endTests, if_pos h, if_neg (Nat.not_lt.mpr hn)]

/-- Where the operation leads, as the sequencer takes it. -/
def seqTake (op : SeqOp) (x : Option (BitVec 23)) (q : SeqSt) : SeqSt :=
  let n := seqNext q op x
  { q with fetchAddr := BitVec.ofNat 18 n.1, loops := n.2.1, lcs := n.2.2, sentHalt := q.sentHalt || op == .halt }
/-- What an operation posts besides. -/
def seqPost (m : Massif) (op : SeqOp) (x : Option (BitVec 23)) (s : State) : State :=
  match op with
  | .hint h => hintPost m h.cls h.lead.toNat (hintLen h (x.getD 0)) s
  | .mark a => modSeq m (fun q => { q with marks := q.marks ++ [(q.nextBeat, a.imm)] }) s
  | _ => s
theorem seqResolve_eq (m : Massif) (op : SeqOp) (x : Option (BitVec 23)) (s : State) :
    seqResolve m op x s = seqPost m op x (modSeq m (seqTake op x) s) := by
  unfold seqResolve seqPost
  rfl

/-- An operation at a sequencer that fetches is resolved; at any other it does nothing. -/
theorem seqAlone_fetching {q : SeqAt} {s : State} (op : SeqOp) (ha : awake s = true) (hf : fetching s q.s = true) :
    seqAlone q op s = .next (seqPost q.s op q.x (modSeq q.s (seqTake op q.x) s)) := by
  rw [seqAlone, whenAwake_next ha, if_pos hf, seqResolve_eq]
theorem seqAlone_idle {q : SeqAt} {s : State} (op : SeqOp) (ha : awake s = true) (hf : fetching s q.s = false) :
    seqAlone q op s = .next s := by
  rw [seqAlone, whenAwake_next ha, if_neg (by simp [hf])]

/-- Any operation but HALT: the sequencer goes where the operation leads. -/
theorem seqTake_of_next {q : SeqSt} {op : SeqOp} {x : Option (BitVec 23)} {n : Nat × List OpenLoop × Vector (BitVec 32) 4}
    (ho : (op == .halt) = false) (h : seqNext q op x = n) :
    seqTake op x q = { q with fetchAddr := BitVec.ofNat 18 n.1, loops := n.2.1, lcs := n.2.2 } := by
  subst h
  simp only [seqTake, ho, Bool.or_false]
/-- HALT is the last bundle, and the fetch address stands (R61). -/
theorem seqTake_halt (x : Option (BitVec 23)) (q : SeqSt) : seqTake .halt x q = { q with sentHalt := true } := by
  have hs : (q.sentHalt || (SeqOp.halt == SeqOp.halt)) = true := by simp
  simp only [seqTake, seqNext, hs, BitVec.ofNat_toNat, BitVec.setWidth_eq]

/-- A LOOP with a count goes on to its body (R69). -/
theorem seqNext_loop_body {q : SeqSt} {a : LoopArgs} (x : Option (BitVec 23)) (h : loopCount q.file a ≠ 0) :
    let e := q.fetchAddr.toNat + loopLen a (x.getD 0)
    seqNext q (.loop a) x =
      (q.fetchAddr.toNat + 1, ⟨a.n, q.fetchAddr.toNat + 1, e, loopCount q.file a⟩ :: q.loops, q.lcs.set a.n.toNat 0) :=
  if_neg h
/-- A LOOP without one is tested at its body's end (R69). -/
theorem seqNext_loop_skip {q : SeqSt} {a : LoopArgs} (x : Option (BitVec 23)) (h : loopCount q.file a = 0) :
    seqNext q (.loop a) x = endTests (q.fetchAddr.toNat + loopLen a (x.getD 0)) q.loops (q.lcs.set a.n.toNat 0) :=
  if_pos h
theorem seqNext_branch_taken {q : SeqSt} {a : BranchArgs} {x : Option (BitVec 23)} (h : branchTaken q.lcs q.file a (x.getD 0) = true) :
    let t := ((q.fetchAddr.toNat : Int) + branchOfs a x).toNat
    seqNext q (.branch a) x = (t, q.loops.filter (fun l => decide (l.start ≤ t) && decide (t ≤ l.end_)), q.lcs) :=
  if_pos h
theorem seqNext_branch_past {q : SeqSt} {a : BranchArgs} {x : Option (BitVec 23)} (h : branchTaken q.lcs q.file a (x.getD 0) = false) :
    seqNext q (.branch a) x = endTests q.fetchAddr.toNat q.loops q.lcs :=
  if_neg (by rw [h]; exact Bool.false_ne_true)

/-! ### Targets after a retarget (R450) -/

/-- From s to t only targets, their marks of a change, and the writes that wait for the AVSBus differ. -/
structure Retargeted (s t : State) : Prop where
  rest : t = { s with pm := { s.pm with quads := t.pm.quads, writes := t.pm.writes } }
  quads : ∀ n, t.pm.quads.get n =
    { s.pm.quads.get n with target := (t.pm.quads.get n).target, changed := (t.pm.quads.get n).changed }

theorem Retargeted.refl (s : State) : Retargeted s s := ⟨rfl, fun _ => rfl⟩
theorem Retargeted.trans {s t u : State} (h : Retargeted s t) (k : Retargeted t u) : Retargeted s u :=
  ⟨by rw [k.rest, h.rest], fun n => by rw [k.quads, h.quads]⟩

/-- No rule for a target looks at a target (R450). -/
theorem Retargeted.quadTarget_eq {s t : State} (h : Retargeted s t) (n : Fin 4) : quadTarget t n = quadTarget s n := by
  have hv : (t.pm.quads.get n).thermV = (s.pm.quads.get n).thermV := by rw [h.quads]
  have hb : (t.pm.quads.get n).boost = (s.pm.quads.get n).boost := by rw [h.quads]
  have hu : quadUnboosted t n = quadUnboosted s n := by
    unfold quadUnboosted
    rw [hv, h.rest]
    rfl
  unfold quadTarget
  rw [hu, hb, h.rest]
  rfl

/-- The evaluation of one quadrant's target. -/
theorem retargetQuad_retargeted (q : Fin 4) (s : State) : Retargeted s (retargetQuad s q) ∧
    ∀ n, ((retargetQuad s q).pm.quads.get n).target =
      if n = q then BitVec.ofNat 10 (quadTarget s q) else (s.pm.quads.get n).target := by
  unfold retargetQuad
  dsimp only
  split
  · next h =>
    refine ⟨Retargeted.refl s, fun n => ?_⟩
    split
    · next e => subst e; exact (eq_of_beq h).symm
    · rfl
  · refine ⟨⟨rfl, fun n => ?_⟩, fun n => ?_⟩
    · by_cases h : n = q
      · subst h; simp [vget_set]
      · simp [vget_set, h]
    · by_cases h : n = q
      · subst h; simp [vget_set]
      · simp [vget_set, h]

/-- The evaluation of several. -/
theorem foldl_retargetQuad (l : List (Fin 4)) (s : State) : Retargeted s (l.foldl retargetQuad s) ∧
    ∀ n, ((l.foldl retargetQuad s).pm.quads.get n).target =
      if n ∈ l then BitVec.ofNat 10 (quadTarget s n) else (s.pm.quads.get n).target := by
  induction l generalizing s with
  | nil => exact ⟨Retargeted.refl s, fun _ => rfl⟩
  | cons q l ih =>
    obtain ⟨h1, t1⟩ := retargetQuad_retargeted q s
    obtain ⟨h2, t2⟩ := ih (retargetQuad s q)
    refine ⟨h1.trans h2, fun n => (t2 n).trans ?_⟩
    rw [h1.quadTarget_eq, t1]
    by_cases hl : n ∈ l
    · simp [hl]
    · by_cases hq : n = q
      · simp [hq]
      · simp [hl, hq]

theorem retarget_retargeted (s : State) : Retargeted s (retarget s) := (foldl_retargetQuad _ s).1
/-- Every target then follows its rule (R450). -/
theorem retarget_targets (s : State) (n : Fin 4) :
    ((retarget s).pm.quads.get n).target = BitVec.ofNat 10 (quadTarget (retarget s) n) := by
  rw [(retarget_retargeted s).quadTarget_eq, retarget, (foldl_retargetQuad (List.finRange 4) s).2 n, if_pos (List.mem_finRange n)]

theorem Retargeted.getSeq_eq {s t : State} (h : Retargeted s t) (m : Massif) : getSeq t m = getSeq s m := by rw [h.rest]; rfl
theorem Retargeted.getMassif_eq {s t : State} (h : Retargeted s t) (m : Massif) : getMassif t m = getMassif s m := by rw [h.rest]; rfl
theorem Retargeted.getCore_eq {s t : State} (h : Retargeted s t) (c : CoreId) : getCore t c = getCore s c := by rw [h.rest]; rfl
@[simp] theorem getSeq_retarget (s : State) (m : Massif) : getSeq (retarget s) m = getSeq s m := (retarget_retargeted s).getSeq_eq m
@[simp] theorem getMassif_retarget (s : State) (m : Massif) : getMassif (retarget s) m = getMassif s m :=
  (retarget_retargeted s).getMassif_eq m
@[simp] theorem getCore_retarget (s : State) (c : CoreId) : getCore (retarget s) c = getCore s c := (retarget_retargeted s).getCore_eq c

/-! ### The times of a hint (R449) -/

@[simp] theorem massifClus_modSeq (m k : Massif) (f : SeqSt → SeqSt) (s : State) : massifClus (modSeq m f s) k = massifClus s k := by
  unfold massifClus
  rw [getMassif_modSeq]
  rfl
@[simp] theorem massifCores_modSeq (m k : Massif) (f : SeqSt → SeqSt) (s : State) : massifCores (modSeq m f s) k = massifCores s k := by
  unfold massifCores
  rw [massifClus_modSeq]
  rfl
/-- The times of a hint depend on the sequencer by its next beat alone. -/
theorem hintTime_modSeq {m : Massif} {f : SeqSt → SeqSt} {s : State} (hf : (f (getSeq s m)).nextBeat = (getSeq s m).nextBeat) (b : Nat) :
    hintTime (modSeq m f s) m b = hintTime s m b := by
  have hb : minBeat (modSeq m f s) m = minBeat s m := by
    unfold minBeat
    rw [massifCores_modSeq]
    rfl
  have hr : massifRate (modSeq m f s) m = massifRate s m := by
    unfold massifRate
    rw [massifCores_modSeq]
    rfl
  unfold hintTime
  rw [hb, hr, getSeq_modSeq_self, hf]
  rfl

/-- What a HINT leaves: its own sequencer with the hint posted, and every target by its rule (R76, R449, R450). -/
theorem hintPost_modSeq (m : Massif) {f : SeqSt → SeqSt} {s : State} (hf : (f (getSeq s m)).nextBeat = (getSeq s m).nextBeat)
    (cls : BitVec 3) (lead len : Nat) :
    let b0 := (getSeq s m).nextBeat.toNat + lead
    let h : Hint := ⟨cls, b0, b0 + len, hintTime s m b0, hintTime s m (b0 + len)⟩
    hintPost m cls lead len (modSeq m f s) = retarget (modSeq m (fun q => { q with
      hints := (q.hints ++ [h]).drop (q.hints.length + 1 - 4) }) (modSeq m f s)) := by
  unfold hintPost
  rw [getSeq_modSeq_self, hf]
  simp only [hintTime_modSeq hf]

/-- An operation that posts nothing changes its own sequencer alone. -/
theorem seqAlone_takes {q : SeqAt} {s : State} (op : SeqOp) (ha : awake s = true) (hf : fetching s q.s = true)
    (hp : ∀ t, seqPost q.s op q.x t = t) : ∃ t, seqAlone q op s = .next t ∧
      ((∀ m, m ≠ q.s → getSeq t m = getSeq s m) ∧ ∀ m, getMassif t m = getMassif s m) ∧ t = { s with seqs := t.seqs } ∧
      getSeq t q.s = seqTake op q.x (getSeq s q.s) := by
  refine ⟨_, seqAlone_fetching op ha hf, ?_⟩
  rw [hp]
  exact ⟨⟨(modSeq_leaves q.s _ s).2, fun m => getMassif_modSeq ..⟩, rfl, getSeq_modSeq_self ..⟩

theorem fetching_of {s : State} {m : Massif} (hr : (getSeq s m).state = .running ∨ (getSeq s m).state = .stopping)
    (hh : (getSeq s m).sentHalt = false) (hc : (getSeq s m).atClean = false) : fetching s m = true := by
  rcases hr with hr | hr
  · simp [fetching, running, hr, hh, hc]
  · simp [fetching, running, hr, hh, hc]
theorem not_fetching_of {s : State} {m : Massif} (h : (getSeq s m).sentHalt = true ∨ (getSeq s m).atClean = true ∨
    ((getSeq s m).state ≠ .running ∧ (getSeq s m).state ≠ .stopping)) : fetching s m = false := by
  rcases h with h | h | ⟨hr, hs⟩
  · simp [fetching, h]
  · simp [fetching, h]
  · simp [fetching, running, hr, hs]

/-- Settles O21: each operation takes its sequencer where seqNext leads, and posts what is its own; the end tests are equations of their own
function. -/
theorem sequencerSlotOperations : Obligations.SequencerSlotOperations := by
  unfold Obligations.SequencerSlotOperations
  refine ⟨?slot, fun e lcs => ⟨rfl, fun l r => ⟨endTests_elsewhere, endTests_again, endTests_left⟩⟩⟩
  intro q s ha z A next kept
  refine ⟨fun hr hh hc => ?fetches, fun h => ?idle⟩
  case idle =>
    have hf := not_fetching_of h
    exact ⟨fun a => seqAlone_idle _ ha hf, fun a => seqAlone_idle _ ha hf, seqAlone_idle _ ha hf, fun a => seqAlone_idle _ ha hf,
      fun a => seqAlone_idle _ ha hf⟩
  case fetches =>
    have hf : fetching s q.s = true := fetching_of hr hh hc
    refine ⟨?loop, ?branch, ?halt, fun a => ?mark, ?hint⟩
    case loop =>
      intro a N E past
      obtain ⟨t, ht, hk, hrest, hq⟩ := seqAlone_takes (.loop a) ha hf (fun _ => rfl)
      refine ⟨t, ht, hk, hrest, fun hN => hq.trans ?_, fun hN => hq.trans ?_⟩
      · rw [seqTake_of_next rfl (seqNext_loop_body q.x hN), BitVec.ofNat_add, BitVec.ofNat_toNat, BitVec.setWidth_eq]
        rfl
      · exact seqTake_of_next rfl (seqNext_loop_skip q.x hN)
    case branch =>
      intro a target
      obtain ⟨t, ht, hk, hrest, hq⟩ := seqAlone_takes (.branch a) ha hf (fun _ => rfl)
      exact ⟨t, ht, hk, hrest, fun hb => hq.trans (seqTake_of_next rfl (seqNext_branch_taken hb)),
        fun hb => hq.trans (seqTake_of_next rfl (seqNext_branch_past hb))⟩
    case halt =>
      obtain ⟨t, ht, hk, hrest, hq⟩ := seqAlone_takes .halt ha hf (fun _ => rfl)
      exact ⟨t, ht, hk, hrest, hq.trans (seqTake_halt q.x z)⟩
    case mark =>
      refine ⟨_, seqAlone_fetching (.mark a) ha hf, ⟨fun m hm => ?_, fun m => ?_⟩, rfl, ?_⟩
      · exact ((modSeq_leaves q.s _ _).2 m hm).trans ((modSeq_leaves q.s _ s).2 m hm)
      · exact (getMassif_modSeq ..).trans (getMassif_modSeq ..)
      · rw [seqPost, getSeq_modSeq_self, getSeq_modSeq_self, seqTake_of_next (n := next) rfl rfl]
    case hint =>
      intro a b0 b1
      have hn : seqTake (.hint a) q.x z = { z with fetchAddr := BitVec.ofNat 18 next.1, loops := next.2.1, lcs := next.2.2 } :=
        seqTake_of_next rfl rfl
      have ht := (seqAlone_fetching (.hint a) ha hf).trans (congrArg _ (hintPost_modSeq q.s rfl a.cls a.lead.toNat _))
      refine ⟨_, ht, ⟨fun m hm => ?_, fun m => ?_⟩, ?_, ?_, retarget_targets _⟩
      · rw [getSeq_retarget]
        exact ((modSeq_leaves q.s _ _).2 m hm).trans ((modSeq_leaves q.s _ s).2 m hm)
      · rw [getMassif_retarget]
        exact (getMassif_modSeq ..).trans (getMassif_modSeq ..)
      · rw [(retarget_retargeted _).rest]
        rfl
      · rw [getSeq_retarget, getSeq_modSeq_self, getSeq_modSeq_self, hn]

end Sys2Proof.Machine
end
section
/-! Why O24 fails. A START that ends cache mode sends a zero-fill command to each cluster of its massif (R268, R370), and with these packets
the ridge carries on what waits in transit (R371, log entry 122). A signal of a core outside the massif may so leave the die, and with it
its entry among that core's signals that have not left (R334). -/
namespace Sys2Proof.Machine

/-! ## A START that lets another core's signal go -/

/-- A core of a cluster outside the massif that starts. -/
def bystander : CoreId := ⟨10, 0⟩
/-- Its signal 7, a CSIG for die 0 on its way to a col. -/
def bystanderSignal : EgressItem where
  msg := ⟨mkHdr State.reset 0 0 0 0 (.csig ⟨0, 0, 0⟩), .csig ⟨0, 0, 0⟩⟩
  wait := none
  due := none
  massif := none
  route := some (2, 0)
  since := 0
  promoted := false
  answers := none
  signalOf := some (bystander, 7, false)
/-- Massif 0, of the one core of physical cluster 3, may start and ends cache mode; the signal waits at the router of col 1, which is UP and
has credits. -/
def startWithSignal : State := { State.reset with
  cores := [(coreKey bystander, { Core.reset with xfer := { Core.reset.xfer with outSignals := [7] } })]
  clusters := [(3, { Cluster.reset with repair := { Cluster.reset.repair with active := 1 } })]
  seqs := State.reset.seqs.set 0 ⟨{ SeqSt.reset with size := 1, checked := true },
    { MassifSt.reset with state := .active, members := 1, cacheRun := true }⟩
  bring := { BringSt.reset with lmap := BringSt.reset.lmap.set 0 3 }
  cols := State.reset.cols.set 1 { ColSt.reset with state := .up, credits := Vector.replicate 6 16 }
  net := [⟨.out 1 bystanderSignal, 1, none, [colRouter 1], none, false, portCluster, 0, false, 0, 0⟩]
  netNext := 1 }

/-- The START is accepted, and waits for no TXPUT; the signal's core is none of its massif's. -/
theorem startWithSignal_starts : awake startWithSignal = true ∧ seqReject startWithSignal 0 startAccepts false = none ∧
    seqTests startWithSignal 0 true false true = none ∧ putsAcked startWithSignal 0 = true ∧ bystander ∉ massifCores startWithSignal 0 := by
  decide +kernel
/-- With the START the signal has left its die. -/
theorem startWithSignal_leaves : (getCore startWithSignal bystander).xfer.outSignals = [7] ∧
    (getCore (seqStart 0 startWithSignal) bystander).xfer.outSignals = [] := by
  decide +kernel

/-- Refutes O24: in startWithSignal a core outside the massif that starts loses its signal 7, which goes out with the START's zero-fills. -/
theorem not_runsBeginAndEnd : ¬ Obligations.RunsBeginAndEnd := by
  unfold Obligations.RunsBeginAndEnd
  rintro ⟨hstart, -, -⟩
  obtain ⟨ha, hreject, htests, hacked, hout⟩ := startWithSignal_starts
  obtain ⟨t, ht, -, -, -, -, -, -, -, -, -, hstands⟩ := hstart 0 startWithSignal ha hreject htests hacked
  have hexec : exec (.start 0) startWithSignal = .next (seqStart 0 startWithSignal) := whenAwake_next ha _
  obtain rfl : seqStart 0 startWithSignal = t := by rw [hexec] at ht; injection ht
  obtain ⟨hbefore, hafter⟩ := startWithSignal_leaves
  rw [hstands bystander hout, hbefore] at hafter
  cases hafter

end Sys2Proof.Machine
end
section
/-! What carrying messages leaves of the die (Safety: Carried), one lemma for each function of Machine/Network.lean on the way of a message
that comes in on a col: the cells counted, the ridge crossed, the egress pumped, and the credits returned. Then what a response to a request
of this die's own does (O54). -/
namespace Sys2Proof.Machine

/-! ## The relation -/

/-- Carrying, and no col counts a malformed message. -/
structure Ferried (s t : State) : Prop extends Carried s t where
  malformed : ∀ c, (getCol t c).malformed = (getCol s c).malformed

theorem SameCore.refl (k : Core) : SameCore k k := rfl
theorem SameCore.trans {k k' k'' : Core} (h : SameCore k k') (h' : SameCore k' k'') : SameCore k k'' := by
  unfold SameCore at *
  rw [h', h]

theorem Carried.refl (s : State) : Carried s s := ⟨fun _ => rfl, fun _ => rfl, rfl⟩
theorem Carried.trans {s t u : State} (h : Carried s t) (k : Carried t u) : Carried s u :=
  ⟨fun c => (h.core c).trans (k.core c), fun p => by rw [k.clus, h.clus], by rw [k.rest, h.rest]⟩
theorem Ferried.refl (s : State) : Ferried s s := ⟨Carried.refl s, fun _ => rfl⟩
theorem Ferried.trans {s t u : State} (h : Ferried s t) (k : Ferried t u) : Ferried s u :=
  ⟨h.toCarried.trans k.toCarried, fun c => (k.malformed c).trans (h.malformed c)⟩

/-- Carrying leaves the sequencers and the massifs. -/
theorem Carried.getSeq_eq {s t : State} (h : Carried s t) (m : Massif) : getSeq t m = getSeq s m := by rw [h.rest]; rfl
theorem Carried.getMassif_eq {s t : State} (h : Carried s t) (m : Massif) : getMassif t m = getMassif s m := by rw [h.rest]; rfl
/-- It leaves the program store. -/
theorem Carried.store_eq {s t : State} (h : Carried s t) : t.store = s.store := by rw [h.rest]
/-- Of a core it leaves all but the signals that have not left the die. -/
theorem Carried.ledge_eq {s t : State} (h : Carried s t) (c : CoreId) : (getCore t c).ledge = (getCore s c).ledge := by rw [h.core c]
theorem Carried.outWrites_eq {s t : State} (h : Carried s t) (c : CoreId) :
    (getCore t c).xfer.outWrites = (getCore s c).xfer.outWrites := by
  rw [h.core c]

/-! ## The cols -/

section
variable {s0 s : State}

/-- A change of one col alone. -/
theorem modCol_carried {c : Col} {f : ColSt → ColSt} (h : Carried s0 s) : Carried s0 (modCol c f s) :=
  h.trans ⟨fun _ => rfl, fun _ => rfl, rfl⟩
theorem modCol_ferried {c : Col} {f : ColSt → ColSt} (hf : ∀ k, (f k).malformed = k.malformed) (h : Ferried s0 s) :
    Ferried s0 (modCol c f s) := by
  refine ⟨modCol_carried h.toCarried, fun d => ?_⟩
  rw [getCol_modCol, ← h.malformed d]
  split
  · next e => subst e; exact hf _
  · rfl
/-- A change of activity counts alone. -/
theorem countAt_ferried {pt code cls n : Nat} {m : Option Massif} (h : Ferried s0 s) : Ferried s0 (countAt pt code cls m n s) := by
  unfold countAt
  split
  · exact h
  · exact h.trans ⟨⟨fun _ => rfl, fun _ => rfl, rfl⟩, fun _ => rfl⟩
theorem putCells_ferried {c : Col} {cells cls : Nat} {m : Option Massif} (h : Ferried s0 s) : Ferried s0 (putCells c cells cls m s) :=
  countAt_ferried (modCol_ferried (fun _ => rfl) h)
theorem takeCells_ferried {c : Col} {joins : Bool} {cells cls : Nat} (h : Ferried s0 s) : Ferried s0 (takeCells c joins cells cls s) := by
  unfold takeCells
  exact countAt_ferried (modCol_ferried (fun _ => rfl) h)
theorem putWire_ferried {c : Col} {m : Msg} {src : Option Massif} (h : Ferried s0 s) : Ferried s0 (putWire c m src s) :=
  putCells_ferried (modCol_ferried (fun _ => rfl) h)
theorem sendLink_ferried {c : Col} {b : MsgBody} (h : Ferried s0 s) : Ferried s0 (sendLink c b s) := by
  unfold sendLink putLink
  exact putCells_ferried (modCol_ferried (fun _ => rfl) (modCol_ferried (fun _ => rfl) h))
theorem returnCredit_ferried {c : Col} {m : Msg} (h : Ferried s0 s) : Ferried s0 (returnCredit c m s) := by
  unfold returnCredit
  split
  · exact h
  · exact sendLink_ferried h
theorem alignStamp_ferried {b : MsgBody} (h : Ferried s0 s) : Ferried s0 (alignStamp b s) := by
  unfold alignStamp
  split
  · exact h.trans ⟨⟨fun _ => rfl, fun _ => rfl, rfl⟩, fun _ => rfl⟩
  · exact h
/-- A signal that leaves goes from its core's list (R334). -/
theorem signalGone_ferried {e : Option (CoreId × Nat × Bool)} (h : Ferried s0 s) : Ferried s0 (signalGone e s) := by
  unfold signalGone
  split
  · refine h.trans ⟨⟨fun d => ?_, fun _ => rfl, rfl⟩, fun _ => rfl⟩
    rw [getCore_modCore]
    split
    · next e => subst e; rfl
    · rfl
  · exact h

/-! ## The egress (R398, R399) -/

theorem pumpVc_ferried {c : Col} {vc : Nat} {t : State} (h : Ferried s0 s) (e : pumpVc c vc s = some t) : Ferried s0 t := by
  unfold pumpVc at e
  dsimp only at e
  split at e
  · cases e
  · split at e
    · cases e
    · split at e
      · injection e with e
        subst e
        exact putWire_ferried (alignStamp_ferried (signalGone_ferried (modCol_ferried (fun _ => rfl) h)))
      · cases e
theorem pumpReady_ferried {c : Col} {e : Nat × State} (h : Ferried s0 s) (he : e ∈ pumpReady c s) : Ferried s0 e.2 := by
  obtain ⟨vc, -, he⟩ := List.mem_filterMap.mp he
  obtain ⟨t, ht, rfl⟩ := Option.map_eq_some_iff.mp he
  exact pumpVc_ferried h ht
theorem pump_ferried {c : Col} {n : Nat} (h : Ferried s0 s) : Ferried s0 (pump c n s) := by
  induction n generalizing s with
  | zero => exact h
  | succ n ih =>
    unfold pump
    dsimp only
    split
    · next vc t e =>
      refine ih (modCol_ferried (fun _ => rfl) (pumpReady_ferried (c := c) (e := (vc, t)) h ?_))
      rcases Option.or_eq_some_iff.mp e with e | ⟨-, e⟩
      · exact List.mem_of_find?_eq_some e
      · exact List.mem_of_mem_head? e
    · exact h
theorem pumpAll_ferried {c : Col} (h : Ferried s0 s) : Ferried s0 (pumpAll c s) := pump_ferried (modCol_ferried (fun _ => rfl) h)
theorem enqueue_ferried {c : Col} {e : EgressItem} (h : Ferried s0 s) : Ferried s0 (enqueue c e s) :=
  pumpAll_ferried (modCol_ferried (fun _ => rfl) h)

/-! ## The ridge (R370..R374) -/

/-- A cluster's router counts. -/
theorem modClus_ferried {p : PClus} {f : Cluster → Cluster}
    (hf : ∀ k, f k = { k with flits := (f k).flits, promoted := (f k).promoted }) (h : Ferried s0 s) : Ferried s0 (modClus p f s) := by
  refine h.trans ⟨⟨fun _ => rfl, fun q => ?_, rfl⟩, fun _ => rfl⟩
  rw [getClus_modClus]
  split
  · next e => subst e; exact hf _
  · rfl
/-- A change of the packets in transit, and of what counts them at the ports. -/
theorem net_ferried {n : List Packet} {k : Nat} {w : SMap Nat} (h : Ferried s0 s) :
    Ferried s0 { s with net := n, netNext := k, netWait := w } :=
  h.trans ⟨⟨fun _ => rfl, fun _ => rfl, rfl⟩, fun _ => rfl⟩
theorem flitsOut_ferried {r cls n : Nat} {mesh : Bool} {m : Option Massif} (h : Ferried s0 s) : Ferried s0 (flitsOut r mesh cls m n s) := by
  unfold flitsOut
  split
  · dsimp only
    split
    · exact countAt_ferried (modClus_ferried (fun _ => rfl) h)
    · exact modClus_ferried (fun _ => rfl) h
  · exact h
theorem noteGrant_ferried {can : Packet → Bool} {g : Packet} {n : Nat} (h : Ferried s0 s) : Ferried s0 (noteGrant can g n s) :=
  flitsOut_ferried (net_ferried h)
theorem notePromoted_ferried {g : Packet} (h : Ferried s0 s) : Ferried s0 (notePromoted g s) := by
  unfold notePromoted
  dsimp only
  split
  · split
    · exact modClus_ferried (fun _ => rfl) h
    · exact h
  · exact h
theorem netFlit_ferried {can : Packet → Bool} {g : Packet} (h : Ferried s0 s) : Ferried s0 (netFlit can g s) := by
  unfold netFlit
  dsimp only
  split
  · exact net_ferried (noteGrant_ferried h)
  · split
    · exact net_ferried (notePromoted_ferried (noteGrant_ferried h))
    · split
      · exact enqueue_ferried (net_ferried (notePromoted_ferried (noteGrant_ferried h)))
      · exact net_ferried (notePromoted_ferried (noteGrant_ferried h))
theorem netDrive_ferried {can : State → Packet → Bool} {a f : Nat} (h : Ferried s0 s) : Ferried s0 (netDrive can a f s).1 := by
  induction f generalizing a s with
  | zero => exact h
  | succ f ih =>
    unfold netDrive
    split
    · exact h
    · dsimp only
      split
      · exact h
      · split
        · exact h
        · split
          · exact h
          · exact ih (netFlit_ferried h)
theorem netSettle_ferried {n : Nat} (h : Ferried s0 s) : Ferried s0 (netSettle n s) := by
  induction n generalizing s with
  | zero => exact h
  | succ n ih =>
    unfold netSettle
    split
    · next t e =>
      refine ih ?_
      obtain ⟨p, -, e⟩ := List.exists_of_findSome?_eq_some e
      split at e
      · dsimp only at e
        split at e
        · cases e
        · injection e with e
          subst e
          exact netDrive_ferried h
      · cases e
    · exact h
theorem netCross_ferried {src dst inp flits : Nat} {due : Option Int} {what : NetItem} (h : Ferried s0 s) :
    Ferried s0 (netCross src dst inp flits due what s) :=
  netSettle_ferried (netDrive_ferried (net_ferried h))
theorem ridgePass_ferried {a b out cls flits : Nat} {m : Option Massif} (h : Ferried s0 s) :
    Ferried s0 (ridgePass a b out cls m flits s) := by
  unfold ridgePass
  split
  · exact h
  · exact net_ferried (netCross_ferried h)
theorem ridgeMove_ferried {a b cls flits : Nat} {m : Option Massif} (h : Ferried s0 s) : Ferried s0 (ridgeMove a b cls m flits s) :=
  ridgePass_ferried h

end
/-! ## A message that comes in (R391, R398) -/

/-- The cells of a message have come in at a col. -/
def cellsIn (c : Col) (m : Msg) (s : State) : State :=
  takeCells c m.hdr.joins (msgCells m) (match msgVc m with | some v => vcClass v | none => 6)
    (modCol c (fun k => { k with partialIn := false }) s)

theorem cellsIn_ferried (c : Col) (m : Msg) (s : State) : Ferried s (cellsIn c m s) :=
  takeCells_ferried (modCol_ferried (fun _ => rfl) (Ferried.refl s))
@[simp] theorem getCol_countAt (pt code cls : Nat) (m : Option Massif) (n : Nat) (s : State) (c : Col) :
    getCol (countAt pt code cls m n s) c = getCol s c := by
  unfold countAt
  split
  · rfl
  · rfl
/-- Of the cols, what comes in changes the counts of what has come in. -/
theorem getCol_cellsIn (c d : Col) (m : Msg) (s : State) : getCol (cellsIn c m s) d = { getCol s d with
    partialIn := (getCol (cellsIn c m s) d).partialIn, rxFlits := (getCol (cellsIn c m s) d).rxFlits
    rxFill := (getCol (cellsIn c m s) d).rxFill, failedReplays := (getCol (cellsIn c m s) d).failedReplays } := by
  unfold cellsIn takeCells
  by_cases h : d = c
  · subst h; simp
  · simp [getCol_modCol, h]
/-- Credits that go back leave the col's other counts. -/
theorem returnCredit_unknownTag (c : Col) (m : Msg) (s : State) (d : Col) :
    (getCol (returnCredit c m s) d).unknownTag = (getCol s d).unknownTag := by
  unfold returnCredit
  split
  · rfl
  · unfold sendLink putLink putCells
    by_cases h : d = c
    · subst h; simp
    · simp [getCol_modCol, h]

/-- A good message at a port that carries messages: its effect is that on the state with its cells in, and its credits may then go back. -/
theorem arrive_good {s : State} {c : Col} {h : MsgHdr} {b : MsgBody} (ha : Arrives s c h b) (f : State → State) :
    arrive c ⟨h, b⟩ f s = f (cellsIn c ⟨h, b⟩ s) ∨ arrive c ⟨h, b⟩ f s = returnCredit c ⟨h, b⟩ (f (cellsIn c ⟨h, b⟩ s)) := by
  have hl : colLive (getCol s c) = true := by
    rcases ha.live with e | e
    · simp [colLive, e]
    · simp [colLive, e]
  have hh : colHears (getCol s c) = true := by simp [colHears, hl]
  have e : arrive c ⟨h, b⟩ f s = (let t := f (cellsIn c ⟨h, b⟩ s)
      if colLive (getCol t c) && (getCol t c).regHeld.length ≤ (getCol s c).regHeld.length then returnCredit c ⟨h, b⟩ t else t) := by
    unfold arrive
    simp only [hl, hh, ha.good]
    rfl
  rw [e]
  dsimp only
  split
  · exact .inr rfl
  · exact .inl rfl

/-! ## A response (R381, R402, R406) -/

/-- A command that brings a response, with the message's body, its bytes and its entry. -/
def BringsResponse (c : Col) (h : MsgHdr) (i : Instr) (b : MsgBody) (bytes : List Byte) (entry : BitVec 64) : Prop :=
  (∃ bs, i = .rdata c h bs ∧ b = .rdata bs ∧ bytes = bs ∧ entry = 0) ∨ (i = .wack c h ∧ b = .wack ∧ bytes = [] ∧ entry = 0) ∨
    (∃ e, i = .walkRsp c h e ∧ b = .walkRsp e ∧ bytes = [] ∧ entry = e) ∨ (∃ v, i = .regRsp c h v ∧ b = .regRsp v ∧ bytes = [] ∧ entry = 0)

theorem exec_response {c : Col} {h : MsgHdr} {i : Instr} {b : MsgBody} {bytes : List Byte} {entry : BitVec 64}
    (hi : BringsResponse c h i b bytes entry) (s : State) : exec i s = receive c h b (responseIn c h b bytes entry) s := by
  rcases hi with ⟨_, rfl, rfl, rfl, rfl⟩ | ⟨rfl, rfl, rfl, rfl⟩ | ⟨_, rfl, rfl, rfl, rfl⟩ | ⟨_, rfl, rfl, rfl, rfl⟩
  · rfl
  · rfl
  · rfl
  · rfl

/-- Whom a message is for, what waits for it, and what it can cross, are as before its cells came in. -/
theorem forMe_cellsIn (c : Col) (m : Msg) (h : MsgHdr) (s : State) : forMe (cellsIn c m s) h = forMe s h := by
  rw [(cellsIn_ferried c m s).rest]
  rfl
theorem owing_cellsIn (c : Col) (m : Msg) (tag : Nat) (b : MsgBody) (s : State) : owing (cellsIn c m s) c tag b = owing s c tag b := by
  have ho (d : Col) : (getCol (cellsIn c m s) d).owed = (getCol s d).owed := by rw [getCol_cellsIn]
  simp only [owing, ho]
theorem crossesFailed_cellsIn (c : Col) (m : Msg) (a b : Nat) (s : State) : crossesFailed (cellsIn c m s) a b = crossesFailed s a b := by
  rw [(cellsIn_ferried c m s).rest]
  rfl

/-- A response for this die: what it does to the state with its cells in, up to the credits that go back. -/
theorem response_acts {c : Col} {h : MsgHdr} {s : State} {i : Instr} {b : MsgBody} {bytes : List Byte} {entry : BitVec 64}
    (ha : awake s = true) (hm : forMe s h = true) (harr : Arrives s c h b) (hi : BringsResponse c h i b bytes entry) :
    let v := responseIn c h b bytes entry (cellsIn c ⟨h, b⟩ s)
    ∃ t, exec i s = .next t ∧ Ferried v t ∧ (getCol t c).unknownTag = (getCol v c).unknownTag := by
  refine ⟨_, (exec_response hi s).trans (whenAwake_next ha _), ?_⟩
  have e := arrive_good harr (fun s => if forMe s h then responseIn c h b bytes entry s else forward c ⟨h, b⟩ s)
  simp only [forMe_cellsIn, hm, if_true] at e
  rcases e with e | e
  · rw [e]; exact ⟨Ferried.refl _, rfl⟩
  · rw [e]; exact ⟨returnCredit_ferried (Ferried.refl _), returnCredit_unknownTag ..⟩

/-- The wait of a TAG has ended: the response has crossed the ridge to who waits, the TAG is free, and what waited for one may go. -/
def waitEnds (c : Col) (h : MsgHdr) (b : MsgBody) (d : Col) (w : Waiting) (s : State) : State :=
  let r := waitRouter w
  pumpAll d (modCol d (fun k => { k with owed := smSet none k.owed h.tag.toNat none })
    (ridgePass (colRouter c) r (portOf (waitCore w).isSome r) (bodyClass b) none (packetFlits (bodyBytes b)) s))
theorem waitEnds_ferried (c : Col) (h : MsgHdr) (b : MsgBody) (d : Col) (w : Waiting) (s : State) : Ferried s (waitEnds c h b d w s) :=
  pumpAll_ferried (modCol_ferried (fun _ => rfl) (ridgePass_ferried (Ferried.refl s)))

theorem responseIn_unknown {c : Col} {h : MsgHdr} {b : MsgBody} {s : State} (bytes : List Byte) (entry : BitVec 64)
    (ho : owing s c h.tag.toNat b = none) :
    responseIn c h b bytes entry s = modCol c (fun k => { k with unknownTag := satInc 16 k.unknownTag }) s := by
  rw [responseIn, ho]
section
variable {c d : Col} {h : MsgHdr} {b : MsgBody} {s : State} {w : Waiting} (bytes : List Byte) (entry : BitVec 64)
  (ho : owing s c h.tag.toNat b = some (d, w))
include ho
/-- A response that is waited for: nothing more where its way is lost, and else the answer (R406, R508). -/
theorem responseIn_waited : responseIn c h b bytes entry s =
    (let v := waitEnds c h b d w s
    if crossesFailed s (colRouter c) (waitRouter w) then v
    else if 5 ≤ h.status.toNat then answer w 1 [] 0 (noteMalformed c v) else answer w h.status bytes entry v) := by
  unfold responseIn waitEnds
  rw [ho]
theorem responseIn_lost (hl : crossesFailed s (colRouter c) (waitRouter w) = true) :
    responseIn c h b bytes entry s = waitEnds c h b d w s := by
  rw [responseIn_waited bytes entry ho]
  exact if_pos hl
theorem responseIn_answers (hl : crossesFailed s (colRouter c) (waitRouter w) = false) (hs : h.status.toNat < 5) :
    responseIn c h b bytes entry s = answer w h.status bytes entry (waitEnds c h b d w s) := by
  rw [responseIn_waited bytes entry ho]
  exact (if_neg (by simp [hl])).trans (if_neg (Nat.not_le.mpr hs))
/-- A status of 5 to 7 is malformed, and acts as ABSENT (R406). -/
theorem responseIn_malformed (hl : crossesFailed s (colRouter c) (waitRouter w) = false) (hs : 5 ≤ h.status.toNat) :
    responseIn c h b bytes entry s = answer w 1 [] 0 (noteMalformed c (waitEnds c h b d w s)) := by
  rw [responseIn_waited bytes entry ho]
  exact (if_neg (by simp [hl])).trans (if_pos hs)
end

/-! ## A load's block (R51) -/

/-- Words stored from a place upward: each is there, and the sequencers lose CHECKED at most. -/
theorem storeWords_stored (w0 : Nat) (v : Nat → BitVec 64) (k : Nat) (s : State) :
    let t := (List.range k).foldl (fun s i => storeWrite (w0 + i) (v i) s) s
    Unchecked s t ∧ ∀ j, j < k → smGet 0 t.store.words (w0 + j) = v j := by
  induction k with
  | zero => exact ⟨Unchecked.refl s, fun j h => absurd h (Nat.not_lt_zero j)⟩
  | succ k ih =>
    obtain ⟨hu, hw⟩ := ih
    simp only [List.range_succ, List.foldl_append, List.foldl_cons, List.foldl_nil]
    refine ⟨hu.trans (storeWrite_rest ..).1, fun j hj => ?_⟩
    rw [storeWrite_words]
    by_cases h : j = k
    · rw [h, if_pos rfl]
    · rw [if_neg (by omega), hw j (by omega)]

/-- The load that a block's answer is for is under way: it has asked for this block, and is no later one. -/
structure AwaitsBlock (s : State) (m : Massif) (block gen : Nat) : Prop where
  gen : (getSeq s m).loadGen = gen
  state : (getSeq s m).state = .loading
  busy : (getSeq s m).loadBusy = true
  block : (getSeq s m).loadBlock = block

section
variable {s : State} {m : Massif} {block gen : Nat}
theorem AwaitsBlock.of_getSeq {t : State} (h : AwaitsBlock s m block gen) (e : getSeq t m = getSeq s m) : AwaitsBlock t m block gen :=
  ⟨by rw [e, h.gen], by rw [e, h.state], by rw [e, h.busy], by rw [e, h.block]⟩

/-- A block that comes with an error fails the load (R51). -/
theorem loadData_fails (h : AwaitsBlock s m block gen) {status : BitVec 3} (hs : status ≠ 0) (bytes : List Byte) :
    loadData m block gen status bytes s = loadFail m s := by
  have hs : status ≠ 0#3 := hs
  simp [loadData, h.gen, h.state, h.busy, h.block, hs]
/-- An answer with an error fails the load that waits for it (R51). -/
theorem answer_load_fails (h : AwaitsBlock s m block gen) {status : BitVec 3} (hs : status ≠ 0) (bytes : List Byte) (entry : BitVec 64) :
    (getSeq (answer (.load m block gen) status bytes entry s) m).loadFault = true ∧
      (answer (.load m block gen) status bytes entry s).store = s.store := by
  have ht (t : State) (e : AwaitsBlock t m block gen) (k : t.store = s.store) :
      (getSeq (loadData m block gen status bytes t) m).loadFault = true ∧ (loadData m block gen status bytes t).store = s.store := by
    rw [loadData_fails e hs, loadFail, getSeq_modSeq_self]
    exact ⟨rfl, k⟩
  unfold answer
  dsimp only
  split
  · exact ht (noteDieAbsent s) (h.of_getSeq rfl) rfl
  · exact ht s h rfl
theorem answer_load_ok (bytes : List Byte) (entry : BitVec 64) :
    answer (.load m block gen) 0 bytes entry s = loadData m block gen 0 bytes s := rfl
theorem loadNext_done (h : (getSeq s m).loadCount.toNat ≤ (getSeq s m).loaded) : loadNext m s = s := by
  simp [loadNext, h]

/-- The last block of a load: the bundles that remain are stored, and nothing more is asked for. -/
theorem loadData_last (h : AwaitsBlock s m block gen) (bytes : List Byte)
    (hn : (getSeq s m).loadCount.toNat ≤ (getSeq s m).loaded + (256 - loadAddr (getSeq s m) % 256) / 32)
    (hl : (getSeq s m).loaded ≤ (getSeq s m).loadCount.toNat) :
    (getSeq (loadData m block gen 0 bytes s) m).loaded = (getSeq s m).loadCount.toNat ∧
      ∀ j, j < 4 * ((getSeq s m).loadCount.toNat - (getSeq s m).loaded) → smGet 0 (loadData m block gen 0 bytes s).store.words
        (((getSeq s m).base.toNat * 128 + (getSeq s m).loadDest.toNat + (getSeq s m).loaded) * 4 + j) =
          BitVec.ofNat 64 (leNat ((bytes.drop (loadAddr (getSeq s m) % 256 + 8 * j)).take 8)) := by
  have hmin : min ((256 - loadAddr (getSeq s m) % 256) / 32) ((getSeq s m).loadCount.toNat - (getSeq s m).loaded) =
      (getSeq s m).loadCount.toNat - (getSeq s m).loaded := by omega
  have e : loadData m block gen 0 bytes s = (
      let n := (getSeq s m).loadCount.toNat - (getSeq s m).loaded
      let w0 := ((getSeq s m).base.toNat * 128 + (getSeq s m).loadDest.toNat + (getSeq s m).loaded) * 4
      let t := (List.range (4 * n)).foldl (fun s' i => storeWrite (w0 + i)
        (BitVec.ofNat 64 (leNat ((bytes.drop (loadAddr (getSeq s m) % 256 + 8 * i)).take 8))) s') s
      loadNext m (modSeq m (fun q => { q with loaded := q.loaded + n, loadBusy := false }) t)) := by
    simp [loadData, h.gen, h.state, h.busy, h.block, hmin]
  obtain ⟨hu, hw⟩ := storeWords_stored (((getSeq s m).base.toNat * 128 + (getSeq s m).loadDest.toNat + (getSeq s m).loaded) * 4)
    (fun i => BitVec.ofNat 64 (leNat ((bytes.drop (loadAddr (getSeq s m) % 256 + 8 * i)).take 8)))
    (4 * ((getSeq s m).loadCount.toNat - (getSeq s m).loaded)) s
  rw [e]
  dsimp only
  generalize (List.range (4 * ((getSeq s m).loadCount.toNat - (getSeq s m).loaded))).foldl _ s = t at hu hw ⊢
  have hloaded : (getSeq t m).loaded = (getSeq s m).loaded := by rw [hu.seq m]
  have hcount : (getSeq t m).loadCount = (getSeq s m).loadCount := by rw [hu.seq m]
  rw [loadNext_done (by rw [getSeq_modSeq_self]; dsimp only; rw [hloaded, hcount]; omega)]
  refine ⟨?_, hw⟩
  rw [getSeq_modSeq_self]
  dsimp only
  omega
end

/-! ## A TXPUT's acknowledgement (R274, R324) -/

/-- Every core has the writes outstanding and the ledge bytes that it had. -/
def KeepsWrites (s t : State) : Prop :=
  ∀ c, (getCore t c).xfer.outWrites = (getCore s c).xfer.outWrites ∧ (getCore t c).ledge.mem = (getCore s c).ledge.mem

theorem Carried.keepsWrites {s t : State} (h : Carried s t) : KeepsWrites s t := fun c => ⟨h.outWrites_eq c, by rw [h.ledge_eq c]⟩

section
variable {s0 s : State}
theorem KeepsWrites.trans {t : State} (h : KeepsWrites s0 s) (k : KeepsWrites s t) : KeepsWrites s0 t :=
  fun c => ⟨(k c).1.trans (h c).1, (k c).2.trans (h c).2⟩
theorem modCore_keepsWrites {c : CoreId} {f : Core → Core}
    (hf : ∀ k, (f k).xfer.outWrites = k.xfer.outWrites ∧ (f k).ledge.mem = k.ledge.mem) (h : KeepsWrites s0 s) :
    KeepsWrites s0 (modCore c f s) := by
  refine h.trans fun d => ?_
  rw [getCore_modCore]
  split
  · next e => subst e; exact hf _
  · exact ⟨rfl, rfl⟩
theorem foldl_keepsWrites {α : Type} {f : State → α → State} {l : List α} (hf : ∀ t a, KeepsWrites s0 t → KeepsWrites s0 (f t a))
    (h : KeepsWrites s0 s) : KeepsWrites s0 (l.foldl f s) := foldl_inv (P := KeepsWrites s0) hf h
theorem startFills_keepsWrites {m : Massif} (h : KeepsWrites s0 s) : KeepsWrites s0 (startFills m s) := by
  unfold startFills
  dsimp only
  split
  · exact foldl_keepsWrites (fun t p k => k.trans (ridgeMove_ferried (Ferried.refl t)).toCarried.keepsWrites) h
  · exact h
/-- A START clears much of a core, but neither what waits for an acknowledgement nor its ledge (R59). -/
theorem startRun_keepsWrites {m : Massif} (h : KeepsWrites s0 s) : KeepsWrites s0 (startRun m s) := by
  have hseq : KeepsWrites s0 (modMassif m startMassif (modSeq m (startSeq s.tb.count) (startFills m s))) := startFills_keepsWrites h
  have hcores := foldl_keepsWrites (l := massifCores s m)
    (f := fun s' c => modCore c (startCore (dieLines s) (getMassif s m).cacheRun (getMassif s m).cacheEn) s')
    (fun t c k => modCore_keepsWrites (fun _ => ⟨rfl, rfl⟩) k) hseq
  have hclus := foldl_keepsWrites (l := massifClus s m) (f := fun s' p => modClus p startClus s') (fun t p k => k) hcores
  exact fun c => by rw [startRun, getCore_retarget]; exact hclus c
theorem startIfAcked_keepsWrites {m : Massif} (h : KeepsWrites s0 s) : KeepsWrites s0 (startIfAcked m s) := by
  unfold startIfAcked
  split
  · split
    · exact h
    · exact startRun_keepsWrites h
  · exact h
theorem afterAck_keepsWrites {c : CoreId} (h : KeepsWrites s0 s) : KeepsWrites s0 (afterAck c s) := by
  unfold afterAck
  split
  · exact startIfAcked_keepsWrites h
  · exact h
end

/-- The acknowledgement's own way across the ridge. -/
theorem ackMove_ferried (a : AckTo) (die : BitVec 4) (lclus : BitVec 6) (lcore : BitVec 7) (s : State) :
    Ferried s (ackMove a die lclus lcore s) := by
  unfold ackMove
  split
  · split
    · exact ridgeMove_ferried (Ferried.refl s)
    · exact Ferried.refl s
  · exact Ferried.refl s

/-- A TXPUT's entry of the outbound queue frees, and its write is outstanding no longer. -/
def putFreed (c : CoreId) (eng : Bool) (id : Nat) (s : State) : State :=
  queueFree c eng (modXfer c (fun f => { f with outWrites := f.outWrites.filter (· != id) }) s)
theorem putFreed_core (c : CoreId) (eng : Bool) (id : Nat) (s : State) :
    id ∉ (getCore (putFreed c eng id s) c).xfer.outWrites ∧ (getCore (putFreed c eng id s) c).ledge = (getCore s c).ledge := by
  cases eng
  · simp [putFreed, queueFree, modXfer]
  · simp [putFreed, queueFree, modXfer]

/-- A good acknowledgement of a TXPUT: its write is outstanding no longer, and its core's ledge stands, also where a START that waited for
the acknowledgement proceeds. -/
theorem answer_put (c : CoreId) (eng : Bool) (id : Nat) (die : BitVec 4) (lclus : BitVec 6) (lcore : BitVec 7) (bytes : List Byte)
    (entry : BitVec 64) (s : State) : let t := answer (.write (.put c eng id) die lclus lcore) 0 bytes entry s
    id ∉ (getCore t c).xfer.outWrites ∧ (getCore t c).ledge.mem = (getCore s c).ledge.mem := by
  have ht : answer (.write (.put c eng id) die lclus lcore) 0 bytes entry s =
    afterAck c (putFreed c eng id (ackMove (.put c eng id) die lclus lcore s)) := rfl
  obtain ⟨hgone, hledge⟩ := putFreed_core c eng id (ackMove (.put c eng id) die lclus lcore s)
  obtain ⟨hout, hmem⟩ := afterAck_keepsWrites (c := c) (s := putFreed c eng id (ackMove (.put c eng id) die lclus lcore s))
    (fun _ => ⟨rfl, rfl⟩) c
  dsimp only
  rw [ht, hout, hmem, hledge, (ackMove_ferried (.put c eng id) die lclus lcore s).ledge_eq c]
  exact ⟨hgone, rfl⟩

/-! ## What a response brings its waiter -/

section
variable {c d : Col} {h : MsgHdr} {b : MsgBody} {s : State} {m : Massif} {block gen : Nat} (bytes : List Byte) (entry : BitVec 64)

/-- An error, malformed ones among them, fails the load that waits. -/
theorem responseIn_load_fails (ho : owing s c h.tag.toNat b = some (d, .load m block gen))
    (hl : crossesFailed s (colRouter c) (waitRouter (.load m block gen)) = false) (hw : AwaitsBlock s m block gen) (hs : h.status ≠ 0) :
    (getSeq (responseIn c h b bytes entry s) m).loadFault = true ∧ (responseIn c h b bytes entry s).store = s.store := by
  have hv : Carried s (waitEnds c h b d (.load m block gen) s) := (waitEnds_ferried ..).toCarried
  have hn : Carried s (noteMalformed c (waitEnds c h b d (.load m block gen) s)) := modCol_carried hv
  rcases Nat.lt_or_ge h.status.toNat 5 with h5 | h5
  · rw [responseIn_answers bytes entry ho hl h5, ← hv.store_eq]
    exact answer_load_fails (hw.of_getSeq (hv.getSeq_eq m)) hs bytes entry
  · rw [responseIn_malformed bytes entry ho hl h5, ← hn.store_eq]
    exact answer_load_fails (hw.of_getSeq (hn.getSeq_eq m)) (by decide) [] 0

/-- The last block of a load is stored. -/
theorem responseIn_load_last (ho : owing s c h.tag.toNat b = some (d, .load m block gen))
    (hl : crossesFailed s (colRouter c) (waitRouter (.load m block gen)) = false) (hw : AwaitsBlock s m block gen) (hs : h.status = 0)
    (hn : (getSeq s m).loadCount.toNat ≤ (getSeq s m).loaded + (256 - loadAddr (getSeq s m) % 256) / 32)
    (hle : (getSeq s m).loaded ≤ (getSeq s m).loadCount.toNat) : let t := responseIn c h b bytes entry s
    (getSeq t m).loaded = (getSeq s m).loadCount.toNat ∧
      ∀ j, j < 4 * ((getSeq s m).loadCount.toNat - (getSeq s m).loaded) → smGet 0 t.store.words
        (((getSeq s m).base.toNat * 128 + (getSeq s m).loadDest.toNat + (getSeq s m).loaded) * 4 + j) =
          BitVec.ofNat 64 (leNat ((bytes.drop (loadAddr (getSeq s m) % 256 + 8 * j)).take 8)) := by
  have hv : Carried s (waitEnds c h b d (.load m block gen) s) := (waitEnds_ferried ..).toCarried
  dsimp only
  rw [responseIn_answers bytes entry ho hl (by rw [hs]; decide), hs, answer_load_ok, ← hv.getSeq_eq m]
  rw [← hv.getSeq_eq m] at hn hle
  exact loadData_last (hw.of_getSeq (hv.getSeq_eq m)) bytes hn hle

/-- A TXPUT's acknowledgement takes its write from those outstanding. -/
theorem responseIn_put {e : CoreId} {eng : Bool} {id : Nat} {die : BitVec 4} {lc : BitVec 6} {lk : BitVec 7}
    (ho : owing s c h.tag.toNat b = some (d, .write (.put e eng id) die lc lk))
    (hl : crossesFailed s (colRouter c) (waitRouter (.write (.put e eng id) die lc lk)) = false) (hs : h.status = 0) :
    let t := responseIn c h b bytes entry s
    id ∉ (getCore t e).xfer.outWrites ∧ (getCore t e).ledge.mem = (getCore s e).ledge.mem := by
  have hv : Carried s (waitEnds c h b d (.write (.put e eng id) die lc lk) s) := (waitEnds_ferried ..).toCarried
  dsimp only
  rw [responseIn_answers bytes entry ho hl (by rw [hs]; decide), hs, ← hv.ledge_eq e]
  exact answer_put e eng id die lc lk bytes entry _
end

/-- Settles O54: a response that nothing waits for is counted, one whose way is lost ends the wait alone, and any other is what its waiter's
own law says of the answer, between carryings that touch neither store, sequencers nor ledges. -/
theorem responsesArrive : Obligations.ResponsesArrive := by
  unfold Obligations.ResponsesArrive
  intro c h s i b bytes entry ha hm harr hi
  obtain ⟨t, ht, hvt, hcount⟩ := response_acts ha hm harr hi
  have hin := cellsIn_ferried c ⟨h, b⟩ s
  refine ⟨fun ho => ?unknown, fun d w ho hl => ?lost, fun d w ho hl => ?answered⟩
  case unknown =>
    rw [← owing_cellsIn c ⟨h, b⟩] at ho
    rw [responseIn_unknown bytes entry ho] at hvt hcount
    refine ⟨t, ht, (modCol_carried hin.toCarried).trans hvt.toCarried, hcount.trans ?_⟩
    rw [getCol_modCol_self, getCol_cellsIn]
  case lost =>
    rw [← owing_cellsIn c ⟨h, b⟩] at ho
    rw [← crossesFailed_cellsIn c ⟨h, b⟩] at hl
    rw [responseIn_lost bytes entry ho hl] at hvt
    exact ⟨t, ht, ((hin.trans (waitEnds_ferried c h b d w _)).trans hvt).toCarried⟩
  case answered =>
    rw [← owing_cellsIn c ⟨h, b⟩] at ho
    rw [← crossesFailed_cellsIn c ⟨h, b⟩] at hl
    have hv := hin.trans (waitEnds_ferried c h b d w _)
    refine ⟨fun hs => ?good, fun hs => ?bad, fun m block gen hw hgen hstate hbusy hblock => ?load, fun e eng id die lc lk hw hs => ?put⟩
    case good =>
      rw [responseIn_answers bytes entry ho hl hs] at hvt
      exact ⟨_, t, ht, hv.toCarried, hvt.toCarried⟩
    case bad =>
      rw [responseIn_malformed bytes entry ho hl hs] at hvt
      refine ⟨_, t, ht, modCol_carried hv.toCarried, hvt.toCarried, ?_⟩
      rw [getCol_modCol_self, hv.malformed]
    case load =>
      subst hw
      have hwait : AwaitsBlock s m block gen := ⟨hgen, hstate, hbusy, hblock⟩
      have hwait := hwait.of_getSeq (hin.getSeq_eq m)
      refine ⟨fun hs => ⟨t, ht, ?_⟩, fun hs hn hle => ⟨t, ht, ?_⟩⟩
      · rw [hvt.getSeq_eq, hvt.store_eq, ← hin.store_eq]
        exact responseIn_load_fails bytes entry ho hl hwait hs
      · rw [hvt.getSeq_eq, hvt.store_eq, ← hin.getSeq_eq m]
        rw [← hin.getSeq_eq m] at hn hle
        exact responseIn_load_last bytes entry ho hl hwait hs hn hle
    case put =>
      subst hw
      refine ⟨t, ht, ?_⟩
      rw [hvt.outWrites_eq, hvt.ledge_eq, ← hin.ledge_eq e]
      exact responseIn_put bytes entry ho hl hs

end Sys2Proof.Machine
end
section
/-! The one-beat operations of the VXE (chapter 08): the bytes of a vector register, what numeric events and the halt they bring change of a
core, what an operation alone in the slot leaves, and then the lanes that each writes (O9, O10). -/
namespace Sys2Proof.Machine

/-! ## Bytes of the vector registers (R210, R211) -/

@[simp] theorem length_leBytes (v n : Nat) : (leBytes v n).length = n := by
  induction n generalizing v with
  | zero => rfl
  | succ n ih => simp [leBytes, ih]
theorem memRead_memWrite_same (m : Mem) (a : Nat) (bs : List Byte) : memRead (memWrite m a bs) a bs.length = bs := by
  refine List.ext_getElem (by simp [memRead]) fun i _ h => ?_
  simp [memRead, memGet_memWrite_in bs m a h]
theorem memRead_memWrite_apart (m : Mem) {a b n : Nat} {bs : List Byte} (h : b + n ≤ a ∨ a + bs.length ≤ b) :
    memRead (memWrite m a bs) b n = memRead m b n := by
  refine List.map_congr_left fun i hi => memGet_memWrite_out bs m a ?_
  have hi := List.mem_range.mp hi
  omega

/-- Each lane takes the bytes of its format. -/
theorem length_vPack (bf : Bool) (l : List Nat) : (vPack bf l).length = l.length * (if bf then 2 else 4) := by
  induction l with
  | nil => rw [List.length_nil, Nat.zero_mul]; rfl
  | cons c l ih =>
    have hcons : vPack bf (c :: l) = leBytes c (if bf then 2 else 4) ++ vPack bf l := rfl
    rw [hcons, List.length_append, length_leBytes, ih, List.length_cons, Nat.succ_mul, Nat.add_comm]
/-- The lanes of a register fill its 256 bytes. -/
theorem length_vPack_lanes {bf : Bool} {l : List Nat} (h : l.length = vLanes bf) : (vPack bf l).length = 256 := by
  rw [length_vPack, h]
  cases bf <;> rfl
theorem vReg_vWrite_same (v : VxeSt) (r : BitVec 4) {bs : List Byte} (h : bs.length = 256) : vReg (vWrite v r bs) r = bs := by
  unfold vReg vWrite
  rw [← h]
  exact memRead_memWrite_same ..
theorem vReg_vWrite_ne (v : VxeSt) {r d : BitVec 4} {bs : List Byte} (h : bs.length = 256) (hr : r ≠ d) :
    vReg (vWrite v d bs) r = vReg v r := by
  have hn : r.toNat ≠ d.toNat := fun e => hr (BitVec.eq_of_toNat_eq e)
  exact memRead_memWrite_apart _ (by omega)

/-! ## Flags written (R73) -/

/-- A flag written changes the flags alone. -/
theorem pfWrite_pfs (d : BitVec 3) (v : Bool) (i : IssueSt) : pfWrite d v i = { i with pfs := (pfWrite d v i).pfs } := by
  unfold pfWrite
  split <;> rfl
/-- The flag named takes the value, unless it is PF0. -/
theorem pfWrite_getLsbD (d : BitVec 3) (v : Bool) (i : IssueSt) (j : Fin 8) :
    (pfWrite d v i).pfs.getLsbD j = if j.val = d.toNat ∧ d ≠ 0 then v else i.pfs.getLsbD j := by
  by_cases hd : d = 0#3
  · subst hd
    simp [pfWrite]
  · have hw : (pfWrite d v i).pfs = if v then i.pfs ||| BitVec.twoPow 8 d.toNat else i.pfs &&& ~~~BitVec.twoPow 8 d.toNat := by
      unfold pfWrite
      rw [if_neg (by simpa using hd)]
      rfl
    have hbit : (BitVec.twoPow 8 d.toNat).getLsbD j = decide (j.val = d.toNat) := by
      rw [BitVec.getLsbD_twoPow, decide_eq_true (by omega), Bool.true_and]
      exact decide_eq_decide.mpr eq_comm
    rw [hw]
    cases v with
    | false =>
      rw [if_neg Bool.false_ne_true, BitVec.getLsbD_and, BitVec.getLsbD_not, hbit]
      by_cases hj : j.val = d.toNat <;> simp [hj, hd]
    | true =>
      rw [if_pos rfl, BitVec.getLsbD_or, hbit]
      by_cases hj : j.val = d.toNat <;> simp [hj, hd]

/-! ## Numeric events, and the halt under HALT_CORE (R227..R236, R499) -/

/-- The two cores differ at most in what numeric events record, and in the halt that a trap brings. -/
def OnlyNoted (k k' : Core) : Prop := k' = { k with
  trap := k'.trap
  err := { k.err with heldEvents := k'.err.heldEvents }
  ost := { k.ost with outOverflow := k'.ost.outOverflow }
  vxe := { k.vxe with overflow := k'.vxe.overflow, divzero := k'.vxe.divzero }
  issue := { k.issue with halted := k'.issue.halted, waitCause := k'.issue.waitCause, waitUnits := k'.issue.waitUnits } }

theorem OnlyNoted.refl (k : Core) : OnlyNoted k k := rfl
theorem OnlyNoted.trans {k k' k'' : Core} (h : OnlyNoted k k') (h' : OnlyNoted k' k'') : OnlyNoted k k'' := by
  unfold OnlyNoted at *
  rw [h', h]

theorem flagSet_noted (flag : Nat) (k : Core) : OnlyNoted k (flagSet flag k) := by
  unfold flagSet
  split <;> rfl
theorem eventApply_noted (k : Core) (e : NumEvent) : OnlyNoted k (eventApply k e) := by
  unfold eventApply
  split
  · exact flagSet_noted ..
  · rfl
theorem eventsPost_noted (l : List NumEvent) (k : Core) : OnlyNoted k (eventsPost l k) := by
  unfold eventsPost
  refine foldl_inv (P := OnlyNoted k) (fun q e h => h.trans ?_) (OnlyNoted.refl k)
  split
  · rfl
  · exact eventApply_noted q e

/-- The halt after an operation alone changes its own core, and there the halt's own fields. -/
theorem trapRaised_noted (c : CoreId) (k : Core) (s : State) :
    OnlyCore c s (trapRaised c k s) ∧ OnlyNoted (getCore s c) (getCore (trapRaised c k s) c) := by
  unfold trapRaised trapStop
  split
  · exact ⟨onlyCore_refl c s, OnlyNoted.refl _⟩
  · split
    · refine ⟨onlyCore_modCore c _ s, ?_⟩
      rw [modIssue, getCore_modCore_self]
      rfl
    · exact ⟨onlyCore_refl c s, OnlyNoted.refl _⟩

/-! ## An operation alone in the slot (R212, R442) -/

/-- Counting an operation leaves every core as it is. -/
@[simp] theorem getCore_vxeCount (c d : CoreId) (op : VxeOp) (s : State) : getCore (vxeCount d op s) c = getCore s c := by
  unfold vxeCount
  split
  · exact getCore_countCore ..
  · rfl

/-- An operation whose unit is free and that leaves nothing to rerun: its core is as its start leaves it, up to the halt of a trap that it
raises, and outside its core it is counted. -/
theorem vxeAlone_acts {p : SlotAt} {s : State} (h : CoreActs s p.core) (hr : (getCore s p.core).vxe.run = none) {op : VxeOp} {k : Core}
    (hk : vxeStart (slotEnv s p) (latchOf (getCore s p.core).issue p.addr) op (getCore s p.core) = k) (hc : k.err.rerun = []) :
    ∃ t, vxeAlone p op s = .next t ∧ OnlyCore p.core (vxeCount p.core op (slotCount p.core (vxeSlots op) s)) t ∧
      OnlyNoted k (getCore t p.core) ∧ (k.trap.valid = (getCore s p.core).trap.valid → getCore t p.core = k) := by
  have hfree : (getCore s p.core).vxe.run.isNone = true := by rw [hr]; rfl
  have hcore : getCore (modCore p.core (vxeSlot (slotEnv s p) (latchOf (getCore s p.core).issue p.addr) op)
      (vxeCount p.core op (slotCount p.core (vxeSlots op) s))) p.core = k := by
    rw [getCore_modCore_self, getCore_vxeCount, getCore_slotCount, vxeSlot, hr]
    exact hk
  refine ⟨_, (whenAwake_next h.awake _).trans (congrArg _ (slotAct_clean h hfree _ (by rw [hcore, hc]))),
    (onlyCore_modCore ..).trans (trapRaised_noted ..).1, ?noted, fun hv => ?exact⟩
  case noted =>
    rw [← hcore]
    exact (trapRaised_noted ..).2
  case exact =>
    rw [trapRaised_same (by rw [hcore, hv]), hcore]

/-! ## The operations that write a vector register in one beat (R215..R217, R220, R222, R223) -/

/-- A vector engine that has counted one operation more. -/
def vxeCounted (v : VxeSt) : VxeSt := { v with opCount := v.opCount + 1 }
/-- The operations that write a vector register at their start. -/
def writesNow : VxeOp → Bool
  | .vadd _ | .vsub _ | .vmul _ | .vfma _ | .vmax _ | .vmin _ | .vrot _ | .vcvt _ | .vbcast _ => true
  | _ => false

/-- Guarded on, such an operation is counted, writes, and posts its events. -/
theorem vxeStart_writesNow {op : VxeOp} (hw : writesNow op = true) (env : Env) {t : Latched} (hg : guardOn t 2 = true) (k : Core) :
    vxeStart env t op k = (
      let q := vxeNow (startOp t false) op (vxeCounted k.vxe)
      eventsPost q.2 { k with vxe := q.1 }) := by
  cases op with
  | nop | vld _ | vst _ | vldl _ | vstl _ | vexp _ | vrcp _ | vrsqrt _ | vred _ | vcmp _ | vtoof _ => cases hw
  | vadd _ | vsub _ | vmul _ | vfma _ | vmax _ | vmin _ | vrot _ | vcvt _ | vbcast _ =>
    simp only [vxeStart, hg]
    rfl
/-- It is counted as one VXE operation of one beat, and takes no slot of the ledge. -/
theorem vxeCount_writesNow {op : VxeOp} (hw : writesNow op = true) (c : CoreId) (s : State) :
    vxeCount c op (slotCount c (vxeSlots op) s) = countCore c 2 1 s := by
  cases op with
  | nop | vld _ | vst _ | vldl _ | vstl _ | vexp _ | vrcp _ | vrsqrt _ | vred _ | vcmp _ | vtoof _ => cases hw
  | vadd _ | vsub _ | vmul _ | vfma _ | vmax _ | vmin _ | vrot _ | vcvt _ | vbcast _ => rfl

/-- The operation gives register vd these lanes, from the registers of v. -/
structure GivesLanes (op : VxeOp) (v : VxeSt) (vd : BitVec 4) (bf : Bool) (l : List Nat) : Prop where
  now : writesNow op = true
  count : l.length = vLanes bf
  gives : ∀ pr, (vxeNow pr op (vxeCounted v)).1 = vWrite (vxeCounted v) vd (vPack bf l)

/-- A lane-wise operation gives the codes of its lanes. -/
theorem givesLanes_of_lanewise {op : VxeOp} {v : VxeSt} {vd : BitVec 4} {bf : Bool} {f : Nat → LaneOut} (hw : writesNow op = true)
    (hf : ∀ pr, vxeNow pr op (vxeCounted v) = vLanewise pr bf vd f (vxeCounted v)) :
    GivesLanes op v vd bf ((List.range (vLanes bf)).map (fun i => (f i).1)) := by
  refine ⟨hw, by simp, fun pr => ?_⟩
  rw [hf, vLanewise, List.map_map]
  rfl

/-- VCVT to BF16 takes its lanes from two registers (R222). -/
theorem givesLanes_vcvt_narrow {a : VarithArgs} (ha : a.sub = 0) (v : VxeSt) :
    GivesLanes (.vcvt a) v a.vd true ((List.range 128).map (fun i =>
      let c := if i < 64 then vLane false (vReg v a.va) i else vLane false (vReg v a.vb) (i - 64)
      (bf16Encode (vSign false c) (vVal false c)).1)) := by
  refine ⟨rfl, by simp [vLanes], fun pr => ?_⟩
  simp only [vxeNow, ha, List.map_map]
  rfl
/-- VCVT to FP32 takes one half of a register (R222). -/
theorem givesLanes_vcvt_wide {a : VarithArgs} (ha : a.sub ≠ 0) (v : VxeSt) :
    GivesLanes (.vcvt a) v a.vd false
      ((List.range 64).map (fun i => vLane true (vReg v a.va) (i + if a.sub = 1 then 0 else 64) * 65536)) := by
  have ha : (a.sub == 0) = false := by simpa using ha
  refine ⟨rfl, by simp [vLanes], fun pr => ?_⟩
  simp only [vxeNow, ha, beq_iff_eq]
  rfl
theorem givesLanes_vbcast (a : VbcastArgs) (v : VxeSt) :
    GivesLanes (.vbcast a) v a.vd a.bf (List.replicate (vLanes a.bf) (vLane a.bf (vReg v a.va) a.j.toNat)) :=
  ⟨rfl, List.length_replicate, fun _ => rfl⟩

/-- In the latch of a bundle, slot 2 is guarded by bit 1. -/
theorem guardOn_latchOf_vxe (i : IssueSt) (addr : BitVec 18) : guardOn (latchOf i addr) 2 = i.guards.getLsbD 1 := rfl

/-- A core whose register vd has been given lanes by one operation of the VXE. -/
def lanesWritten (vd : BitVec 4) (bf : Bool) (l : List Nat) (k : Core) : Core :=
  { k with vxe := vWrite (vxeCounted k.vxe) vd (vPack bf l) }

/-- Alone in the slot and guarded on, such an operation gives its core the lanes, up to what events record, and counts once outside it. -/
theorem vxeAlone_writesNow {p : SlotAt} {s : State} (h : CoreActs s p.core) (hr : (getCore s p.core).vxe.run = none)
    (hg : (getCore s p.core).issue.guards.getLsbD 1 = true) {op : VxeOp} {vd : BitVec 4} {bf : Bool} {l : List Nat}
    (hl : GivesLanes op (getCore s p.core).vxe vd bf l) :
    ∃ t, vxeAlone p op s = .next t ∧ OnlyCore p.core (countCore p.core 2 1 s) t ∧
      OnlyNoted (lanesWritten vd bf l (getCore s p.core)) (getCore t p.core) := by
  have hn : OnlyNoted (lanesWritten vd bf l (getCore s p.core))
      (vxeStart (slotEnv s p) (latchOf (getCore s p.core).issue p.addr) op (getCore s p.core)) := by
    rw [vxeStart_writesNow hl.now _ ((guardOn_latchOf_vxe ..).trans hg), lanesWritten, ← hl.gives]
    exact eventsPost_noted ..
  obtain ⟨t, ht, honly, hnoted, -⟩ := vxeAlone_acts h hr rfl (by rw [hn]; exact h.clear)
  rw [vxeCount_writesNow hl.now] at honly
  exact ⟨t, ht, honly, hn.trans hnoted⟩

/-- The register given reads as its lanes, and every other as before. -/
theorem vReg_of_lanesWritten {vd : BitVec 4} {bf : Bool} {l : List Nat} {k k' : Core} (h : OnlyNoted (lanesWritten vd bf l k) k')
    (hl : l.length = vLanes bf) : vReg k'.vxe vd = vPack bf l ∧ ∀ r : BitVec 4, r ≠ vd → vReg k'.vxe r = vReg k.vxe r := by
  rw [h]
  exact ⟨vReg_vWrite_same k.vxe vd (length_vPack_lanes hl), fun r hr => vReg_vWrite_ne k.vxe (length_vPack_lanes hl) hr⟩

/-- Settles O9: each of the six is lane-wise, so it gives vd the codes of its lanes, and the events that it posts leave the rest. -/
theorem vectorArithmetic : Obligations.VectorArithmetic := by
  unfold Obligations.VectorArithmetic
  intro p a s h hr hg k x y z lanes
  have alone (op : VxeOp) {f : Nat → LaneOut} (hw : writesNow op = true)
      (hf : ∀ pr, vxeNow pr op (vxeCounted k.vxe) = vLanewise pr a.bf a.vd f (vxeCounted k.vxe)) :
      ∃ t, vxeAlone p op s = .next t ∧ lanes f t := by
    have hl := givesLanes_of_lanewise hw hf
    obtain ⟨t, ht, honly, hnoted⟩ := vxeAlone_writesNow h hr hg hl
    obtain ⟨hvd, hothers⟩ := vReg_of_lanesWritten hnoted hl.count
    refine ⟨t, ht, honly, hvd, hothers, ?_⟩
    rw [hnoted]
    exact ⟨rfl, rfl, rfl, rfl, rfl, rfl, rfl, rfl, rfl, rfl⟩
  exact ⟨alone (.vadd a) rfl fun _ => rfl, alone (.vsub a) rfl fun _ => rfl, alone (.vmul a) rfl fun _ => rfl,
    alone (.vfma a) rfl fun _ => rfl, alone (.vmax a) rfl fun _ => rfl, alone (.vmin a) rfl fun _ => rfl⟩

/-! ## VCMP and VTOOF (R221, R224) -/

/-- A core whose issue state an operation of the VXE has written. -/
def issueWritten (i : IssueSt) (k : Core) : Core := { k with issue := i, vxe := vxeCounted k.vxe }

theorem vxeStart_vcmp (env : Env) {t : Latched} (hg : guardOn t 2 = true) (a : VcmpArgs) (k : Core) :
    vxeStart env t (.vcmp a) k = issueWritten (pfWrite a.d (vcmpResult k.vxe a) k.issue) k := by
  simp only [vxeStart, hg]
  rfl
theorem vxeStart_vtoof (env : Env) {t : Latched} (hg : guardOn t 2 = true) (a : VtoofArgs) (k : Core) :
    vxeStart env t (.vtoof a) k = issueWritten (ofWrite a.d (vtoofResult k.vxe a) k.issue) k := by
  simp only [vxeStart, hg]
  rfl

/-- Settles O10: VROT is lane-wise, VCVT and VBCAST give the lanes of their own laws, and VCMP and VTOOF, which post no event, write one flag
or one offset register. -/
theorem vectorMoves : Obligations.VectorMoves := by
  unfold Obligations.VectorMoves
  refine ⟨?lanes, ?scalars⟩
  case lanes =>
    intro p s h hr hg k gives
    have alone {op : VxeOp} {vd : BitVec 4} {bf : Bool} {l : List Nat} (hl : GivesLanes op k.vxe vd bf l) :
        ∃ t, vxeAlone p op s = .next t ∧ gives vd bf l t := by
      obtain ⟨t, ht, honly, hnoted⟩ := vxeAlone_writesNow h hr hg hl
      obtain ⟨hvd, hothers⟩ := vReg_of_lanesWritten hnoted hl.count
      refine ⟨t, ht, honly, hvd, hothers, ?_⟩
      rw [hnoted]
      exact ⟨rfl, rfl, rfl⟩
    exact ⟨fun a => alone (givesLanes_of_lanewise (op := .vrot a) rfl fun _ => rfl),
      fun a ha => alone (givesLanes_vcvt_narrow ha k.vxe),
      fun a ha => alone (givesLanes_vcvt_wide ha k.vxe), fun a => alone (givesLanes_vbcast a k.vxe)⟩
  case scalars =>
    intro p s h hr hg k
    have hon : guardOn (latchOf k.issue p.addr) 2 = true := (guardOn_latchOf_vxe ..).trans hg
    refine ⟨fun a => ?vcmp, fun a => ?vtoof⟩
    case vcmp =>
      obtain ⟨t, ht, honly, -, hk⟩ := vxeAlone_acts h hr (vxeStart_vcmp _ hon a k) h.clear
      refine ⟨t, ht, honly, ?_⟩
      rw [hk rfl]
      exact ⟨pfWrite_getLsbD a.d _ k.issue, congrArg (issueWritten · k) (pfWrite_pfs ..)⟩
    case vtoof =>
      obtain ⟨t, ht, honly, -, hk⟩ := vxeAlone_acts h hr (vxeStart_vtoof _ hon a k) h.clear
      exact ⟨t, ht, honly, hk rfl⟩

end Sys2Proof.Machine
end
